-- ==== Sys2Proof/Word.lean ====
section
/-!
DEFINITION. The plain word types of the model: bytes, sparse maps keyed by a number, and the 64-bit
free-standing names the records use. Nothing here follows a numbered rule; the byte order and the bit
fields of the spec stand in `Sys2Proof/Machine/Bits.lean`.
-/

namespace Sys2Proof

/-- One byte. -/
abbrev Byte := BitVec 8

/-- A sparse map: pairs with strictly rising keys. A key that is not listed has the reader's default. -/
abbrev NMap (α : Type) := List (Nat × α)

/-- External memory as the chip presents it: the bytes that differ from the unwritten value (DESIGN CHOICE, log entry 1). -/
abbrev Mem := List Host.Cell

end Sys2Proof
end

