-- ==== Sys2Proof/Syntax.lean ====
section
/-!
DEFINITION. The commands of the block: one constructor of `Instr` for each row of spec/opcode_table.json, in the
table's order. A command names what the event names (a channel, a pod, a port, a written value); what the engine
may choose freely (which tile, which K-step) and what the physical world decides (an upset of a read sector, the
outcome of a self-test) are operands too.
-/

namespace Sys2Proof

/-- The three paths to the object dictionary (R455). -/
inductive Path where
  | window | ring | tunnel
  deriving DecidableEq, Repr

/-- Where a packet arrives or leaves: the engine itself, a fabric port, a Splice link (R350). -/
inductive Via where
  | loopback
  | fabric (j : Nat)
  | splice (n : Nat)
  deriving DecidableEq, Repr

/-- Who takes work from a slate: a served position (P1 or H2) or a quad running as a gang (R201 text). -/
inductive Taker where
  | pos (p : Nat)
  | quad (q : Nat)
  deriving DecidableEq, Repr

/-- A stream of updates toward the Stage: a pod's Stage link, the combiner of a quad, the crossbar port of a packet port, or the
collective unit. -/
inductive Stream where
  | pod (n : Nat)
  | gang (q : Nat)
  | xbar (via : Via)
  | coll
  deriving DecidableEq, Repr

/-- Which tensor of a command an operand line belongs to. -/
inductive Tensor where
  | a | b | scaleA | scaleB | metadata | bitmap
  deriving DecidableEq, Repr

/-- The causes of a pod fault that R428 lists. -/
inductive PodCause where
  | residue | store | clock | powerGood
  deriving DecidableEq, Repr

/-- An upset of the 41 bytes read from a sector: byte position 0 to 40 and the value XORed onto it. The empty list
is a clean read. -/
abbrev Upset := List (Nat × Byte)

/-- A sector slot of the Stage: slice, bank, slot. -/
abbrev StageSlot := Nat × Nat × Nat

/-- A staging sector that a step reads with an upset (R421, R427). -/
abbrev StageRead := StageSlot × Upset

/-- The read of one 32-byte unit of memory, by number, that does not arrive clean (R482, R483): with its RD_ERR bit, or with an
upset of the 36 bytes of the unit and its code. Of two reads listed for one unit the second is the repeated read of R427. -/
structure UnitRead where
  unit  : Nat
  err   : Bool
  upset : Upset
  deriving DecidableEq, Repr

/-- A command that completes in its own step: its ring count, and the units that the reread of CQ_HEAD_LOC meets (R339). -/
structure Completing where
  seq : Nat
  bad : List UnitRead
  deriving DecidableEq, Repr

/-- What the first addition of an accumulator meets: the units of D, and whether its adder fails its check (R46, R426). -/
structure LoadAdd where
  bad   : List UnitRead
  fault : Bool
  deriving DecidableEq, Repr

/-- An update that arrives at the Stage: its stream, and the upset of the transfer (R422). -/
structure LinkArrival where
  src   : Stream
  upset : Upset
  deriving DecidableEq, Repr

/-- A combination of gang partials: whether the combiner fails its residue check, and the upset of the transfer on a quad link
(R422, R427). -/
structure CombineAdd where
  fault : Bool
  upset : Upset
  deriving DecidableEq, Repr

/-- An output line that a drain offers: the drain, and the upset of a 32-byte transfer of the line on the drain path (R422). -/
structure OutputOffer where
  slice : Nat
  upset : Upset
  deriving DecidableEq, Repr

/-- A lane batch that is issued: its number, and the units that the reads of records beyond the stream buffer meet (R257). -/
structure BatchIssue where
  batch : Nat
  bad   : List UnitRead
  deriving DecidableEq, Repr

/-- The reads of a COPY that go wrong: units of memory, and staging sectors. -/
structure CopyReads where
  bad   : List UnitRead
  reads : List StageRead
  deriving DecidableEq, Repr

/-- A sector read of the Stage: the upset of the sector itself, and the staging sectors that a bank failure then moves (R154). -/
structure SlotRead where
  upset : Upset
  moved : List StageRead
  deriving DecidableEq, Repr

/-- The reads of one drained row: the upsets of its sectors by number, the columns whose scale or bias arithmetic fails its
check (R426), and the staging sectors that a bank failure then moves. -/
structure RowReads where
  upsets : List (Nat × Upset)
  faults : List Nat
  moved  : List StageRead
  deriving DecidableEq, Repr

/-- An addition into staging: the staging sectors that it reads, or that a bank failure moves, with an upset; and whether its adder
fails its check (R46). -/
structure StagingAdd where
  reads : List StageRead
  fault : Bool
  deriving DecidableEq, Repr

/-- The reads of the operand region for one line: the upsets of its units in their order, and the staging sectors that a bank
failure then moves. -/
structure FillReads where
  upsets : List Upset
  moved  : List StageRead
  deriving DecidableEq, Repr

/-- The arrival of a short contribution: where it arrives, and whether the adder that takes it fails its check (R46). -/
structure ShortArrival where
  via   : Via
  fault : Bool
  deriving DecidableEq, Repr

/-- Why the health unit rotates a pod out of service (R224). -/
inductive RotateFor where
  | screen | update
  deriving DecidableEq, Repr

/-- One fabric flit (fabric port signals, 14): VC, packet boundaries and up to four units of 36 bytes
(32 data bytes, then c₀ to c₃). -/
structure Flit where
  vc    : Nat
  sop   : Bool
  eop   : Bool
  units : List (List Byte)
  deriving DecidableEq, Repr

/-- What start-up finds and samples (R524 steps 1 to 3): failing banks as (slice, bank), failing columns as
(pod, physical column), and the straps of R509; `forgone` tells that replies still outstanding will never come (R516). -/
structure Bist where
  banks     : List (Nat × Nat)
  columns   : List (Nat × Nat)
  chkgen    : Bool
  spliceEn  : BitVec 4
  niReady   : BitVec 4
  forgone   : Bool
  deriving DecidableEq, Repr

/-- One access on the test access port (R510, R511). Instruments read by number: temperature of a pod (0 to 33) or a slice (34 to
65), a supply monitor (66 on), the TCLK PLL lock; fuse records by place; the BIST results of a pod or a slice; a scan chain
shifted out, and shifted in when a value is given; a Stage sector; the clock observation outputs. -/
inductive TapOp where
  | idcode
  | bypass (bit : Bool)
  | sensor (number : Nat)
  | pllLock
  | fuse (place : Nat)
  | bistPod (pod : Nat)
  | bistSlice (slice : Nat)
  | scan (pod : Nat) (shift : Option (BitVec 64))
  | sector (slice bank slot : Nat)
  | observe (on : Bool)
  deriving DecidableEq, Repr

/-- The commands, in the order of spec/opcode_table.json. `ch` and `seq` name a command record by its channel and
ring count; `p` is the dictionary path a write comes through. `bad` are the reads of
32-byte units of memory that do not arrive clean in this step (R427, R482, R483);
`reads` and `moved` the staging sectors that this step reads, or moves to another place, with an upset (R154, R421, R427);
`units`, and as many upsets in `reads`, the units of a buffered operand line that are read with an upset (on their way to the feeder too, R422); `fault` a residue fault of the unit that computes (R46, R426, R427); `col` of a pod fault the physical
column of a residue fault, or the place of the failed image in the program store (R225, R428); `parity` tells of a parity error in the tile's context (R427); `vfuse` is VFUSE_OK (R508). -/
inductive Instr where
  | doorbell (ch : Nat) (bad : List UnitRead)
  | heldDoorbellServed (ch : Nat) (bad : List UnitRead)
  | commandFetch (ch : Nat) (bad : List UnitRead)
  | gemm (ch seq : Nat) (bad : List UnitRead)
  | gemmSparse (ch seq : Nat) (bad : List UnitRead)
  | takeGemm (ch seq : Nat) (bad : List UnitRead)
  | compress (ch seq : Nat) (bad : List UnitRead)
  | copy (ch seq : Nat) (bad : CopyReads)
  | put (ch seq : Nat) (bad : List UnitRead)
  | get (ch seq : Nat)
  | addx (ch seq : Nat) (bad : List UnitRead)
  | fadd (ch seq : Nat)
  | signal (ch seq : Nat)
  | triggerLoad (ch seq : Nat) (bad : List UnitRead)
  | fence (ch : Nat) (c : Completing)
  | wait (ch : Nat) (c : Completing)
  | reelMark (ch : Nat) (c : Completing)
  | nop (ch : Nat) (c : Completing)
  | chainContextLoad (ch seq : Nat) (bad : List UnitRead)
  | slateOpen (ch seq : Nat)
  | runDraw (u : Taker)
  | initialAccumulatorLoad (ctx : Nat) (add : LoadAdd)
  | gangForm (q : Nat)
  | programFetch (pod ch seq bucket : Nat) (bad : List UnitRead)
  | operandFill (pos run : Nat) (t : Tensor) (line : Nat) (units : List Nat) (reads : FillReads)
  | bLoadRow (pod ctx kstep row : Nat)
  | gangRowAlignment (q ctx kstep : Nat)
  | aRowIssue (pod ctx kstep : Nat)
  | columnSwap (pod col : Nat)
  | gangHold (q member : Nat)
  | gangResume (q : Nat)
  | partialEmit (pod col : Nat) (fault : Bool)
  | gangCombine (q col : Nat) (add : CombineAdd)
  | laneBatchIssue (pod ctx : Nat) (b : BatchIssue)
  | lanePairStep (pod lane : Nat) (fault : Bool)
  | updateArrival (u : LinkArrival)
  | readModifyWrite (slice bank : Nat) (read : SlotRead) (fault : Bool)
  | creditReturn (slice bank : Nat) (xbar : Bool)
  | commit (attempt : Nat)
  | duplicateCommit (attempt : Nat)
  | drainStart (slice : Nat)
  | drainRow (slice : Nat) (reads : RowReads)
  | drainClear (slice : Nat)
  | outputWrite (o : OutputOffer)
  | handoff (slice : Nat)
  | panelCheckWrite (ch seq panel : Nat) (bad : List UnitRead)
  | commandComplete (ch seq : Nat) (bad : List UnitRead)
  | podFault (pod : Nat) (cause : PodCause) (col : Nat)
  | serviceTransition (pod : Nat)
  | podRotationRequest (pod : Nat) (why : RotateFor)
  | tileReplay (ctx : Nat) (parity : Bool)
  | zeroSweep (ctx : Nat)
  | slotReadBack (slice bank slot : Nat) (read : SlotRead)
  | bankCopyComplete (slice bank : Nat) (lost : List Nat)
  | screenSpacingExpiry
  | screenTestStart (pod : Nat)
  | screenTestEnd (pod : Nat) (failing : List Nat)
  | reelBoundaryInterval
  | remoteOpArrival (via : Via) (bad : List UnitRead) (add : StagingAdd)
  | respArrival (via : Via)
  | triggerFire (entry : Nat)
  | triggerActionIssue (bad : List UnitRead)
  | accWindowOpen (p : Path) (w : BitVec 16)
  | accWindowOpened (bad : List UnitRead)
  | accWindowClose (p : Path) (w : BitVec 16)
  | accWindowClosed (reads : List StageRead)
  | collStart (bad : List UnitRead)
  | join (via : Via)
  | credit (via : Via)
  | chunkUp (via : Via) (add : StagingAdd)
  | chunkDown (via : Via)
  | shortUp (arrival : ShortArrival)
  | shortDown (via : Via)
  | report (via : Via)
  | commitMessage (via : Via)
  | commitAck (via : Via)
  | abortReq (via : Via)
  | outcome (via : Via)
  | loss (via : Via)
  | heartbeat (via : Via)
  | echo (via : Via)
  | heartbeatTimer
  | collStallWatchdog (num : Nat)
  | collAbort (p : Path) (num : BitVec 16)
  | collEndLocal (p : Path) (num : BitVec 16)
  | fabricFlitReceive (port : Nat) (flit : Flit)
  | fabricCredit (port : Nat) (vcs : BitVec 4)
  | niReadyRise (port : Nat)
  | caps (via : Via)
  | tunnel (via : Via)
  | spliceFlitReceive (link : Nat) (bytes : List Byte)
  | spliceReplayTimeout (link : Nat)
  | slRetrain (p : Path) (link : Nat) (v : BitVec 8)
  | linkTrainingDone (link rate ucie repaired : Nat)
  | linkTrainingTimeout (link : Nat)
  | linkTrainingRetry (link : Nat)
  | linkDown (link : Nat)
  | memoryReadBeat (port tag : Nat) (half : Bool) (err : BitVec 4) (upsets : List (Nat × Upset))
  | memoryWriteAck (port tag : Nat) (err : Bool)
  | memoryCredit (port : Nat) (write : Bool)
  | vpCredit (port : Nat)
  | dbRequest (write : Bool) (addr : BitVec 9) (be : BitVec 8) (data : BitVec 64)
  | winRead (index : BitVec 16) (sub : BitVec 8)
  | winWrite (index : BitVec 16) (sub : BitVec 8)
  | winReadSeg (index : BitVec 16) (sub : BitVec 8) (len : BitVec 9)
  | winWriteSeg (index : BitVec 16) (sub : BitVec 8) (len : BitVec 9) (last : Bool)
  | huasetFrameArrival (frame : List Byte) (cut : Bool)
  | huasetRead
  | huasetWrite
  | huasetReadSeg
  | huasetWriteSeg
  | enum (frame : List Byte)
  | channelReset (p : Path) (v : BitVec 16)
  | engineReset (p : Path) (v : BitVec 16)
  | podReset (p : Path) (v : BitVec 8)
  | podBistDone (pod : Nat) (failing : List Nat)
  | screenNow (p : Path) (v : BitVec 8)
  | sparesExhaustedAck (p : Path) (v : BitVec 8)
  | repairCommit (p : Path) (v : BitVec 8) (vfuse : Bool)
  | fuseBurnComplete (ok : Bool)
  | builtinUpdate (p : Path) (v : BitVec 8)
  | dictImageWrite (p : Path) (offset : Nat) (seg : List Byte)
  | actTableWrite (p : Path) (slot offset : Nat) (seg : List Byte)
  | stagingBytesWrite (p : Path) (v : BitVec 32)
  | irqPendingWrite (p : Path) (sub : Nat) (v : BitVec 64)
  | placePosMaskWrite (p : Path) (v : BitVec 32)
  | engineIdWrite (p : Path) (v : BitVec 32)
  | groupTableBaseWrite (p : Path) (v : BitVec 64)
  | objectWrite (p : Path) (index : BitVec 16) (sub : BitVec 8) (bytes : List Byte)
  | presenceAssert
  | presenceDeassert
  | droopApply
  | droopLift
  | throttleChange (level : BitVec 3)
  | podVack (pod : Nat)
  | podVackTimeout (pod : Nat)
  | podPgoodFall (pod : Nat)
  | powerOnReset
  | erstNLow
  | startUp (bist : Bist)
  | readyRise
  | idleEntry
  | e3Enter (p : Path) (v : BitVec 16)
  | e3Exit (p : Path) (v : BitVec 16)
  | builtinUpdatePodDone (pod : Nat) (failing : List Nat)
  | testAccessPort (op : TapOp)
  deriving DecidableEq, Repr

end Sys2Proof
end

