-- ==== Sys2Proof/Config.lean ====
section
/-!
DEFINITION. What one implementation fixes and the spec does not give, and the free values: constants
without a body, so that no proof can see a value (log entries 2, 3, 4, 22, 143).
-/

namespace Sys2Proof.Config

/-- Free value number `n` as a byte: contents a rule calls unspecified or undefined (R410, R483). -/
opaque freeByte : Nat → BitVec 8

/-- Free value number `n` as a 256-bit word: the partial of a column whose 2:4 group holds equal codes
(Sparse Inference, undefined cases). -/
opaque freeWord : Nat → BitVec 256

/-- Free value number `n` as a count (counts that an undefined case leaves open). -/
opaque freeNat : Nat → Nat

/-- Byte `j` of built-in activation image `i` (R287: the published image file, not part of the spec). -/
opaque actBuiltin : Nat → Nat → BitVec 8

/-- SILICON_REV, from fuses (0x1000.03). -/
opaque siliconRev : BitVec 16

/-- SERIAL, from fuses (0x1000.04). -/
opaque serial : BitVec 64

/-- Manufacturer code of IDCODE [11:1], from the integrator's fuses (R510). -/
opaque manufacturer : BitVec 11

/-- Set version of the shipped built-in program set (R544, 0x8060.06). -/
opaque shippedVersion : BitVec 32

/-- Value number `n` read from IEEE 1687 instrument `i` (R511: sensors, monitors, scan chains). -/
opaque instrument : Nat → Nat → BitVec 64

/-- What a field of `w` bits in a row-offset entry holds for a number `v` that it cannot hold (R239, R272; log entry 143). -/
opaque rowField (w v : Nat) : BitVec 64

end Sys2Proof.Config
end

