-- ==== Sys2Proof/Machine/Bits.lean ====
section
/-!
DEFINITION. Bits, bytes and codes: sparse maps, the canonical form of memory, little-endian fields (R4), the
sector code (R420, R421), the side check (R121), the CRCs (R424, R462) and the coordinate draw (R56).
-/

namespace Sys2Proof.Machine

/-! ### Sparse maps -/

/-- The value at key `k`, if the map lists it. -/
def nget? {α : Type} : NMap α → Nat → Option α
  | [], _ => none
  | (k, v) :: r, a => if k = a then some v else nget? r a

/-- The value at key `k`, or the default. -/
def nget {α : Type} (m : NMap α) (k : Nat) (d : α) : α := (nget? m k).getD d

/-- The map with `v` at key `k`. -/
def nput {α : Type} : NMap α → Nat → α → NMap α
  | [], a, b => [(a, b)]
  | (k, v) :: r, a, b =>
    if k = a then (a, b) :: r else if a < k then (a, b) :: (k, v) :: r else (k, v) :: nput r a b

/-- The map without key `k`. -/
def ndel {α : Type} : NMap α → Nat → NMap α
  | [], _ => []
  | (k, v) :: r, a => if k = a then ndel r a else (k, v) :: ndel r a

/-! ### Memory -/

/-- What a byte of memory that nothing has written reads as (log entry 1, DESIGN CHOICE). -/
def memUnwritten : Byte := 0

/-- One byte of memory. -/
def Memory.get (m : Mem) (a : Nat) : Byte := nget m a memUnwritten

/-- Memory with byte `b` at address `a`, in the canonical form: the unwritten value is not listed. -/
def Memory.put (m : Mem) (a : Nat) (b : Byte) : Mem :=
  if b = memUnwritten then ndel m a else nput m a b

/-- The addresses rise strictly from `lo` and no listed byte is the unwritten value. -/
def Memory.wfFrom : Nat → Mem → Bool
  | _, [] => true
  | lo, (k, v) :: r => decide (lo ≤ k) && decide (v ≠ memUnwritten) && Memory.wfFrom (k + 1) r

/-- The canonical form of memory. -/
def Memory.wf (m : Mem) : Bool := Memory.wfFrom 0 m

/-- The writes of one step, oldest first, made in memory. -/
def Memory.apply (m : Mem) (ws : List (Nat × Byte)) : Mem := ws.foldl (fun m w => Memory.put m w.1 w.2) m

/-! ### Little-endian fields (R4) -/

/-- The number that bytes hold, byte 0 lowest. -/
def leNat : List Byte → Nat
  | [] => 0
  | b :: r => b.toNat + 256 * leNat r

/-- The low `n` bytes of a number, byte 0 first. -/
def leBytes : Nat → Nat → List Byte
  | 0, _ => []
  | n + 1, v => BitVec.ofNat 8 v :: leBytes n (v / 256)

/-- `n` bytes from address `a` through a reader. -/
def rdBytes (rd : Nat → Byte) : Nat → Nat → List Byte
  | _, 0 => []
  | a, n + 1 => rd a :: rdBytes rd (a + 1) n

/-- `n` bytes from address `a` as a little-endian number. -/
def rdNat (rd : Nat → Byte) (a n : Nat) : Nat := leNat (rdBytes rd a n)

/-- Bits [lo + w - 1 : lo] of a record held as a number. -/
def fld (r lo w : Nat) : Nat := (r >>> lo) % 2 ^ w

/-- Bit `i` of a number. -/
def bit (r i : Nat) : Bool := r.testBit i

/-- A `w`-bit field read as two's complement. -/
def sext (w n : Nat) : Int := if n % 2 ^ w < 2 ^ (w - 1) then (n % 2 ^ w : Nat) else (n % 2 ^ w : Nat) - (2 ^ w : Nat)

/-- The two's complement field of width `w` that holds `i`. -/
def unsext (w : Nat) (i : Int) : Nat := (i % (2 ^ w : Nat)).toNat

/-- Truth as a bit. -/
def b2n (b : Bool) : Nat := if b then 1 else 0

/-- Division rounded up. -/
def cdiv (a b : Nat) : Nat := (a + b - 1) / b

/-- A count that saturates at 2^32 - 1 (R330). -/
def sat32 (n : Nat) : Nat := min n (2 ^ 32 - 1)

/-- The least-rank element of a list under a score, the earliest at a tie. -/
def argMin {α : Type} (f : α → Nat) : List α → Option α
  | [] => none
  | x :: r =>
    match argMin f r with
    | none => some x
    | some y => if f y < f x then some y else some x

/-- The number of trailing positions: the greatest `k ≤ n` with `2^k` dividing `v` (0 for `v = 0`). -/
def lowbit (v : Nat) : Nat := if v = 0 then 0 else v &&& (2 ^ (Nat.log2 v + 1) - v)

/-- Replace element `i` of a list. -/
def lset {α : Type} (l : List α) (i : Nat) (f : α → α) : List α := l.modify i f

/-- `f` applied to every element that meets `p`. -/
def mapIf {α : Type} (p : α → Bool) (f : α → α) (l : List α) : List α := l.map fun x => if p x then f x else x

/-- Sum of a list. -/
def lsum (l : List Nat) : Nat := l.foldl (· + ·) 0

/-- Product of a list. -/
def lprod (l : List Nat) : Nat := l.foldl (· * ·) 1

/-! ### CRCs -/

/-- Eight shifts of a reflected 32-bit CRC with the reversed polynomial of CRC-32C. -/
def crc32cBits : Nat → Nat → Nat
  | 0, c => c
  | n + 1, c => crc32cBits n (if c % 2 = 1 then (c / 2) ^^^ 0x82F63B78 else c / 2)

/-- The CRC-32C register after some bytes. The match takes the register's value before each byte, so that the kernel can evaluate
it over many bytes. -/
def crc32cFeed : List Byte → Nat → Nat
  | [], c => c
  | b :: r, 0 => crc32cFeed r (crc32cBits 8 b.toNat)
  | b :: r, c + 1 => crc32cFeed r (crc32cBits 8 ((c + 1) ^^^ b.toNat))

/-- CRC-32C (R424): polynomial 0x1EDC_6F41 reflected, initial value and final exclusive-or all ones. -/
def crc32c (bs : List Byte) : Nat := crc32cFeed bs 0xFFFFFFFF ^^^ 0xFFFFFFFF

/-- Eight shifts of the CRC-16 of R462. -/
def crc16Bits : Nat → Nat → Nat
  | 0, c => c
  | n + 1, c => crc16Bits n (if c ≥ 0x8000 then ((c * 2) % 0x10000) ^^^ 0x1021 else c * 2)

/-- The CRC-16 register after some bytes, its value taken before each. -/
def crc16Feed : List Byte → Nat → Nat
  | [], c => c
  | b :: r, 0 => crc16Feed r (crc16Bits 8 (b.toNat * 256))
  | b :: r, c + 1 => crc16Feed r (crc16Bits 8 ((c + 1) ^^^ (b.toNat * 256)))

/-- CRC-16 of a Huaset frame (R462): polynomial 0x1021, initial value 0xFFFF, no reflection. -/
def crc16 (bs : List Byte) : Nat := crc16Feed bs 0xFFFF

/-! ### The sector code (R420, R421) -/

/-- Multiplication by α = 0x02 in GF(2^8) with field polynomial 0x11D. -/
def gfTwice (a : Nat) : Nat := if a ≥ 128 then (2 * a) ^^^ 0x11D else 2 * a

/-- Shift-and-add multiplication over the low `n` bits of `b`. -/
def gfMulGo : Nat → Nat → Nat → Nat → Nat
  | 0, _, _, acc => acc
  | n + 1, a, b, acc => gfMulGo n (gfTwice a) (b / 2) (if b % 2 = 1 then acc ^^^ a else acc)

/-- Multiplication in GF(2^8). -/
def gfMul (a b : Nat) : Nat := gfMulGo 8 a b 0

/-- α^n. -/
def gfPow : Nat → Nat
  | 0 => 1
  | n + 1 => gfTwice (gfPow n)

/-- One data byte through the remainder register c₀..c₃ of division by g(x). -/
def rsStep (c : Nat × Nat × Nat × Nat) (b : Byte) : Nat × Nat × Nat × Nat :=
  let f := b.toNat ^^^ c.1
  (c.2.1 ^^^ gfMul f 0x0F, c.2.2.1 ^^^ gfMul f 0x36, c.2.2.2 ^^^ gfMul f 0x78, gfMul f 0x40)

/-- The four check bytes of 32 data bytes (R420). -/
def rsCheck (data : List Byte) : List Byte :=
  let c := data.foldl rsStep (0, 0, 0, 0)
  [BitVec.ofNat 8 c.1, BitVec.ofNat 8 c.2.1, BitVec.ofNat 8 c.2.2.1, BitVec.ofNat 8 c.2.2.2]

/-- Syndrome S_j of 36 received bytes: the polynomial at α^j, by Horner's rule. -/
def rsSyndrome (w : List Byte) (j : Nat) : Nat := w.foldl (fun a b => gfMul a (gfPow j) ^^^ b.toNat) 0

/-- The result of reading a coded sector. -/
inductive CodeRead where
  | clean (bytes : List Byte)
  | corrected (bytes : List Byte)
  | bad
  deriving DecidableEq, Repr

/-- The bytes a readable sector delivers. -/
def CodeRead.bytes : CodeRead → List Byte
  | .clean b => b
  | .corrected b => b
  | .bad => []

/-- R421: the reading of 36 received bytes (32 data bytes then c₀ to c₃). -/
def rsDecode (w : List Byte) : CodeRead :=
  let s0 := rsSyndrome w 0
  let s1 := rsSyndrome w 1
  let s2 := rsSyndrome w 2
  let s3 := rsSyndrome w 3
  if s0 = 0 ∧ s1 = 0 ∧ s2 = 0 ∧ s3 = 0 then .clean (w.take 32)
  else if s0 = 0 then .bad
  else
    match (List.range 36).find? (fun p =>
        s1 = gfMul s0 (gfPow p) && s2 = gfMul s1 (gfPow p) && s3 = gfMul s2 (gfPow p)) with
    | some p => .corrected ((lset w (35 - p) (fun b => BitVec.ofNat 8 (b.toNat ^^^ s0))).take 32)
    | none => .bad

/-! ### The side check (R121; the arrangement of the check bits is PRESUMED, log entry 5) -/

/-- Position in the Hamming word of side-field bit `i`: the positions that are no power of two, from 3 up. -/
def hamPos (i : Nat) : Nat :=
  if i < 1 then 3 else if i < 4 then i + 4 else if i < 11 then i + 5 else if i < 26 then i + 6 else i + 7

/-- Exclusive-or of the positions of the bits set in a 32-bit side field. -/
def hamSyndrome (v : Nat) : Nat :=
  (List.range 32).foldl (fun a i => if v.testBit i then a ^^^ hamPos i else a) 0

/-- Parity of the low `n` bits. -/
def parity (n v : Nat) : Nat := (List.range n).foldl (fun a i => a ^^^ b2n (v.testBit i)) 0

/-- The side check byte: bits [5:0] the Hamming check, bit [6] overall parity, bit [7] reserved (zero). -/
def sideCheck (v : Nat) : Nat :=
  let h := hamSyndrome v
  h + 64 * (parity 32 v ^^^ parity 6 h)

/-- R121: the reading of a side field and its check byte: corrected one bit, detected two. -/
def sideDecode (v c : Nat) : Option (Nat × Bool) :=
  let s := hamSyndrome v ^^^ (c % 64)
  let p := parity 32 v ^^^ parity 7 c
  if s = 0 ∧ p = 0 then some (v, false)
  else if p = 0 then none
  else
    match (List.range 32).find? (fun i => hamPos i = s) with
    | some i => some (v ^^^ 2 ^ i, true)
    | none => if s = 0 ∨ (List.range 6).any (fun i => s = 2 ^ i) then some (v, true) else none

/-- The received bytes: the stored ones with the upset XORed on. -/
def upsetBytes (u : Upset) (w : List Byte) : List Byte :=
  u.foldl (fun w p => lset w p.1 (fun b => b ^^^ p.2)) w

/-- Bytes with a difference XORed on. -/
def xorBytes (b d : List Byte) : List Byte := b.zipIdx.map fun x => x.1 ^^^ d.getD x.2 0

/-! ### The coordinate draw (R56) -/

/-- mix(z) of R56, on unsigned 64-bit values. -/
def mix (z0 : Nat) : Nat :=
  let z := ((z0 ^^^ (z0 >>> 30)) * 0xBF58476D1CE4E5B9) % 2 ^ 64
  let z := ((z ^^^ (z >>> 27)) * 0x94D049BB133111EB) % 2 ^ 64
  z ^^^ (z >>> 31)

/-- sr_bits(tid, step, row, col) of R56: a 32-bit draw. -/
def srBits (tid step row col : Nat) : Nat :=
  let h := mix ((tid % 2 ^ 32) * 2 ^ 32 + step % 2 ^ 32)
  let h := mix (h ^^^ ((row % 2 ^ 32) * 2 ^ 32 + col % 2 ^ 32))
  h >>> 32

/-- Bit (r, c) of a bitmap at base `x` with row stride `y` (R234). -/
def bmBit (rd : Nat → Byte) (x y r c : Nat) : Bool := (rd (x + r * y + c / 8)).toNat.testBit (c % 8)

/-- The memory port of the line at address `a` (R475). -/
def portOf (a : Nat) : Nat := fld a 8 5 ^^^ fld a 13 5 ^^^ fld a 18 5 ^^^ fld a 23 5

end Sys2Proof.Machine
end

