-- ==== Sys2Proof/Machine/Records.lean ====
section
/-!
DEFINITION. The records of external memory as structures, each with the function that takes it apart. A record is
held as one number, bit n of the record being bit n of the number (R4). Reserved fields are not kept (R5).
-/

namespace Sys2Proof.Machine

/-! ### Zohus words -/

/-- A Zohus word with its side byte and flag byte (R18 to R22): `val` holds the W bits (the low 128 for ZW128). -/
structure ZWord where
  val : BitVec 256
  tag : BitVec 2
  res : BitVec 6
  hm  : Bool
  deriving DecidableEq, Repr

/-- The word an accumulator starts from: value zero, tag finite, residue 0, no high miss (R122 text). -/
def ZWord.zero : ZWord := ⟨0, 0, 0, false⟩

/-! ### Call sheets (R161, R162, R172, R182, R186) -/

/-- The call sheet of R161. -/
structure CallSheet where
  version : Nat
  acc : Nat
  asrc : Nat
  rmode : Nat
  anchor : Int
  shape : Nat
  slices : Nat
  buckets : Nat
  row0 : Nat
  col0 : Nat
  step : Nat
  problemId : Nat
  opdA : Nat
  opdB : Nat
  opdC : Nat
  opdD : Nat
  loop : Nat
  prog : Nat
  len : Nat
  drain : Nat
  sparse : Nat
  deriving DecidableEq, Repr

/-- The call sheet held by the 1,024 bits `r`. -/
def CallSheet.ofNat (r : Nat) : CallSheet where
  version := fld r 0 8
  acc := fld r 8 3
  asrc := fld r 11 2
  rmode := fld r 13 3
  anchor := sext 12 (fld r 16 12)
  shape := fld r 28 3
  slices := fld r 32 4
  buckets := fld r 36 6
  row0 := fld r 64 32
  col0 := fld r 96 32
  step := fld r 128 32
  problemId := fld r 160 32
  opdA := fld r 256 64
  opdB := fld r 320 64
  opdC := fld r 384 64
  opdD := fld r 448 64
  loop := fld r 512 64
  prog := fld r 576 64
  len := fld r 640 64
  drain := fld r 704 64
  sparse := fld r 768 64

/-- The operand descriptor of R162. -/
structure Opd where
  base : Nat
  size : Nat
  fmt : Nat
  mx : Bool
  inner : Bool
  ostride : Nat
  tensorId : Nat
  zanchor : Int
  scaleBase : Nat
  scaleOstride : Nat
  checkBase : Nat
  sideBase : Nat
  deriving DecidableEq, Repr

/-- The operand descriptor held by 512 bits. -/
def Opd.ofNat (r : Nat) : Opd where
  base := fld r 0 64
  size := fld r 64 48
  fmt := fld r 112 4
  mx := bit r 116
  inner := bit r 117
  ostride := fld r 128 48
  tensorId := fld r 192 32
  zanchor := sext 12 (fld r 224 12)
  scaleBase := fld r 256 64
  scaleOstride := fld r 320 32
  checkBase := fld r 384 64
  sideBase := fld r 448 64

/-- The loop-level record of R172; `order` lists the four dimension codes, innermost first. -/
structure Loop where
  cntM : Nat
  cntN : Nat
  cntK : Nat
  cntB : Nat
  order : List Nat
  saM : Nat
  saK : Nat
  saB : Nat
  sbK : Nat
  sbN : Nat
  scM : Nat
  scN : Nat
  scB : Nat
  deriving DecidableEq, Repr

/-- The loop-level record held by 512 bits. -/
def Loop.ofNat (r : Nat) : Loop where
  cntM := fld r 0 16
  cntN := fld r 16 16
  cntK := fld r 32 16
  cntB := fld r 48 16
  order := [fld r 64 2, fld r 66 2, fld r 68 2, fld r 70 2]
  saM := fld r 128 48
  saK := fld r 176 48
  saB := fld r 224 48
  sbK := fld r 272 48
  sbN := fld r 320 48
  scM := fld r 368 48
  scN := fld r 416 48
  scB := fld r 464 48

/-- A program table entry of R182. -/
structure Prog where
  pbase : Nat
  plen : Nat
  valid : Bool
  deriving DecidableEq, Repr

/-- The program table entry held by 128 bits. -/
def Prog.ofNat (r : Nat) : Prog := ⟨fld r 0 64, fld r 64 16, bit r 80⟩

/-- The actual lengths of R186. -/
structure Lens where
  m : Nat
  n : Nat
  k : Nat
  b : Nat
  deriving DecidableEq, Repr

/-- The length record held by 256 bits. -/
def Lens.ofNat (r : Nat) : Lens := ⟨fld r 0 32, fld r 32 32, fld r 64 32, fld r 96 32⟩

/-- The drain record of R303. -/
structure DrainRec where
  version : Nat
  scaleMode : Nat
  biasMode : Nat
  biasFmt : Nat
  act : Nat
  oscale : Nat
  dest : Nat
  thrOp : Nat
  chainEn : Bool
  scaleExp : Int
  scaleF32 : Nat
  biasVal : Nat
  alpha : Nat
  thrVal : Nat
  scaleVec : Nat
  biasVec : Nat
  oscaleBase : Nat
  oscaleStride : Nat
  thrStride : Nat
  thrBase : Nat
  chain : Nat
  deriving DecidableEq, Repr

/-- The drain record held by 1,024 bits. -/
def DrainRec.ofNat (r : Nat) : DrainRec where
  version := fld r 0 8
  scaleMode := fld r 8 2
  biasMode := fld r 10 2
  biasFmt := fld r 12 2
  act := fld r 16 4
  oscale := fld r 20 2
  dest := fld r 22 2
  thrOp := fld r 24 2
  chainEn := bit r 26
  scaleExp := sext 12 (fld r 32 12)
  scaleF32 := fld r 64 32
  biasVal := fld r 96 32
  alpha := fld r 128 32
  thrVal := fld r 160 32
  scaleVec := fld r 192 64
  biasVec := fld r 256 64
  oscaleBase := fld r 320 64
  oscaleStride := fld r 384 32
  thrStride := fld r 416 32
  thrBase := fld r 448 64
  chain := fld r 512 64

/-- One stage of a drain chain (R297). -/
structure ChainStage where
  op : Nat
  src1 : Nat
  src2 : Nat
  cmp : Nat
  arg : Nat
  imm0 : Nat
  imm1 : Nat
  deriving DecidableEq, Repr

/-- The chain stage held by 128 bits. -/
def ChainStage.ofNat (r : Nat) : ChainStage :=
  ⟨fld r 0 4, fld r 4 3, fld r 7 3, fld r 10 2, fld r 12 4, fld r 32 32, fld r 64 32⟩

/-- A chain record with its stages and the addresses of its operand vectors (R297). -/
structure ChainRec where
  version : Nat
  nstages : Nat
  vmask : Nat
  bases : List Nat
  stages : List ChainStage
  deriving DecidableEq, Repr

/-- A loaded chain context (R295): the record and the operand vectors, empty where VMASK does not load one. -/
structure ChainCtx where
  rcd : ChainRec
  vecs : List (List Nat)
  deriving DecidableEq, Repr

/-- The sparse record of R243. -/
structure SparseRec where
  version : Nat
  form : Nat
  balance : Bool
  pathMask : Nat
  auditA : Nat
  segMax : Nat
  auditSeed : Nat
  metaBase : Nat
  metaStride : Nat
  metaSize : Nat
  hdrBase : Nat
  rgtBase : Nat
  abmBase : Nat
  abmStride : Nat
  pbmStride : Nat
  pbmBase : Nat
  mispBase : Nat
  deriving DecidableEq, Repr

/-- The sparse record held by 1,024 bits. -/
def SparseRec.ofNat (r : Nat) : SparseRec where
  version := fld r 0 8
  form := fld r 8 1
  balance := bit r 9
  pathMask := fld r 10 3
  auditA := fld r 16 5
  segMax := fld r 32 16
  auditSeed := fld r 64 32
  metaBase := fld r 128 64
  metaStride := fld r 192 48
  metaSize := fld r 256 64
  hdrBase := fld r 320 64
  rgtBase := fld r 384 64
  abmBase := fld r 448 64
  abmStride := fld r 512 32
  pbmStride := fld r 544 32
  pbmBase := fld r 576 64
  mispBase := fld r 640 64

/-- The compress sheet of R269. -/
structure CompressSheet where
  version : Nat
  form : Nat
  keep : Nat
  k : Nat
  n : Nat
  src : Nat
  dst : Nat
  metaBase : Nat
  metaStride : Nat
  hdrBase : Nat
  rgtBase : Nat
  metaSize : Nat
  deriving DecidableEq, Repr

/-- The compress sheet held by 1,024 bits. -/
def CompressSheet.ofNat (r : Nat) : CompressSheet where
  version := fld r 0 8
  form := fld r 8 1
  keep := fld r 9 6
  k := fld r 32 32
  n := fld r 64 32
  src := fld r 128 64
  dst := fld r 192 64
  metaBase := fld r 256 64
  metaStride := fld r 320 48
  hdrBase := fld r 384 64
  rgtBase := fld r 448 64
  metaSize := fld r 512 64

/-- Everything the sequencer reads once at the start of a GEMM, GEMM_SPARSE or TAKE_GEMM (R159, R243, R303, and
the scale and bias vectors of the drain). -/
structure Problem where
  sheet : CallSheet
  a : Opd
  b : Opd
  c : Opd
  d : Option Opd
  loops : List Loop
  progs : List Prog
  lens : Lens
  drain : DrainRec
  sparse : Option SparseRec
  scaleVec : List Nat
  biasVec : List Nat
  deriving DecidableEq, Repr

/-- The legacy call sheet of R342. -/
structure Legacy where
  version : Nat
  fmtA : Nat
  fmtB : Nat
  fmtC : Nat
  acc : Nat
  rmode : Nat
  relu : Bool
  bias : Bool
  mx : Bool
  m : Nat
  n : Nat
  k : Nat
  aBase : Nat
  bBase : Nat
  cBase : Nat
  biasBase : Nat
  lda : Nat
  ldb : Nat
  ldc : Nat
  saBase : Nat
  sbBase : Nat
  saStride : Nat
  sbStride : Nat
  deriving DecidableEq, Repr

/-- The legacy call sheet held by 1,024 bits. -/
def Legacy.ofNat (r : Nat) : Legacy where
  version := fld r 0 8
  fmtA := fld r 8 4
  fmtB := fld r 12 4
  fmtC := fld r 16 4
  acc := fld r 20 2
  rmode := fld r 22 2
  relu := bit r 24
  bias := bit r 25
  mx := bit r 26
  m := fld r 32 32
  n := fld r 64 32
  k := fld r 96 32
  aBase := fld r 128 64
  bBase := fld r 192 64
  cBase := fld r 256 64
  biasBase := fld r 320 64
  lda := fld r 384 32
  ldb := fld r 416 32
  ldc := fld r 448 32
  saBase := fld r 512 64
  sbBase := fld r 576 64
  saStride := fld r 640 32
  sbStride := fld r 672 32

/-! ### Channels (R309, R321, R322, R330) -/

/-- The Channel Table entry of R309. -/
structure ChanEntry where
  gen : Nat
  enable : Bool
  chainEn : Bool
  prio : Nat
  irqEn : Bool
  irqSel : Nat
  rsize : Nat
  csize : Nat
  reelSet : Nat
  ringBase : Nat
  headLoc : Nat
  tailLoc : Nat
  cqBase : Nat
  cqHeadLoc : Nat
  cqTailLoc : Nat
  deriving DecidableEq, Repr

/-- The Channel Table entry held by 1,024 bits. -/
def ChanEntry.ofNat (r : Nat) : ChanEntry where
  gen := fld r 0 8
  enable := bit r 8
  chainEn := bit r 9
  prio := fld r 10 2
  irqEn := bit r 12
  irqSel := fld r 13 2
  rsize := fld r 16 4
  csize := fld r 20 4
  reelSet := fld r 24 3
  ringBase := fld r 64 64
  headLoc := fld r 128 64
  tailLoc := fld r 192 64
  cqBase := fld r 256 64
  cqHeadLoc := fld r 320 64
  cqTailLoc := fld r 384 64

/-- An operation on a remote window, as the remote payload (R322) or a trigger entry (R369) gives it. -/
structure RemoteArgs where
  opcode : Nat
  target : Nat
  window : Nat
  kind : Nat
  loc : Nat
  offset : Nat
  length : Nat
  operand : Nat
  deriving DecidableEq, Repr

/-- The remote payload of a command record held by 512 bits. -/
def RemoteArgs.ofCommand (r : Nat) : RemoteArgs where
  opcode := fld r 0 8
  target := fld r 128 16
  window := fld r 144 16
  kind := fld r 176 8
  loc := fld r 192 64
  offset := fld r 256 48
  length := fld r 320 48
  operand := fld r 384 64

/-- What a completion record carries beside the header's copy (R330). -/
structure Result where
  status : Nat
  detail : Nat
  count : Nat
  rangeCount : Nat
  nonfinite : Nat
  dropped : Nat
  member : Nat
  replayed : Bool
  fast : Bool
  deriving DecidableEq, Repr

/-- A result with a status and detail alone. -/
def Result.ofStatus (st dt : Nat) : Result := ⟨st, dt, 0, 0, 0, 0, 0, false, false⟩

/-! ### Triggers, windows, collectives (R352, R369, R381, R386) -/

/-- A trigger table entry (R369) with the STATUS and DETAIL bytes the engine writes, and the member that travels
with a status (R374). -/
structure Trig where
  count : BitVec 64
  thresh : BitVec 64
  period : Nat
  aop : Nat
  armed : Bool
  kind : Nat
  target : Nat
  window : Nat
  next : Nat
  nextEn : Bool
  loc : Nat
  offset : Nat
  length : Nat
  operand : Nat
  status : Nat
  detail : Nat
  member : Nat
  deriving DecidableEq, Repr

/-- The trigger entry held by 512 bits; a load clears STATUS and DETAIL. -/
def Trig.ofNat (r : Nat) : Trig where
  count := BitVec.ofNat 64 (fld r 0 64)
  thresh := BitVec.ofNat 64 (fld r 64 64)
  period := fld r 128 32
  aop := fld r 160 8
  armed := bit r 168
  kind := fld r 176 8
  target := fld r 192 16
  window := fld r 208 16
  next := fld r 224 12
  nextEn := bit r 236
  loc := fld r 256 64
  offset := fld r 320 48
  length := fld r 384 48
  operand := fld r 448 64
  status := 0
  detail := 0
  member := 0

/-- The entry after an engine reset: all zeros (R378). -/
def Trig.zero : Trig := Trig.ofNat 0

/-- The operation a trigger entry issues (R372). -/
def Trig.args (t : Trig) : RemoteArgs :=
  ⟨t.aop, t.target, t.window, t.kind, t.loc, t.offset, t.length, t.operand⟩

/-- The Window Table entry of R352. -/
structure WinEntry where
  base : Nat
  size : Nat
  type : Nat
  rd : Bool
  wr : Bool
  atom : Bool
  sideBase : Nat
  deriving DecidableEq, Repr

/-- The Window Table entry held by 256 bits. -/
def WinEntry.ofNat (r : Nat) : WinEntry :=
  ⟨fld r 0 64, fld r 64 48, fld r 112 4, bit r 116, bit r 117, bit r 118, fld r 192 64⟩

/-- The collective record of R381; `reserved` tells whether a reserved field is non-zero (reason 1 of R385). -/
structure CollRec where
  version : Nat
  op : Nat
  subop : Nat
  type : Nat
  acc : Nat
  zout : Bool
  aexpl : Bool
  rmode : Nat
  chunkLog : Nat
  group : Nat
  root : Nat
  seq : Nat
  anchor : Int
  count : Nat
  src : Nat
  srcSide : Nat
  dst : Nat
  dstSide : Nat
  result : Nat
  done : Nat
  prog : Nat
  progEn : Bool
  reserved : Bool
  deriving DecidableEq, Repr

/-- The collective record held by 1,024 bits. -/
def CollRec.ofNat (r : Nat) : CollRec where
  version := fld r 0 8
  op := fld r 8 4
  subop := fld r 12 4
  type := fld r 16 4
  acc := fld r 20 1
  zout := bit r 21
  aexpl := bit r 22
  rmode := fld r 24 3
  chunkLog := fld r 28 4
  group := fld r 32 16
  root := fld r 48 16
  seq := fld r 64 32
  anchor := sext 12 (fld r 96 12)
  count := fld r 128 64
  src := fld r 192 64
  srcSide := fld r 256 64
  dst := fld r 320 64
  dstSide := fld r 384 64
  result := fld r 448 64
  done := fld r 512 12
  prog := fld r 528 12
  progEn := bit r 540
  reserved := bit r 23 || bit r 27 || fld r 108 20 != 0 || fld r 524 4 != 0 || fld r 541 483 != 0

/-- A cached group (R386, R387): its number, HIER and the member list. -/
structure Group where
  num : Nat
  hier : Bool
  members : List Nat
  deriving DecidableEq, Repr

/-! ### Packets (R396, R486) -/

/-- The packet header of R486. -/
structure PktHdr where
  dest : Nat
  src : Nat
  vc : Nat
  cls : Nat
  opcode : Nat
  kind : Nat
  first : Bool
  last : Bool
  ptag : Nat
  window : Nat
  offset : Nat
  total : Nat
  pbytes : Nat
  deriving DecidableEq, Repr

/-- The packet header held by 256 bits. -/
def PktHdr.ofNat (r : Nat) : PktHdr where
  dest := fld r 0 16
  src := fld r 16 16
  vc := fld r 32 2
  cls := fld r 36 4
  opcode := fld r 40 8
  kind := fld r 48 8
  first := bit r 56
  last := bit r 57
  ptag := fld r 64 16
  window := fld r 80 16
  offset := fld r 96 48
  total := fld r 144 48
  pbytes := fld r 192 12

/-- The 256 bits of a packet header. -/
def PktHdr.toNat (h : PktHdr) : Nat :=
  h.dest % 2 ^ 16 + (h.src % 2 ^ 16) * 2 ^ 16 + (h.vc % 4) * 2 ^ 32 + (h.cls % 16) * 2 ^ 36 + (h.opcode % 256) * 2 ^ 40
    + (h.kind % 256) * 2 ^ 48 + b2n h.first * 2 ^ 56 + b2n h.last * 2 ^ 57 + (h.ptag % 2 ^ 16) * 2 ^ 64
    + (h.window % 2 ^ 16) * 2 ^ 80 + (h.offset % 2 ^ 48) * 2 ^ 96 + (h.total % 2 ^ 48) * 2 ^ 144
    + (h.pbytes % 2 ^ 12) * 2 ^ 192

/-- A packet: its header, its PBYTES data bytes, and the numbers of the data units that arrived uncorrectable. -/
structure Packet where
  hdr : PktHdr
  data : List Byte
  bad : List Nat
  deriving DecidableEq, Repr

/-- The collective header of R396. -/
structure CollHdr where
  kind : Nat
  op : Nat
  type : Nat
  level : Nat
  tree : Nat
  late : Bool
  group : Nat
  sender : Nat
  named : Nat
  seq : Nat
  index : Nat
  elems : Nat
  status : Nat
  signature : Nat
  deriving DecidableEq, Repr

/-- The collective header held by 256 bits. -/
def CollHdr.ofNat (r : Nat) : CollHdr where
  kind := fld r 0 4
  op := fld r 4 4
  type := fld r 8 4
  level := fld r 12 2
  tree := fld r 14 1
  late := bit r 15
  group := fld r 16 16
  sender := fld r 32 16
  named := fld r 48 16
  seq := fld r 64 32
  index := fld r 96 32
  elems := fld r 128 32
  status := fld r 160 8
  signature := fld r 192 64

/-- The 256 bits of a collective header. -/
def CollHdr.toNat (h : CollHdr) : Nat :=
  h.kind % 16 + (h.op % 16) * 2 ^ 4 + (h.type % 16) * 2 ^ 8 + (h.level % 4) * 2 ^ 12 + (h.tree % 2) * 2 ^ 14
    + b2n h.late * 2 ^ 15 + (h.group % 2 ^ 16) * 2 ^ 16 + (h.sender % 2 ^ 16) * 2 ^ 32 + (h.named % 2 ^ 16) * 2 ^ 48
    + (h.seq % 2 ^ 32) * 2 ^ 64 + (h.index % 2 ^ 32) * 2 ^ 96 + (h.elems % 2 ^ 32) * 2 ^ 128 + (h.status % 256) * 2 ^ 160
    + (h.signature % 2 ^ 64) * 2 ^ 192

/-- A record of `n` bytes at address `a`, as a number. -/
def rdRec (rd : Nat → Byte) (a n : Nat) : Nat := rdNat rd a n

end Sys2Proof.Machine
end

