-- ==== Sys2Proof/Machine/Operands.lean ====
section
/-!
DEFINITION. Operand forms: the element formats (R8 to R15), how an element stands in memory (R163 to R168), and
exact products with their tags (R16, R17).
-/

namespace Sys2Proof.Machine

/-- The value of an input element: every NaN is one NaN (R10), both zeros are `fin 0 e` (R12), a finite value is
`n · 2^e` with no flush of subnormals (R11). -/
inductive Elem where
  | nan
  | inf (neg : Bool)
  | fin (n e : Int)
  deriving DecidableEq, Repr

/-- A binary floating-point format: exponent bits, mantissa bits, bias, the greatest finite magnitude code, and
whether it has infinities (R8). -/
structure FpFmt where
  eb : Nat
  mb : Nat
  bias : Nat
  maxCode : Nat
  hasInf : Bool
  hasNan : Bool
  deriving DecidableEq, Repr

/-- The floating-point formats of R8 by code; the integer, scale and Zohus codes have none. -/
def fpFmt : Nat → Option FpFmt
  | 0 => some ⟨2, 1, 1, 7, false, false⟩
  | 1 => some ⟨4, 3, 7, 0x7E, false, true⟩
  | 2 => some ⟨5, 2, 15, 0x7B, true, true⟩
  | 4 => some ⟨8, 7, 127, 0x7F7F, true, true⟩
  | 5 => some ⟨5, 10, 15, 0x7BFF, true, true⟩
  | 6 => some ⟨8, 23, 127, 0x7F7FFFFF, true, true⟩
  | 7 => some ⟨11, 52, 1023, 0x7FEFFFFFFFFFFFFF, true, true⟩
  | _ => none

/-- Bits of one element of a format (R8); a Zohus word counts its word plane (R24). -/
def fmtBits : Nat → Nat
  | 0 => 4
  | 1 => 8
  | 2 => 8
  | 3 => 8
  | 4 => 16
  | 5 => 16
  | 6 => 32
  | 7 => 64
  | 8 => 8
  | 9 => 128
  | 10 => 256
  | _ => 8

/-- The value of a floating-point encoding. -/
def FpFmt.decode (f : FpFmt) (v : Nat) : Elem :=
  let m := fld v 0 f.mb
  let e := fld v f.mb f.eb
  let neg := bit v (f.mb + f.eb)
  let mag := fld v 0 (f.mb + f.eb)
  if f.hasInf ∧ e = 2 ^ f.eb - 1 then (if m = 0 then .inf neg else .nan)
  else if f.hasNan ∧ ¬ f.hasInf ∧ mag = 2 ^ (f.mb + f.eb) - 1 then .nan
  else
    let n : Nat := if e = 0 then m else 2 ^ f.mb + m
    let x : Int := (if e = 0 then 1 else (e : Int)) - f.bias - f.mb
    .fin (if neg then -(n : Int) else n) x

/-- The value of an element of format code `fmt` outside a microscaled operand (R8). -/
def decodeElem (fmt v : Nat) : Elem :=
  match fpFmt fmt with
  | some f => f.decode v
  | none => .fin (sext 8 v) 0

/-- R13, R15: the value of an element of a microscaled operand under the scale code `s`. -/
def decodeMx (fmt v s : Nat) : Elem :=
  if s = 0xFF then .nan
  else
    match decodeElem fmt v with
    | .fin n e => .fin n (e + (s : Int) - 127 - (if fmt = 3 then 6 else 0))
    | x => x

/-- The constants h and t of R31 (t of INT8 in a microscaled operand is 2). -/
def fmtH : Nat → Option Int
  | 0 => some (-1)
  | 1 => some (-9)
  | 2 => some (-16)
  | 5 => some (-24)
  | 3 => some 0
  | _ => none

/-- The least integer with every magnitude of the format below 2^t (R31). -/
def fmtT (fmt : Nat) (mx : Bool) : Int :=
  match fmt with
  | 0 => 3
  | 1 => 9
  | 2 => 16
  | 5 => 16
  | 3 => if mx then 2 else 8
  | _ => 0

/-- A product with its tag (R16, R17): a finite value `n · 2^e`, or a tag that is not finite. -/
inductive Prd where
  | fin (n e : Int)
  | special (tag : BitVec 2)
  deriving DecidableEq, Repr

/-- R17: the product of two elements. -/
def mulElem : Elem → Elem → Prd
  | .nan, _ => .special 3
  | _, .nan => .special 3
  | .inf s, .inf t => .special (if s = t then 1 else 2)
  | .inf s, .fin n _ => if n = 0 then .special 3 else .special (if s = decide (n < 0) then 1 else 2)
  | .fin n _, .inf t => if n = 0 then .special 3 else .special (if decide (n < 0) = t then 1 else 2)
  | .fin n e, .fin m d => .fin (n * m) (e + d)

/-- ⌊log₂|n · 2^e|⌋ of a non-zero finite value (R33). -/
def elemLog : Elem → Option Int
  | .fin n e => if n = 0 then none else some (e + (Nat.log2 n.natAbs : Nat))
  | _ => none

/-- Whether an element is zero (both zeros are, R12). -/
def elemIsZero : Elem → Bool
  | .fin n _ => n == 0
  | _ => false

end Sys2Proof.Machine
end

