-- ==== Sys2Proof/Machine/Zohus.lean ====
section
/-!
DEFINITION. Zohus words (R18 to R24): residues, the combination of words (R44 to R46), the placement of a product in
the window (R41 to R43), and the byte forms of a word in memory, in the Stage and on links.
-/

namespace Sys2Proof.Machine

/-- The residue modulo 63 of a word's bits (R22). -/
def res63 (v : Nat) : Nat := v % 63

/-- ρ of R46: 2^W modulo 63. -/
def rhoOf (W : Nat) : Nat := if W = 256 then 16 else 4

/-- w of the window: 95 for ZW128, 223 for ZW256. -/
def windowTop (W : Nat) : Nat := if W = 256 then 223 else 95

/-- R23: RES holds 63 or differs from the residue of the word's bits. -/
def ZWord.residueFault (z : ZWord) : Bool := z.res.toNat == 63 || z.res.toNat != res63 z.val.toNat

/-- The W-bit word of an integer with tag `t` and high-miss flag `h`, its residue written. -/
def ZWord.ofInt (W : Nat) (i : Int) (t : BitVec 2) (h : Bool) : ZWord :=
  ⟨BitVec.ofNat 256 (unsext W i), t, BitVec.ofNat 6 (res63 (unsext W i)), h⟩

/-- R46: the residue that an adder of W-bit words predicts. -/
def zPredict (W : Nat) (x y : ZWord) : Nat :=
  let c := if x.val.toNat + y.val.toNat < 2 ^ W then 0 else 1
  (x.res.toNat + y.res.toNat + 63 - c * rhoOf W) % 63

/-- R45: the combination of two words of width W; the residue is the predicted one (R46). -/
def zAdd (W : Nat) (x y : ZWord) : ZWord :=
  ⟨BitVec.ofNat 256 ((x.val.toNat + y.val.toNat) % 2 ^ W), x.tag ||| y.tag, BitVec.ofNat 6 (zPredict W x y),
    x.hm || y.hm⟩

/-- The signed integer Z of a W-bit word. -/
def ZWord.toInt (W : Nat) (z : ZWord) : Int := sext W z.val.toNat

/-- ⌊n · 2^e / 2^a⌋ with whether a remainder was cut. -/
def floorShift (n e a : Int) : Int × Bool :=
  if a ≤ e then (n * 2 ^ (e - a).toNat, false)
  else (n / 2 ^ (a - e).toNat, n % 2 ^ (a - e).toNat != 0)

/-- |n · 2^e| ≥ 2^t. -/
def magAtLeast (n e t : Int) : Bool :=
  if t ≤ e then n != 0 else decide (2 ^ (t - e).toNat ≤ n.natAbs)

/-- A product placed in the window: its integer, tag, high miss, and whether it is a low miss. -/
structure Placed where
  p : Int
  tag : BitVec 2
  high : Bool
  low : Bool
  deriving DecidableEq, Repr

/-- R41 to R43: the integer that one product adds to a word of width W with anchor `a`. -/
def placeProduct (W : Nat) (a : Int) : Prd → Placed
  | .special t => ⟨0, t, false, false⟩
  | .fin n e =>
    if magAtLeast n e (a + windowTop W) then
      ⟨if n < 0 then -(2 ^ windowTop W - 1) else 2 ^ windowTop W - 1, 0, true, false⟩
    else
      let (q, r) := floorShift n e a
      ⟨q, 0, false, r⟩

/-- R44: the word that a list of products forms, with its number of low misses. -/
def sumProducts (W : Nat) (a : Int) (ps : List Prd) : ZWord × Nat :=
  let q := ps.map (placeProduct W a)
  (ZWord.ofInt W ((q.map (·.p)).foldl (· + ·) 0) ((q.map (·.tag)).foldl (· ||| ·) 0) (q.any (·.high)),
    (q.filter (·.low)).length)

/-! ### Byte forms (R20, R24) -/

/-- The side byte. -/
def ZWord.sideByte (z : ZWord) : Nat := z.tag.toNat * 64 + z.res.toNat

/-- The flag byte. -/
def ZWord.flagByte (z : ZWord) : Nat := b2n z.hm

/-- A word from its bits, side byte and flag byte (reserved flag bits are ignored, R5). -/
def ZWord.ofParts (v side flag : Nat) : ZWord :=
  ⟨BitVec.ofNat 256 v, BitVec.ofNat 2 (side / 64), BitVec.ofNat 6 side, bit flag 0⟩

/-- Bytes of a word in the word plane. -/
def zBytes (W : Nat) : Nat := W / 8

/-- R24: the word at word-plane address `a` with its side bytes at `sa`. -/
def rdZ (rd : Nat → Byte) (W a sa : Nat) : ZWord :=
  ZWord.ofParts (rdNat rd a (zBytes W)) (rd sa).toNat (rd (sa + 1)).toNat

/-- The word-plane bytes of a word. -/
def ZWord.plane (W : Nat) (z : ZWord) : List Byte := leBytes (zBytes W) z.val.toNat

/-- The side-plane bytes of a word, the side byte first. -/
def ZWord.sides (z : ZWord) : List Byte := [BitVec.ofNat 8 z.sideByte, BitVec.ofNat 8 z.flagByte]

end Sys2Proof.Machine
end

