-- ==== Sys2Proof/Machine/Round.lean ====
section
/-!
DEFINITION. Rounding (R53 to R56, R91), FP32 arithmetic with signed zeros as the later steps of the drain use it
(R55, R286), the activation tables (R284 to R286) and the functions of the drain chain (R298, R299).
-/

namespace Sys2Proof.Machine

/-- A number with the sign of a zero kept: the values that floating-point arithmetic of the engine works on. -/
inductive Fl where
  | nan
  | inf (neg : Bool)
  | num (neg : Bool) (n : Nat) (e : Int)
  deriving DecidableEq, Repr

/-- +0. -/
def Fl.zero : Fl := .num false 0 0

/-- A finite value with its sign; a zero is +0. -/
def Fl.ofInt (n e : Int) : Fl := .num (decide (n < 0)) n.natAbs e

/-- An element as a number, both zeros as +0 (R12). -/
def Elem.toFl : Elem → Fl
  | .nan => .nan
  | .inf s => .inf s
  | .fin n e => Fl.ofInt n e

/-- The value of a code of format `fmt`, the sign of a zero kept. -/
def flOfCode (fmt c : Nat) : Fl :=
  match fpFmt fmt with
  | none => Fl.ofInt (sext 8 c) 0
  | some f =>
    match f.decode c with
    | .nan => .nan
    | .inf s => .inf s
    | .fin n e => .num (bit c (f.mb + f.eb)) n.natAbs e

/-- The signed mantissa of a finite value. -/
def Fl.signed (neg : Bool) (n : Nat) : Int := if neg then -(n : Int) else n

/-! ### Rounding -/

/-- ⌊log₂(p / q)⌋ of a positive rational. -/
def floorLog2 (p q : Nat) : Int :=
  let k : Int := (Nat.log2 p : Int) - (Nat.log2 q : Int)
  if (if 0 ≤ k then 2 ^ k.toNat * q ≤ p else q ≤ p * 2 ^ (-k).toNat) then k else k - 1

/-- The positive rational p / q divided by 2^u, as numerator and denominator. -/
def scaleDown (p q : Nat) (u : Int) : Nat × Nat :=
  if 0 ≤ u then (p, q * 2 ^ u.toNat) else (p * 2 ^ (-u).toNat, q)

/-- R53, R56: whether the magnitude rounds up, with remainder `r` of denominator `d` (0 < r < d), lower neighbour `m`
and the draw of R56. -/
def roundsUp (mode : Nat) (draw : Nat) (neg : Bool) (m r d : Nat) : Bool :=
  match mode with
  | 0 => decide (2 * r > d) || (decide (2 * r = d) && m % 2 == 1)
  | 1 => false
  | 2 => !neg
  | 3 => neg
  | _ => if neg then !decide (draw < 2 ^ 32 * (d - r) / d) else decide (draw < 2 ^ 32 * r / d)

/-- The integer nearest p / q in the given mode. -/
def roundNat (mode draw : Nat) (neg : Bool) (p q : Nat) : Nat :=
  let m := p / q
  let r := p % q
  if r = 0 then m else if roundsUp mode draw neg m r q then m + 1 else m

/-- R54: what an overflow writes. -/
def FpFmt.overflow (f : FpFmt) (mode : Nat) (neg : Bool) : Nat :=
  if f.hasInf ∧ (mode = 0 ∨ (mode = 2 ∧ ¬ neg) ∨ (mode = 3 ∧ neg)) then f.maxCode + 1 else f.maxCode

/-- The magnitude code that a positive rational rounds to, with no upper limit of range. -/
def FpFmt.magCode (f : FpFmt) (mode draw : Nat) (neg : Bool) (p q : Nat) : Nat :=
  let emin : Int := 1 - (f.bias : Int)
  let E := max (floorLog2 p q) emin
  let (a, b) := scaleDown p q (E - f.mb)
  let m := roundNat mode draw neg a b
  if m < 2 ^ f.mb then m else (E + f.bias).toNat * 2 ^ f.mb + (m - 2 ^ f.mb)

/-- The code of format `f` that the rational ±p / q rounds to (R53 to R55); a zero keeps its sign. -/
def FpFmt.roundQ (f : FpFmt) (mode draw : Nat) (neg : Bool) (p q : Nat) : Nat :=
  let s := if neg then 2 ^ (f.mb + f.eb) else 0
  if p = 0 then s
  else
    let c := f.magCode mode draw neg p q
    s + (if c > f.maxCode then f.overflow mode neg else c)

/-- The INT8 code of ±p / q (R53, R54). -/
def roundInt8 (mode draw : Nat) (neg : Bool) (p q : Nat) : Nat :=
  let m := roundNat mode draw neg p q
  if neg then (if m ≥ 128 then 0x80 else (256 - m) % 256) else min m 127

/-- n · 2^e as a positive rational. -/
def dyQ (n : Nat) (e : Int) : Nat × Nat := if 0 ≤ e then (n * 2 ^ e.toNat, 1) else (n, 2 ^ (-e).toNat)

/-- A finite value rounded to format `fmt` (R52). -/
def roundTo (fmt mode draw : Nat) (neg : Bool) (n : Nat) (e : Int) : Nat :=
  let (p, q) := dyQ n e
  match fpFmt fmt with
  | some f => f.roundQ mode draw neg p q
  | none => roundInt8 mode draw neg p q

/-- The classes of R51 that bypass the fusion. -/
inductive Special where
  | nan
  | inf (neg : Bool)
  | range (neg : Bool)
  deriving DecidableEq, Repr

/-- The canonical NaN of a format (R8). -/
def canonNan : Nat → Nat
  | 1 => 0x7F
  | 2 => 0x7E
  | 4 => 0x7FC0
  | 5 => 0x7E00
  | 6 => 0x7FC00000
  | 7 => 0x7FF8000000000000
  | _ => 0

/-- R51: the bits of a non-finite or range-faulted element. -/
def specialBits (fmt : Nat) : Special → Nat
  | .nan => canonNan fmt
  | .inf neg =>
    match fpFmt fmt with
    | some f => (if neg then 2 ^ (f.mb + f.eb) else 0) + (if f.hasInf then f.maxCode + 1 else f.maxCode)
    | none => if neg then 0x80 else 0x7F
  | .range neg =>
    match fmt with
    | 0 => if neg then 0xF else 7
    | 3 => if neg then 0x80 else 0x7F
    | _ => canonNan fmt

/-! ### FP32 operations, each rounded once in RNE with gradual underflow -/

/-- Canonical NaN of FP32. -/
def f32nan : Nat := 0x7FC00000

/-- A number rounded to format `fmt` in RNE; infinities and NaN as R51 writes them. -/
def Fl.toCode (fmt : Nat) : Fl → Nat
  | .nan => canonNan fmt
  | .inf s => specialBits fmt (.inf s)
  | .num s n e => roundTo fmt 0 0 s n e

/-- The exact sum; an exact zero of unlike signs is +0 (RNE). -/
def Fl.add : Fl → Fl → Fl
  | .nan, _ => .nan
  | _, .nan => .nan
  | .inf s, .inf t => if s = t then .inf s else .nan
  | .inf s, _ => .inf s
  | _, .inf t => .inf t
  | .num s n e, .num t m d =>
    let x := min e d
    let a := Fl.signed s (n * 2 ^ (e - x).toNat)
    let b := Fl.signed t (m * 2 ^ (d - x).toNat)
    if n = 0 ∧ m = 0 then .num (s && t) 0 x
    else if a + b = 0 then .num false 0 x else Fl.ofInt (a + b) x

/-- The exact product, with the sign of a zero. -/
def Fl.mul : Fl → Fl → Fl
  | .nan, _ => .nan
  | _, .nan => .nan
  | .inf s, .inf t => .inf (s != t)
  | .inf s, .num t m _ => if m = 0 then .nan else .inf (s != t)
  | .num s n _, .inf t => if n = 0 then .nan else .inf (s != t)
  | .num s n e, .num t m d => .num (s != t) (n * m) (e + d)

/-- The negation. -/
def Fl.neg : Fl → Fl
  | .nan => .nan
  | .inf s => .inf (!s)
  | .num s n e => .num (!s) n e

/-- The FP32 value of a code. -/
def f32 (c : Nat) : Fl := flOfCode 6 c

/-- Sum of two FP32 codes, rounded once. -/
def f32add (a b : Nat) : Nat := ((f32 a).add (f32 b)).toCode 6

/-- Product of two FP32 codes, rounded once. -/
def f32mul (a b : Nat) : Nat := ((f32 a).mul (f32 b)).toCode 6

/-- Fused multiply-add of FP32 codes. -/
def f32fma (a b c : Nat) : Nat := (((f32 a).mul (f32 b)).add (f32 c)).toCode 6

/-- Whether an FP32 code is a NaN. -/
def f32isNan (c : Nat) : Bool := fld c 23 8 == 255 && fld c 0 23 != 0

/-- Whether an FP32 code is finite. -/
def f32isFin (c : Nat) : Bool := fld c 23 8 != 255

/-- Order key of an FP32 code with -0 below +0. -/
def f32key (c : Nat) : Int := if bit c 31 then -(fld c 0 31 : Int) - 1 else fld c 0 31

/-- Order key of an FP32 code with the two zeros equal. -/
def f32val (c : Nat) : Int := if bit c 31 then -(fld c 0 31 : Int) else fld c 0 31

/-- Signed numerator of a finite value over 2^x. -/
def Fl.over (x : Int) : Fl → Int
  | .num s n e => Fl.signed s (n * 2 ^ (e - x).toNat)
  | _ => 0

/-! ### Activation tables (R285, R286) -/

/-- The little-endian field of `n` bytes at offset `o` of an image. -/
def imgField (img : List Byte) (o n : Nat) : Nat := leNat ((img.drop o).take n)

/-- E of a table image: two's complement. -/
def imgE (img : List Byte) : Int := sext 8 (imgField img 4 1)

/-- R288: X0 is finite and an integer multiple of 2^E, and E lies in -32 to 31. -/
def imgOk (img : List Byte) : Bool :=
  decide (img.length = 1056) && decide (-32 ≤ imgE img) && decide (imgE img ≤ 31) &&
    match f32 (imgField img 0 4) with
    | .num _ n e => if imgE img ≤ e then true else n % 2 ^ (imgE img - e).toNat == 0
    | _ => false

/-- R286: table_eval of an image on an FP32 code; a difference of −0 and a segment's start of +0 is −0 (R55). -/
def tableEval (img : List Byte) (y : Nat) : Nat :=
  let c := fun o => imgField img o 4
  match f32 y with
  | .nan => f32nan
  | .inf s => if s then c 12 else c 8
  | .num s n e =>
    let E := imgE img
    let y0 := Fl.num s n e
    let x0 := f32 (c 0)
    let base := min E (min e (match x0 with | .num _ _ d => d | _ => 0))
    let diff := y0.over base - x0.over base
    if diff < 0 then f32fma (c 20) y (c 16)
    else
      let w := (E - base).toNat
      let i := (diff / 2 ^ w).toNat
      if i > 63 then f32fma (c 28) y (c 24)
      else
        let r := diff - (i * 2 ^ w : Nat)
        let d := if r = 0 ∧ s ∧ n = 0 then 2 ^ 31 else (Fl.ofInt r base).toCode 6
        let p := f32fma (c (32 + 16 * i + 12)) d (c (32 + 16 * i + 8))
        let p := f32fma p d (c (32 + 16 * i + 4))
        f32fma p d (c (32 + 16 * i))

/-! ### Functions of the chain (R298, R299). An irrational result is rounded from an approximation that carries at
least 160 correct bits below its leading one, its last place made odd (DEDUCED, log entry 6). -/

/-- ⌊√n⌋, deciding `k` bits from the top. -/
def isqrtGo (n : Nat) : Nat → Nat → Nat
  | 0, r => r
  | k + 1, r => let t := r + 2 ^ k; isqrtGo n k (if t * t ≤ n then t else r)

/-- ⌊√n⌋. -/
def isqrt (n : Nat) : Nat := isqrtGo n (Nat.log2 n / 2 + 1) 0

/-- Fraction bits of the approximations. -/
def apx : Nat := 256

/-- 2^(f / 2^k) · 2^apx for the low `k` bits `f`, by square roots: `r` is 2^(2^-j) · 2^apx at bit k - j. -/
def exp2Frac : Nat → Nat → Nat → Nat → Nat
  | 0, _, _, acc => acc
  | k + 1, f, r, acc =>
    let r := isqrt (r * 2 ^ apx)
    exp2Frac k f r (if f.testBit k then acc * r / 2 ^ apx else acc)

/-- 2^x of a finite FP32 number. -/
def exp2Fl (s : Bool) (n : Nat) (e : Int) : Nat :=
  if n = 0 then 0x3F800000
  else if floorLog2 (dyQ n e).1 (dyQ n e).2 < -30 then 0x3F800000
  else if floorLog2 (dyQ n e).1 (dyQ n e).2 > 9 then (if s then 0 else 0x7F800000)
  else
    let v := Fl.signed s n
    let k := (-e).toNat
    let v := if 0 ≤ e then v * 2 ^ e.toNat else v
    let i := v / 2 ^ k
    let f := (v % 2 ^ k).toNat
    if f = 0 then roundTo 6 0 0 false 1 i
    else roundTo 6 0 0 false (exp2Frac k f (2 * 2 ^ apx) (2 ^ apx) ||| 1) (i - apx)

/-- Bits of log₂ of `m / 2^apx` in [1, 2), by squaring. -/
def log2Frac : Nat → Nat → Nat → Nat
  | 0, _, acc => acc
  | k + 1, m, acc =>
    let q := m * m / 2 ^ (2 * apx)
    if q ≥ 2 ^ (2 * apx + 1) then log2Frac k (q / 2) (2 * acc + 1) else log2Frac k q (2 * acc)

/-- log₂ of a positive FP32 number. -/
def log2Fl (n : Nat) (e : Int) : Nat :=
  let t := Nat.log2 n
  let i : Int := e + (t : Int)
  if n = 2 ^ t then (Fl.ofInt i 0).toCode 6
  else
    let f := log2Frac apx (n * 2 ^ (2 * apx) / 2 ^ t) 0 ||| 1
    let v : Int := i * 2 ^ apx + f
    (Fl.ofInt v (-(apx : Int))).toCode 6

/-- Taylor sum of exp at `y / 2^apx`, `k` terms from term `j`. -/
def expSum (y : Nat) : Nat → Nat → Nat → Nat → Nat
  | 0, _, _, acc => acc
  | k + 1, j, term, acc => let t := term * y / 2 ^ apx / j; expSum y k (j + 1) t (acc + t)

/-- tanh of a finite FP32 number. -/
def tanhFl (s : Bool) (n : Nat) (e : Int) : Nat :=
  let sg := if s then 2 ^ 31 else 0
  if n = 0 then sg
  else
    let l := floorLog2 (dyQ n e).1 (dyQ n e).2
    if l < -13 then (Fl.num s n e).toCode 6
    else if l > 3 then sg + 0x3F800000
    else
      let y := n * 2 ^ (e + 1 + apx).toNat
      let E := expSum y 200 1 (2 ^ apx) (2 ^ apx)
      match fpFmt 6 with
      | some f => f.roundQ 0 0 s (E - 2 ^ apx) (E + 2 ^ apx)
      | none => 0

/-- 1 / √x of a positive FP32 number. -/
def rsqrtFl (n : Nat) (e : Int) : Nat :=
  let (p, q) := dyQ n e
  let m := isqrt (q * 2 ^ (2 * apx) / p)
  let exact := m * m * p == q * 2 ^ (2 * apx)
  if exact then roundTo 6 0 0 false m (-(apx : Int)) else roundTo 6 0 0 false (2 * m + 1) (-(apx : Int) - 1)

/-- 1 / x of a finite non-zero FP32 number. -/
def recipFl (s : Bool) (n : Nat) (e : Int) : Nat :=
  let (p, q) := dyQ n e
  match fpFmt 6 with
  | some f => f.roundQ 0 0 s q p
  | none => 0

/-- The larger of two FP32 codes; NaN when either is (R299). -/
def f32max (a b : Nat) : Nat :=
  if f32isNan a || f32isNan b then f32nan else if f32key a < f32key b then b else a

/-- The smaller of two FP32 codes; NaN when either is. -/
def f32min (a b : Nat) : Nat :=
  if f32isNan a || f32isNan b then f32nan else if f32key b < f32key a then b else a

/-- The comparison of CSEL; it does not hold with a NaN. -/
def f32cmp (op a b : Nat) : Bool :=
  !(f32isNan a || f32isNan b) &&
    match op with
    | 0 => decide (f32val b < f32val a)
    | 1 => decide (f32val b ≤ f32val a)
    | 2 => decide (f32val a = f32val b)
    | _ => decide (f32val a < f32val b)

/-- The unary functions of R298 with their special operands. -/
def chainUnary (op : Nat) (x : Nat) : Nat :=
  match op, f32 x with
  | _, .nan => f32nan
  | 6, .inf s => if s then 0 else 0x7F800000
  | 6, .num s n e => exp2Fl s n e
  | 7, .inf s => if s then f32nan else 0x7F800000
  | 7, .num s n e => if n = 0 then 0xFF800000 else if s then f32nan else log2Fl n e
  | 8, .inf s => if s then 2 ^ 31 else 0
  | 8, .num s n e => if n = 0 then (if s then 0xFF800000 else 0x7F800000) else recipFl s n e
  | 9, .inf s => if s then f32nan else 0
  | 9, .num s n e =>
    if n = 0 then (if s then 0xFF800000 else 0x7F800000) else if s then f32nan else rsqrtFl n e
  | _, .inf s => if s then 0xBF800000 else 0x3F800000
  | _, .num s n e => tanhFl s n e

/-- CONVERT (R298): rounded in RNE to format `fmt` and read back; a NaN stays NaN (DEDUCED, log entry 7). -/
def chainConvert (fmt x : Nat) : Nat :=
  match f32 x with
  | .nan => f32nan
  | .inf s => (flOfCode fmt (specialBits fmt (.inf s))).toCode 6
  | .num s n e => (flOfCode fmt (roundTo fmt 0 0 s n e)).toCode 6

/-- One stage of the chain (R298): `x` the running value, `y` the value of step 4, `v` element n of V0 to V3, `img` the
image of a table slot. -/
def chainStage (img : Nat → List Byte) (v : Nat → Nat) (y : Nat) (st : ChainStage) (x : Nat) : Nat :=
  let src := fun i =>
    match i with
    | 0 => x
    | 1 => y
    | 2 => st.imm0
    | 3 => st.imm1
    | _ => v (i - 4)
  let s1 := src st.src1
  let s2 := src st.src2
  match st.op with
  | 0 => f32add x s1
  | 1 => f32mul x s1
  | 2 => f32fma x s1 s2
  | 3 => f32max x s1
  | 4 => f32min x s1
  | 5 => f32min (f32max x s1) s2
  | 11 => tableEval (img st.arg) x
  | 12 => if f32cmp st.cmp x s1 then s2 else x
  | 13 => f32mul x x
  | 14 => if f32isNan x then f32nan else x % 2 ^ 31
  | 15 => chainConvert st.arg x
  | op => chainUnary op x

/-! ### Fast mode (R91 to R95) -/

/-- A fast-mode rounding into format `fmt`: the code, and whether finite operands gave an infinity (R98). -/
def fastRound (fmt : Nat) (finite : Bool) (x : Fl) : Nat × Bool :=
  let c := x.toCode fmt
  (c, finite && (match flOfCode fmt c with | .inf _ => true | _ => false))

/-- Whether a number is finite. -/
def Fl.isFin : Fl → Bool
  | .num _ _ _ => true
  | _ => false

/-- R92: a product rounded once into the accumulator format. -/
def fastProduct (fmt : Nat) (a b : Elem) : Nat × Bool :=
  match mulElem a b with
  | .special t => (if t = 3 then canonNan fmt else specialBits fmt (.inf (t == 2)), false)
  | .fin n e => fastRound fmt true (Fl.ofInt n e)

/-- A rounded sum of two codes of format `src` into format `dst`. -/
def fastAdd (src dst : Nat) (a b : Nat) : Nat × Bool :=
  let x := flOfCode src a
  let y := flOfCode src b
  fastRound dst (x.isFin && y.isFin) (x.add y)

/-- One level of adjacent pairs. -/
def fastPairs (src dst : Nat) : List Nat → List Nat × Nat
  | a :: b :: r =>
    let (c, o) := fastAdd src dst a b
    let (l, k) := fastPairs src dst r
    (c :: l, b2n o + k)
  | l => (l, 0)

/-- R93: `k` levels that round into the accumulator format, then the last level into FP32. -/
def fastTree (fmt : Nat) : Nat → List Nat → Nat × Nat
  | 0, l =>
    match fastPairs fmt 6 l with
    | ([c], o) => (c, o)
    | (_, o) => (0, o)
  | k + 1, l =>
    let (m, o) := fastPairs fmt fmt l
    let (c, p) := fastTree fmt k m
    (c, o + p)

/-- R95: acc := round(acc + q), with q an FP32 partial or, from a combiner, a value of the accumulator format held as
FP32. -/
def fastAccumulate (fmt acc q : Nat) : Nat × Bool :=
  let x := flOfCode fmt acc
  let y := f32 q
  fastRound fmt (x.isFin && y.isFin) (x.add y)

/-- R94: a level of the gang combiner: FP32 values rounded into the accumulator format and held as FP32 again. -/
def gangFastAdd (fmt a b : Nat) : Nat × Bool :=
  let x := f32 a
  let y := f32 b
  let (c, o) := fastRound fmt (x.isFin && y.isFin) (x.add y)
  ((flOfCode fmt c).toCode 6, o)

end Sys2Proof.Machine
end

