-- ==== Sys2Proof/Machine/Sheet.lean ====
section
/-!
DEFINITION. What a call sheet's records say once they are read: extents, shapes and K-steps (R63, R78, R97), tiles in
progress (R83), slate items and output tiles (R177 to R183), element addresses (R163 to R166, R175), ranges (R187) and
the values of elements.
-/

namespace Sys2Proof.Machine

/-! ### Commands with a call sheet -/

/-- The three commands that carry a call sheet (R158). -/
inductive GemmKind where
  | gemm | sparse | take
  deriving DecidableEq, Repr

/-- The loop-level record of level `l`. -/
def Problem.lvl (p : Problem) (l : Nat) : Loop := p.loops.getD l (Loop.ofNat 0)

/-- Count of dimension `d` (0 M, 1 N, 2 K, 3 batch) at a level. -/
def Loop.cnt (l : Loop) (d : Nat) : Nat :=
  match d with
  | 0 => l.cntM
  | 1 => l.cntN
  | 2 => l.cntK
  | _ => l.cntB

/-- R173: the compile-time extent of a dimension. -/
def Problem.extent (p : Problem) (d : Nat) : Nat := lprod ((List.range 6).map fun l => (p.lvl l).cnt d)

/-- Product of the counts of a dimension below level `l`: the weight of a digit of level `l`. -/
def Problem.weight (p : Problem) (d l : Nat) : Nat := lprod ((List.range l).map fun j => (p.lvl j).cnt d)

/-- The largest bucket M_b (R177). -/
def maxBucket (buckets : Nat) : Nat := if buckets = 0 then 0 else 32 * 2 ^ Nat.log2 buckets

/-- M_b of a problem. -/
def Problem.mb (p : Problem) : Nat := maxBucket p.sheet.buckets

/-- The smallest bucket of BUCKETS not below `rows` (R183). -/
def bucketFor (buckets rows : Nat) : Nat :=
  match (List.range 6).find? (fun i => buckets.testBit i && decide (rows ≤ 32 * 2 ^ i)) with
  | some i => 32 * 2 ^ i
  | none => maxBucket buckets

/-- Whether the accumulator code selects fast mode (R88). -/
def Problem.fast (p : Problem) : Bool := decide (p.sheet.acc = 2 ∨ p.sheet.acc = 3)

/-- The accumulator width in bits of an exact code. -/
def accWidth (acc : Nat) : Nat := if acc = 1 then 256 else 128

/-- W of a problem. -/
def Problem.W (p : Problem) : Nat := accWidth p.sheet.acc

/-- The format code of a fast accumulator. -/
def fastFmt (acc : Nat) : Nat := if acc = 2 then 4 else 5

/-- b of R83: bytes of word data per output element. -/
def accBytes (acc : Nat) : Nat := if acc = 0 then 16 else if acc = 1 then 32 else 2

/-- The operand classes of R62: 0 E2M1, 1 FP8, 2 INT8, 3 16-bit; take passes are INT8 (R63). -/
def pairClass (kind : GemmKind) (fa fb : Nat) : Nat :=
  match kind with
  | .take => 2
  | _ =>
    if fa = 0 ∧ fb = 0 then 0
    else if fa = 3 then 2
    else if fa = 4 ∨ fa = 5 then 3 else 1

/-- Class of a problem. -/
def Problem.cls (p : Problem) (k : GemmKind) : Nat := pairClass k p.a.fmt p.b.fmt

/-- P of R63: K positions of one cell row (dense). -/
def cellP (cls : Nat) (fast : Bool) : Nat :=
  match cls with
  | 0 => if fast then 16 else 8
  | 1 => if fast then 8 else 4
  | 2 => 4
  | _ => if fast then 2 else 1

/-- The paths of a tile: dense, structured, compacted. -/
inductive TilePath where
  | dense | structured | compacted
  deriving DecidableEq, Repr

/-- K positions that one cell row covers on a path (R63, R245). -/
def pathP (cls : Nat) (fast : Bool) (path : TilePath) : Nat :=
  match path with
  | .structured => 2 * cellP cls fast
  | _ => cellP cls fast

/-- Gang members of a shape code. -/
def shapePods (shape : Nat) : Nat := if shape ≤ 1 then 1 else 4

/-- K range multiple of a shape: members along K (R78). -/
def shapeK (shape : Nat) : Nat := if shape = 2 then 4 else if shape = 4 then 2 else 1

/-- N per tile of a shape; 64 for each H2 half (R78). -/
def shapeN (shape : Nat) : Nat :=
  match shape with
  | 1 => 64
  | 3 => 512
  | 4 => 256
  | _ => 128

/-- Committers of a tile under a shape (R86). -/
def shapeCommitters (shape : Nat) : Nat := if shape = 3 then 4 else if shape = 4 then 2 else 1

/-- What one commit adds to the count (R86). -/
def shapeCount (shape : Nat) : Nat := if shape = 2 then 4 else if shape = 4 then 2 else 1

/-- Columns of one commit (R86). -/
def shapeCols (shape : Nat) : Nat := if shape = 1 then 64 else 128

/-- T of R83. -/
def tilesT (shape acc mb : Nat) : Nat :=
  let C := if shape = 1 then 8 else 16
  let A := if shape = 1 then 1048576 else 2097152 * shapePods shape
  min C (A / (mb * shapeN shape * accBytes acc))

/-! ### Take passes (R107, R111) -/

/-- The slice count s of R107. -/
def takeSlices (p : Problem) : Nat :=
  if p.sheet.slices = 0 then (if p.a.fmt = 7 ∨ p.b.fmt = 7 then 8 else 4) else p.sheet.slices

/-- The slice pairs of R111 in the order the passes are numbered. -/
def takePasses (s : Nat) : List (Nat × Nat) :=
  (List.range s).flatMap fun t => ((List.range s).filter fun u => t + u + 2 ≤ s + 1).map fun u => (t + 1, u + 1)

/-- Number of passes: s(s + 1)/2 for a take, 1 otherwise. -/
def passCount (k : GemmKind) (p : Problem) : Nat :=
  match k with
  | .take => takeSlices p * (takeSlices p + 1) / 2
  | _ => 1

/-! ### K-steps (R177, R189) -/

/-- One K-step of one pass: first K position and the end of its level-0 tile. -/
structure KStep where
  pass : Nat
  k0 : Nat
  kEnd : Nat
  deriving DecidableEq, Repr

/-- The K-steps of one pass with `ks` positions each: level-0 K tiles in order, steps within each, none that holds no
in-range K position (R189). -/
def kStepsOfPass (p : Problem) (ks pass : Nat) : List KStep :=
  let c0 := (p.lvl 0).cntK
  (List.range (cdiv p.lens.k c0)).flatMap fun kt =>
    ((List.range (cdiv c0 ks)).filter fun j => kt * c0 + j * ks < p.lens.k).map fun j =>
      ⟨pass, kt * c0 + j * ks, min ((kt + 1) * c0) p.lens.k⟩

/-- K positions per K-step of a shape and path. -/
def stepK (k : GemmKind) (p : Problem) (shape : Nat) (path : TilePath) : Nat :=
  128 * pathP (p.cls k) p.fast path * shapeK shape

/-- The numbered K-steps of a tile (R114, R189). -/
def kSteps (k : GemmKind) (p : Problem) (shape : Nat) (path : TilePath) : List KStep :=
  (List.range (passCount k p)).flatMap fun q => kStepsOfPass p (stepK k p shape path) q

/-! ### Slate items and tiles (R177 to R180) -/

/-- L of R178: the highest level from 1 to 5 with CNT_K above 1; 0 when there is none. -/
def Problem.levelL (p : Problem) : Nat :=
  ([5, 4, 3, 2, 1].find? fun l => decide ((p.lvl l).cntK > 1)).getD 0

/-- The dimensions that ORDER of a level places inside K. -/
def Loop.insideK (l : Loop) : List Nat := l.order.takeWhile (· ≠ 2)

/-- The dimensions that ORDER of a level places outside K, innermost first. -/
def Loop.outsideK (l : Loop) : List Nat := (l.order.dropWhile (· ≠ 2)).drop 1

/-- A digit of a loop nest: dimension, level. -/
abbrev Digit := Nat × Nat

/-- The digits that number the slate items, innermost first (R180). -/
def Problem.itemDigits (p : Problem) : List Digit :=
  let L := p.levelL
  let atL := if L = 0 then [] else (p.lvl L).outsideK.map fun d => (d, L)
  atL ++ ((List.range 6).filter (· > L)).flatMap fun l => ((p.lvl l).order.filter (· ≠ 2)).map fun d => (d, l)

/-- The digits inside a slate item, above the level-0 tile (R178, R179). -/
def Problem.innerDigits (p : Problem) : List Digit :=
  let L := p.levelL
  ((List.range L).filter (· > 0)).flatMap (fun l => ((p.lvl l).order.filter (· ≠ 2)).map fun d => (d, l)) ++
    (if L = 0 then [] else (p.lvl L).insideK.map fun d => (d, L))

/-- Total number of values of a digit list. -/
def Problem.digitSpan (p : Problem) (ds : List Digit) : Nat := lprod (ds.map fun d => (p.lvl d.2).cnt d.1)

/-- A tile or item origin: batch, row, column. -/
structure Coord where
  b : Nat
  m : Nat
  n : Nat
  deriving DecidableEq, Repr

/-- The coordinates with `v` steps of digit `d` added. -/
def Problem.step (p : Problem) (d : Digit) (v : Nat) (c : Coord) : Coord :=
  match d.1 with
  | 0 => { c with m := c.m + v * p.weight 0 d.2 }
  | 1 => { c with n := c.n + v * p.weight 1 d.2 }
  | _ => { c with b := c.b + v * p.weight 3 d.2 }

/-- The origin that a number names over a digit list, innermost digit first. -/
def Problem.origin (p : Problem) : List Digit → Nat → Coord → Coord
  | [], _, c => c
  | d :: ds, i, c =>
    let k := (p.lvl d.2).cnt d.1
    p.origin ds (i / k) (p.step d (i % k) c)

/-- The output tiles of the level-0 tile at `c` under a shape (R177). -/
def Problem.level0Tiles (p : Problem) (shape : Nat) (c : Coord) : List Coord :=
  (List.range ((p.lvl 0).cntN / shapeN shape)).flatMap fun j =>
    (List.range ((p.lvl 0).cntM / p.mb)).map fun i => ⟨c.b, c.m + i * p.mb, c.n + j * shapeN shape⟩

/-- R188: whether a tile holds an in-range output element. -/
def Problem.tileIn (p : Problem) (c : Coord) : Bool :=
  decide (c.m < p.lens.m ∧ c.n < p.lens.n ∧ c.b < p.lens.b)

/-- The in-range output tiles of item number `i` (counted over all items) under a shape. -/
def Problem.itemTilesRaw (p : Problem) (shape i : Nat) : List Coord :=
  let o := p.origin p.itemDigits i ⟨0, 0, 0⟩
  ((List.range (p.digitSpan p.innerDigits)).flatMap fun j =>
    p.level0Tiles shape (p.origin p.innerDigits j o)).filter p.tileIn

/-- The numbers of the slate items that hold an in-range element, in order (R188, R208). -/
def Problem.items (p : Problem) : List Nat :=
  (List.range (p.digitSpan p.itemDigits)).filter fun i => !(p.itemTilesRaw p.sheet.shape i).isEmpty

/-- The in-range tiles of slate item `i` of R208. -/
def Problem.itemTiles (p : Problem) (shape i : Nat) : List Coord :=
  p.itemTilesRaw shape (p.items.getD i 0)

/-- R178: tiles in progress P of a shape. -/
def Problem.tilesP (p : Problem) (shape : Nat) : Nat :=
  (p.lvl 0).cntM / p.mb * ((p.lvl 0).cntN / shapeN shape) * p.digitSpan p.innerDigits

/-- The in-range output tiles of the command under a shape, X_σ of R205. -/
def Problem.tileCount (p : Problem) (shape : Nat) : Nat :=
  lsum ((List.range p.items.length).map fun i => (p.itemTiles shape i).length)

/-- R_u of R210: the count of the innermost item dimension whose count exceeds 1. -/
def Problem.runUnit (p : Problem) : Nat :=
  ((p.itemDigits.map fun d => (p.lvl d.2).cnt d.1).find? (· > 1)).getD 1

/-- The largest divisor of `n` that does not exceed `b`. -/
def largestDivisor (n : Nat) : Nat → Nat
  | 0 => 1
  | b + 1 => if n % (b + 1) = 0 then b + 1 else largestDivisor n b

/-- r of R210. -/
def Problem.runLen (p : Problem) (units : Nat) : Nat :=
  largestDivisor p.runUnit (max 1 (p.items.length / (4 * units)))

/-! ### Addresses (R163 to R166, R175) -/

/-- The operands of a product. -/
inductive Which where
  | a | b | c
  deriving DecidableEq, Repr

/-- The stride of operand `x` for dimension `d` at a level. -/
def Loop.stride (l : Loop) (x : Which) (d : Nat) : Nat :=
  match x, d with
  | .a, 0 => l.saM
  | .a, 2 => l.saK
  | .a, 3 => l.saB
  | .b, 2 => l.sbK
  | .b, 1 => l.sbN
  | .c, 0 => l.scM
  | .c, 1 => l.scN
  | .c, 3 => l.scB
  | _, _ => 0

/-- Offset of levels 1 to 5 for a coordinate of dimension `d`. -/
def Problem.levelOff (p : Problem) (x : Which) (d v : Nat) : Nat :=
  lsum ((List.range 6).map fun l =>
    if l = 0 then 0 else (v / p.weight d l) % (p.lvl l).cnt d * (p.lvl l).stride x d)

/-- Byte offset of element `x` of a line (R164); the address of its byte for E2M1. -/
def byteOf (fmt x : Nat) : Nat := if fmt = 0 then x / 2 else x * (fmtBits fmt / 8)

/-- R175: the address of an element from the place of its inner and outer coordinates. -/
def Opd.at (o : Opd) (off inner outer : Nat) : Nat := o.base + off + outer * o.ostride + byteOf o.fmt inner

/-- Address of A(b, m, k). -/
def Problem.addrA (p : Problem) (b m k : Nat) : Nat :=
  let off := p.levelOff .a 0 m + p.levelOff .a 2 k + p.levelOff .a 3 b
  let pm := m % (p.lvl 0).cntM
  let pk := k % (p.lvl 0).cntK
  if p.a.inner then p.a.at off pm pk else p.a.at off pk pm

/-- Address of B(k, n) of a dense B. -/
def Problem.addrB (p : Problem) (k n : Nat) : Nat :=
  let off := p.levelOff .b 2 k + p.levelOff .b 1 n
  let pk := k % (p.lvl 0).cntK
  let pn := n % (p.lvl 0).cntN
  if p.b.inner then p.b.at off pk pn else p.b.at off pn pk

/-- Address of C(b, m, n). -/
def Problem.addrC (p : Problem) (b m n : Nat) : Nat :=
  let off := p.levelOff .c 0 m + p.levelOff .c 1 n + p.levelOff .c 3 b
  let pm := m % (p.lvl 0).cntM
  let pn := n % (p.lvl 0).cntN
  if p.c.inner then p.c.at off pm pn else p.c.at off pn pm

/-- The place of an element within its line, for the nibble of E2M1. -/
def Problem.innerPos (p : Problem) (x : Which) (i j : Nat) : Nat :=
  match x with
  | .a => if p.a.inner then i % (p.lvl 0).cntM else j % (p.lvl 0).cntK
  | .b => if p.b.inner then i % (p.lvl 0).cntK else j % (p.lvl 0).cntN
  | .c => if p.c.inner then i % (p.lvl 0).cntM else j % (p.lvl 0).cntN

/-- Line b·M + m of the plain arrays (R165, R169, R235). -/
def Problem.lineM (p : Problem) (b m : Nat) : Nat := b * p.extent 0 + m

/-- R169: address of D(b, m, n). -/
def Problem.addrD (p : Problem) (d : Opd) (b m n : Nat) : Nat :=
  if d.inner then d.at 0 (p.lineM b m) n else d.at 0 n (p.lineM b m)

/-- R166: side-plane address of the Zohus element at word address `y`. -/
def Opd.sideOf (o : Opd) (y : Nat) : Nat := o.sideBase + 2 * ((y - o.base) / (fmtBits o.fmt / 8))

/-- R165: scale address of line `j` at K position `k`. -/
def Opd.scaleAt (o : Opd) (j k : Nat) : Nat := o.scaleBase + j * o.scaleOstride + k / 32

/-- The bytes that an element at address `y` occupies. -/
def elemSpan (fmt y : Nat) : List Nat := (List.range (max 1 (fmtBits fmt / 8))).map (y + ·)

/-- The bits of the element at address `y` whose place in its line is `pos`. -/
def rdElem (rd : Nat → Byte) (fmt y pos : Nat) : Nat :=
  if fmt = 0 then (if pos % 2 = 0 then (rd y).toNat % 16 else (rd y).toNat / 16)
  else rdNat rd y (fmtBits fmt / 8)

/-- The value of an element of an operand under its scale code. -/
def Opd.value (o : Opd) (bits scale : Nat) : Elem := if o.mx then decodeMx o.fmt bits scale else decodeElem o.fmt bits

/-- The value of A(b, m, k) (R13, R163 to R165). -/
def Problem.elemA (p : Problem) (rd : Nat → Byte) (b m k : Nat) : Elem :=
  p.a.value (rdElem rd p.a.fmt (p.addrA b m k) (p.innerPos .a m k))
    (if p.a.mx then (rd (p.a.scaleAt (p.lineM b m) k)).toNat else 0)

/-- The scale code of B column `n` at K position `k`. -/
def Problem.scaleB (p : Problem) (rd : Nat → Byte) (n k : Nat) : Nat :=
  if p.b.mx then (rd (p.b.scaleAt n k)).toNat else 127

/-- The bits of B(k, n) of a dense B. -/
def Problem.bitsB (p : Problem) (rd : Nat → Byte) (k n : Nat) : Nat :=
  rdElem rd p.b.fmt (p.addrB k n) (p.innerPos .b k n)

/-- The value of B(k, n) of a dense B. -/
def Problem.elemB (p : Problem) (rd : Nat → Byte) (k n : Nat) : Elem :=
  p.b.value (p.bitsB rd k n) (p.scaleB rd n k)

/-! ### Anchor blocks (R28 to R33, R176) -/

/-- Global row and column of an output element (R176). -/
def Problem.grow (p : Problem) (b m : Nat) : Nat := p.sheet.row0 + p.lineM b m

/-- Global column. -/
def Problem.gcol (p : Problem) (n : Nat) : Nat := p.sheet.col0 + n

/-- The key of the anchor block that holds a global coordinate. -/
def anchorKey (row col : Nat) : Nat := row / 32 * 2 ^ 32 + col / 64

/-- The anchor that the explicit, format-default and take sources give every block (R30, R112). -/
def Problem.uniformAnchor (p : Problem) (k : GemmKind) : Int :=
  match k with
  | .take => -7 * (takeSlices p + 1 : Nat)
  | _ => if p.sheet.asrc = 1 then (fmtH p.a.fmt).getD 0 + (fmtH p.b.fmt).getD 0 else p.sheet.anchor

/-- The greatest of a list of integers. -/
def maxInt : List Int → Option Int
  | [] => none
  | x :: r => match maxInt r with | none => some x | some y => some (max x y)

/-! ### Takes (R108 to R116) -/

/-- p_x of R116. -/
def takePrec (fmt : Nat) : Int := if fmt = 7 then 53 else 24

/-- R108: the exponent of a line of elements. -/
def takeExp (xs : List Elem) : Int := (maxInt (xs.filterMap elemLog)).getD 0

/-- R116: the number of below-scale elements of a line. -/
def belowScale (s fmt : Nat) (e : Int) (xs : List Elem) : Nat :=
  (xs.filterMap elemLog).countP fun l => decide (e - l > 7 * (s : Int) - takePrec fmt)

/-- R110: the slice of `x` in take `t` under exponent `e`. -/
def takeSlice (e : Int) (t : Nat) : Elem → Int
  | .fin n x =>
    let q := (floorShift n.natAbs (x - e - 1) (-(7 * t : Nat) : Int)).1 % 128
    if n < 0 then -q else q
  | _ => 0

/-- R113: the tag that a term adds once, with value zero. -/
def termTag (x y : Elem) : BitVec 2 :=
  match mulElem x y with
  | .special t => t
  | .fin _ _ => 0

end Sys2Proof.Machine
end

