-- ==== Sys2Proof/Machine/Sparse.lean ====
section
/-!
DEFINITION. Compressed weights (R236 to R242, R261), segments and lane batches (R249 to R251), the audit draw (R266),
path estimates (R260), and the compressed form that COMPRESS writes (R269 to R272).
-/

namespace Sys2Proof.Machine

/-- What a walk finds in one group of 32 K positions of a weight row: the kept values as (K position, bits), the
COUNT it was stored with, and its dropped entries (R261, R262). -/
structure WGroup where
  g : Nat
  count : Nat
  vals : List (Nat × Nat)
  dropped : Nat
  deriving DecidableEq, Repr

/-! ### The 2:4 form (R236) -/

/-- Bits of value `i` of weight row `n`. -/
def form0Value (rd : Nat → Byte) (b : Opd) (n i : Nat) : Nat := rdElem rd b.fmt (b.base + n * b.ostride + byteOf b.fmt i) i

/-- Code of value `i` of weight row `n`. -/
def form0Code (rd : Nat → Byte) (s : SparseRec) (n i : Nat) : Nat :=
  fld (rd (s.metaBase + n * s.metaStride + i / 4)).toNat (2 * (i % 4)) 2

/-- Whether a 2:4 group holds two values of equal codes (undefined case of the chapter). -/
def form0Equal (rd : Nat → Byte) (s : SparseRec) (n q : Nat) : Bool :=
  form0Code rd s n (2 * q) == form0Code rd s n (2 * q + 1)

/-- The stored values of K positions 32g to 32g + 31. -/
def form0Group (rd : Nat → Byte) (s : SparseRec) (b : Opd) (n g : Nat) : WGroup :=
  ⟨g, 16, (List.range 16).map fun j =>
    let i := 16 * g + j
    (4 * (i / 2) + form0Code rd s n i, form0Value rd b n i), 0⟩

/-! ### The unstructured form (R238, R239, R261) -/

/-- Bytes of a record with `c` values of `eb` bits (R238). -/
def recBytes (eb c : Nat) : Nat := 1 + cdiv (c * eb) 8 + cdiv (5 * c) 8

/-- The kept values of a record, dropping each whose code does not exceed the previous kept code. -/
def keepCodes (g : Nat) : List (Nat × Nat) → Option Nat → List (Nat × Nat) × Nat
  | [], _ => ([], 0)
  | (c, v) :: r, prev =>
    if prev.any (fun q => decide (c ≤ q)) then
      let (l, d) := keepCodes g r prev
      (l, d + 1)
    else
      let (l, d) := keepCodes g r (some c)
      ((32 * g + c, v) :: l, d)

/-- The walk of the groups of an unstructured row from group `g`, record offset `pos`, with `k` groups left; `fin` is
the first byte offset past the row's records. -/
def walkForm1 (rd : Nat → Byte) (b : Opd) (fin : Nat) : Nat → Nat → Nat → List WGroup
  | 0, _, _ => []
  | k + 1, g, pos =>
    let c := (rd (b.base + pos)).toNat
    let eb := fmtBits b.fmt
    if fin ≤ pos ∨ c > 32 ∨ pos + recBytes eb c > fin then (List.range (k + 1)).map fun i => ⟨g + i, 0, [], 1⟩
    else
      let vb := b.base + pos + 1
      let codes := rdNat rd (vb + cdiv (c * eb) 8) (cdiv (5 * c) 8)
      let vs := (List.range c).map fun j => (fld codes (5 * j) 5, rdElem rd b.fmt (vb + byteOf b.fmt j) j)
      let (l, d) := keepCodes g vs none
      ⟨g, c, l, d⟩ :: walkForm1 rd b fin k (g + 1) (pos + recBytes eb c)

/-- The byte offset past the bytes that the walk of `k` records from offset `pos` touches (R244). -/
def walkReach (rd : Nat → Byte) (b : Opd) (fin : Nat) : Nat → Nat → Nat
  | 0, pos => pos
  | k + 1, pos =>
    let n := recBytes (fmtBits b.fmt) (rd (b.base + pos)).toNat
    if fin ≤ pos then pos
    else if (rd (b.base + pos)).toNat > 32 ∨ pos + n > fin then pos + 1
    else walkReach rd b fin k (pos + n)

/-- The offset of the record after that at `pos`; `fin`, where every later walk ends, after a record that ends the walk (R261). -/
def nextRecord (rd : Nat → Byte) (b : Opd) (fin pos : Nat) : Nat :=
  let n := recBytes (fmtBits b.fmt) (rd (b.base + pos)).toNat
  if fin ≤ pos ∨ (rd (b.base + pos)).toNat > 32 ∨ pos + n > fin then max pos fin else pos + n

/-- OFFSET and LENGTH of weight row `n` (R239). -/
def rowOffset (rd : Nat → Byte) (s : SparseRec) (n : Nat) : Nat × Nat :=
  let e := rdNat rd (s.metaBase + 8 * n) 8
  (fld e 0 40, fld e 40 24)

/-- The first byte offset past the records of weight row `n`. -/
def rowEnd (rd : Nat → Byte) (s : SparseRec) (b : Opd) (n : Nat) : Nat :=
  min ((rowOffset rd s n).1 + (rowOffset rd s n).2) b.size

/-- The groups of weight row `n` over a compile-time extent `K`. -/
def walkRow (rd : Nat → Byte) (s : SparseRec) (b : Opd) (K n : Nat) : List WGroup :=
  if s.form = 0 then (List.range (cdiv K 32)).map (form0Group rd s b n)
  else
    walkForm1 rd b (rowEnd rd s b n) (cdiv K 32) 0 (rowOffset rd s n).1

/-- Dropped entries of a walk that count (R262): their group holds a K position below K_ACT. -/
def droppedCount (kAct : Nat) (gs : List WGroup) : Nat := lsum ((gs.filter fun w => 32 * w.g < kAct).map (·.dropped))

/-- The stored weight at a K position of a walked row. -/
def storedAt (gs : List WGroup) (k : Nat) : Option Nat :=
  (gs.find? (fun w => w.g == k / 32)).bind fun w => (w.vals.find? (fun v => v.1 == k)).map (·.2)

/-! ### Row order and segments (R242, R249 to R251) -/

/-- The rows that the entries of a row-group table name, earliest name kept (R242). -/
def rgtRows (rd : Nat → Byte) (base nAct j : Nat) : List Nat :=
  ((List.range 128).map fun e => 128 * j + fld (rdNat rd (base + 256 * j + 2 * e) 2) 0 7).filter (· < nAct)
    |>.foldl (fun l r => if l.contains r then l else l ++ [r]) []

/-- The order of the weight rows of block `j` (R250, R242). -/
def blockOrder (rd : Nat → Byte) (s : SparseRec) (nAct j : Nat) : List Nat :=
  let all := ((List.range 128).map (128 * j + ·)).filter (· < nAct)
  if s.balance then
    let named := rgtRows rd s.rgtBase nAct j
    named ++ all.filter fun r => !named.contains r
  else all

/-- A segment: weight row, and its range of groups of 32 positions. -/
structure Segment where
  row : Nat
  gLo : Nat
  gHi : Nat
  deriving DecidableEq, Repr

/-- The segments of a row from its groups: `lo` the first group of the open segment, `n` its stored values. -/
def segsGo (S row : Nat) : List WGroup → Nat → Nat → List Segment
  | [], _, _ => []
  | w :: r, lo, n =>
    if n + w.count > S ∧ w.g > lo then
      ⟨row, lo, w.g⟩ :: (match r with
        | [] => [⟨row, w.g, w.g + 1⟩]
        | _ => segsGo S row r w.g w.count)
    else
      match r with
      | [] => [⟨row, lo, w.g + 1⟩]
      | _ => segsGo S row r lo (n + w.count)

/-- R249: the segments of a weight row. -/
def rowSegments (S row : Nat) (gs : List WGroup) : List Segment := segsGo S row gs 0 0

/-- S of R249. -/
def segLimit (s : SparseRec) (dflt : Nat) : Nat := if s.segMax = 0 then dflt else s.segMax

/-! ### Suppression and audit (R264 to R266) -/

/-- Whether an in-range element is suppressed: its predictor bit is 0. -/
def isSuppressed (rd : Nat → Byte) (p : Problem) (b m n : Nat) : Bool :=
  match p.sparse with
  | some s => s.pbmBase != 0 && !bmBit rd s.pbmBase s.pbmStride (p.lineM b m) n
  | none => false

/-- Whether a suppressed element is audited (R266). -/
def isAudited (p : Problem) (b m n : Nat) : Bool :=
  match p.sparse with
  | some s => s.auditA != 0 && fld (srBits s.auditSeed p.sheet.step (p.grow b m) (p.gcol n)) 0 s.auditA == 0
  | none => false

/-- Whether A(b, m, k) is active: its activation bit is 1 (R232, R235). -/
def isActive (rd : Nat → Byte) (p : Problem) (b m k : Nat) : Bool :=
  match p.sparse with
  | some s => s.abmBase == 0 || bmBit rd s.abmBase s.abmStride (p.lineM b m) k
  | none => true

/-- Rows of a block that the compacted path runs: one element not suppressed, or one audited (R250, R265). -/
def rowRuns (rd : Nat → Byte) (p : Problem) (b m0 u n : Nat) : Bool :=
  (List.range u).any fun i => !isSuppressed rd p b (m0 + i) n || isAudited p b (m0 + i) n

/-- The segment list of a tile of `u` tokens at (b, m0, n0) (R250). -/
def segmentList (rd : Nat → Byte) (p : Problem) (s : SparseRec) (dflt b m0 n0 u : Nat) : List Segment :=
  ((blockOrder rd s p.lens.n (n0 / 128)).filter (rowRuns rd p b m0 u)).flatMap fun n =>
    rowSegments (segLimit s dflt) n (walkRow rd s p.b (p.extent 2) n)

/-- The number of lane batches of a segment list (R251). -/
def batchCount (segs : List Segment) : Nat := max 1 (cdiv segs.length 128)

/-- The weight rows that a segment list splits (ROWS_SPLIT, R259). -/
def rowsSplit (segs : List Segment) : Nat :=
  ((segs.map (·.row)).eraseDups.filter fun r => decide (segs.countP (fun g => g.row == r) > 1)).length

/-! ### Path estimates (R260) -/

/-- NZ of the block header, or the default without headers. -/
def blockNz (rd : Nat → Byte) (p : Problem) (s : SparseRec) (j : Nat) : Nat :=
  if s.hdrBase = 0 then (if s.form = 0 then 64 else 128) * p.extent 2 else rdNat rd (s.hdrBase + 16 * j) 4

/-- The paths that FORM and PATH_MASK allow a tile of `u` in-range rows. -/
def pathsAllowed (s : SparseRec) (u : Nat) : List TilePath :=
  (if s.form = 0 ∧ s.pathMask.testBit 1 then [TilePath.structured] else []) ++
    (if s.pathMask.testBit 0 then [TilePath.dense] else []) ++
    (if s.pathMask.testBit 2 ∧ u ≤ 8 then [TilePath.compacted] else [])

/-- The estimate of one path. -/
def pathEstimate (p : Problem) (s : SparseRec) (bias dflt nz : Nat) : TilePath → Nat
  | .dense => cdiv p.lens.k (128 * cellP (p.cls .sparse) false) * max p.mb 128
  | .structured => cdiv p.lens.k (256 * cellP (p.cls .sparse) false) * max p.mb 128
  | .compacted => cdiv (nz * bias) 131072 + 16 * cdiv (128 + nz / segLimit s dflt) 128

/-- R260: the path of a tile, structured before dense before compacted at a tie. -/
def choosePath (rd : Nat → Byte) (p : Problem) (s : SparseRec) (bias dflt n0 u : Nat) : TilePath :=
  (argMin (pathEstimate p s bias dflt (blockNz rd p s (n0 / 128))) (pathsAllowed s u)).getD .dense

/-! ### COMPRESS (R270 to R272) -/

/-- Rank of an encoding by magnitude; NaN above infinity above finite. -/
def magRank (fmt v : Nat) : Nat :=
  match fmt with
  | 0 => v % 8
  | 1 => v % 128
  | 2 => min (v % 128) 0x7D
  | _ => (sext 8 v).natAbs

/-- The positions kept: those with fewer than `c` elements ranked above them (R270). -/
def keptOf (fmt c : Nat) (vs : List Nat) : List Nat :=
  (List.range vs.length).filter fun i =>
    let ri := magRank fmt (vs.getD i 0)
    (List.range vs.length).countP (fun j =>
      let rj := magRank fmt (vs.getD j 0)
      decide (rj > ri) || (decide (rj = ri) && decide (j < i))) < c

/-- Whether an encoding is a zero. -/
def codeIsZero (fmt v : Nat) : Bool := magRank fmt v == 0

/-- Bits packed into bytes, `w` bits a value, low first (R164, R238). -/
def packBits (w : Nat) (vs : List Nat) : List Byte :=
  leBytes (cdiv (w * vs.length) 8) (vs.foldr (fun v acc => v % 2 ^ w + acc * 2 ^ w) 0)

/-- The source element (k, n) of a compress sheet (R269). -/
def compressSrc (rd : Nat → Byte) (o : Opd) (k n : Nat) : Nat :=
  if o.inner then rdElem rd o.fmt (o.base + n * o.ostride + byteOf o.fmt k) k
  else rdElem rd o.fmt (o.base + k * o.ostride + byteOf o.fmt n) n

/-- The address bytes of a source element. -/
def compressSrcAddr (o : Opd) (k n : Nat) : Nat :=
  if o.inner then o.base + n * o.ostride + byteOf o.fmt k else o.base + k * o.ostride + byteOf o.fmt n

/-- The values and codes of weight row `n` in the 2:4 form. -/
def compressRow0 (rd : Nat → Byte) (c : CompressSheet) (src : Opd) (n : Nat) : List Byte × List Byte :=
  let gs := (List.range (c.k / 4)).map fun q =>
    let vs := (List.range 4).map fun j => compressSrc rd src (4 * q + j) n
    (keptOf src.fmt 2 vs).map fun j => (vs.getD j 0, j)
  let all := gs.flatten
  (packBits (fmtBits src.fmt) (all.map (·.1)), packBits 2 (all.map (·.2)))

/-- The record of group `g` of weight row `n` in the unstructured form, with its stored count. -/
def compressGroup1 (rd : Nat → Byte) (c : CompressSheet) (src : Opd) (n g : Nat) : List Byte × Nat :=
  let vs := (List.range 32).map fun j => compressSrc rd src (32 * g + j) n
  let keep := (keptOf src.fmt c.keep vs).filter fun j => !codeIsZero src.fmt (vs.getD j 0)
  (BitVec.ofNat 8 keep.length :: packBits (fmtBits src.fmt) (keep.map fun j => vs.getD j 0) ++ packBits 5 keep,
    keep.length)

/-- Bytes at consecutive addresses. -/
def placeBytes (a : Nat) (bs : List Byte) : List (Nat × Byte) := bs.zipIdx.map fun x => (a + x.2, x.1)

/-- A number in a field of `w` bits of a row-offset entry (R239) or of NZ (R240): what one that does not fit leaves there is a free
value (DESIGN CHOICE, log entry 143). -/
def rowField (w v : Nat) : Nat := if v < 2 ^ w then v else fld (Config.rowField w v).toNat 0 w

/-- The writes for one weight row and its stored count (R272). The last row is padded as if a next one followed (DESIGN CHOICE, log
entry 142). -/
def compressRow (rd : Nat → Byte) (c : CompressSheet) (src dst : Opd) (n : Nat) : List (Nat × Byte) × Nat :=
  let pad := fun (bs : List Byte) => bs ++ List.replicate (dst.ostride - bs.length) (0 : Byte)
  if c.form = 0 then
    let (v, k) := compressRow0 rd c src n
    (placeBytes (dst.base + n * dst.ostride) (pad v) ++ placeBytes (c.metaBase + n * c.metaStride) k, c.k / 2)
  else
    let gs := (List.range (c.k / 32)).map (compressGroup1 rd c src n)
    let bs := (gs.map (·.1)).flatten
    (placeBytes (dst.base + n * dst.ostride) (pad bs) ++
      placeBytes (c.metaBase + 8 * n) (leBytes 8 (rowField 40 (n * dst.ostride) + rowField 24 bs.length * 2 ^ 40)),
      lsum (gs.map (·.2)))

/-- Header and row-group table of weight block `j` from the stored counts of its rows (R240, R241). -/
def compressBlock (c : CompressSheet) (j : Nat) (cnt : List Nat) : List (Nat × Byte) :=
  let hdr := leBytes 16 (rowField 32 (lsum cnt) + min (cnt.foldl max 0) 0xFFFF * 2 ^ 32)
  let order := (List.range 128).mergeSort fun x y => decide (cnt.getD y 0 ≤ cnt.getD x 0)
  (if c.hdrBase = 0 then [] else placeBytes (c.hdrBase + 16 * j) hdr) ++
    (if c.rgtBase = 0 then [] else placeBytes (c.rgtBase + 256 * j) (order.flatMap (leBytes 2)))

/-- Every byte that a COMPRESS writes beside its panel checks (R271, R272). -/
def compressWrites (rd : Nat → Byte) (c : CompressSheet) (src dst : Opd) : List (Nat × Byte) :=
  let rows := (List.range c.n).map (compressRow rd c src dst)
  rows.flatMap (·.1) ++
    (List.range (c.n / 128)).flatMap fun j => compressBlock c j (((rows.map (·.2)).drop (128 * j)).take 128)

end Sys2Proof.Machine
end

