-- ==== Sys2Proof/Machine/Fusion.lean ====
section
/-!
DEFINITION. The fusion of the drain as a function of one row of accumulator words (R50, R51, R99, R115, R278 to R283),
output scaling (R289 to R291), suppression (R264, R267) and threshold bits (R293).
-/

namespace Sys2Proof.Machine

/-- The class of step 1: a special class, or an exact value `n · 2^e`. -/
inductive DClass where
  | special (s : Special)
  | num (n e : Int)
  deriving DecidableEq, Repr

/-- R50 for a word of width W whose value is Z · 2^x; R115 gives x for takes. -/
def classifyWord (W : Nat) (x : Int) (z : ZWord) : DClass :=
  let v := z.toInt W
  if z.tag = 3 then .special .nan
  else if z.tag = 1 then .special (.inf false)
  else if z.tag = 2 then .special (.inf true)
  else if z.hm ∨ v < -(2 ^ windowTop W : Int) ∨ (2 ^ windowTop W : Int) ≤ v then .special (.range (decide (v < 0)))
  else .num v x

/-- R99: the class of a fast-mode accumulator. -/
def classifyFast (fmt c : Nat) : DClass :=
  match decodeElem fmt c with
  | .nan => .special .nan
  | .inf s => .special (.inf s)
  | .fin n e => .num n e

/-- What the fusion of an element needs beside the element. -/
structure FuseEnv where
  p : Problem
  img : List (List Byte)
  chain : Option ChainCtx
  deriving DecidableEq, Repr

/-- σ of column `n`. -/
def FuseEnv.sigma (v : FuseEnv) (n : Nat) : Elem :=
  match v.p.drain.scaleMode with
  | 0 => .fin 1 0
  | 1 => .fin 1 v.p.drain.scaleExp
  | 2 => decodeElem 6 v.p.drain.scaleF32
  | _ => decodeElem 6 (v.p.scaleVec.getD n 0)

/-- Format code of BIAS_FMT. -/
def biasFmtCode (b : Nat) : Nat := if b = 0 then 4 else if b = 1 then 5 else 6

/-- β of column `n`. -/
def FuseEnv.beta (v : FuseEnv) (n : Nat) : Elem :=
  match v.p.drain.biasMode with
  | 0 => .fin 0 0
  | 1 => decodeElem 6 v.p.drain.biasVal
  | _ => decodeElem (biasFmtCode v.p.drain.biasFmt) (v.p.biasVec.getD n 0)

/-- Steps 2 and 3 with R279. -/
def scaleBias (σ β : Elem) (n e : Int) : DClass :=
  match σ, β with
  | .nan, _ => .special .nan
  | _, .nan => .special .nan
  | .inf s, b =>
    if n = 0 then .special .nan
    else
      let t := s != decide (n < 0)
      match b with
      | .inf u => if t = u then .special (.inf t) else .special .nan
      | _ => .special (.inf t)
  | .fin _ _, .inf u => .special (.inf u)
  | .fin a x, .fin b y =>
    let d := min (e + x) y
    .num (n * a * 2 ^ (e + x - d).toNat + b * 2 ^ (y - d).toNat) d

/-- An element before conversion: its class or its value with the sign of a zero, and whether it counts as non-finite or
range-faulted (R283). -/
structure PreElt where
  val : Fl
  range : Option Bool
  nonfin : Bool
  deriving DecidableEq, Repr

/-- The activation of R284 on an FP32 code. -/
def activate (v : FuseEnv) (y : Nat) : Nat :=
  let a := v.p.drain.act
  if a = 0 then y
  else if f32isNan y then f32nan
  else if a = 1 then (if 0 < f32val y then y else 0)
  else if a = 2 then (if 0 ≤ f32val y then y else f32mul v.p.drain.alpha y)
  else tableEval (v.img.getD (a - 8) []) y

/-- Step 6: the chain on the activation output `x` for column `n`, with `y` of step 4. -/
def runChain (v : FuseEnv) (n y x : Nat) : Nat :=
  match v.chain with
  | none => x
  | some c =>
    c.rcd.stages.foldl (fun x st =>
      chainStage (fun i => v.img.getD i []) (fun i => (c.vecs.getD i []).getD n 0) y st x) x

/-- Steps 2 to 6 of an in-range element of class `d` at column `n` with draw `r`. -/
def fuse (v : FuseEnv) (d : DClass) (n r : Nat) : PreElt :=
  match d with
  | .special .nan => ⟨.nan, none, true⟩
  | .special (.inf s) => ⟨.inf s, none, true⟩
  | .special (.range s) => ⟨.nan, some s, false⟩
  | .num z e =>
    match scaleBias (v.sigma n) (v.beta n) z e with
    | .special .nan => ⟨.nan, none, true⟩
    | .special (.inf s) => ⟨.inf s, none, true⟩
    | .special (.range s) => ⟨.nan, some s, false⟩
    | .num z e =>
      if v.p.drain.act = 0 ∧ ¬ v.p.drain.chainEn then ⟨Fl.ofInt z e, none, false⟩
      else
        let y := roundTo 6 v.p.sheet.rmode r (decide (z < 0)) z.natAbs e
        let x := activate v y
        let w := if v.p.drain.chainEn then runChain v n y x else x
        ⟨f32 w, none, !(f32isFin y && f32isFin x && f32isFin w)⟩

/-- Width of a scaling block (R289). -/
def blockWidth (oscale : Nat) : Nat := if oscale = 1 then 32 else 64

/-- F of R290 as `n · 2^e`. -/
def blockF (fmt oscale : Nat) : Nat × Int :=
  match fmt with
  | 0 => (6, 0)
  | 1 => (448, 0)
  | 2 => (57344, 0)
  | _ => (127, if oscale = 1 then -6 else 0)

/-- Whether |a| ≤ f · 2^x for a = n · 2^e and f = m · 2^d. -/
def magLe (n : Nat) (e : Int) (m : Nat) (d : Int) : Bool :=
  let x := min e d
  decide (n * 2 ^ (e - x).toNat ≤ m * 2 ^ (d - x).toNat)

/-- The larger magnitude. -/
def magMax (a b : Nat × Int) : Nat × Int := if magLe a.1 a.2 b.1 b.2 then b else a

/-- R290: the block exponent X from the finite values of a block. -/
def blockExp (fmt oscale : Nat) (vs : List Fl) : Int :=
  let a := vs.foldl (fun m v => match v with | .num _ n e => magMax m (n, e) | _ => m) (0, 0)
  if a.1 = 0 then 0
  else
    let f := blockF fmt oscale
    let q := dyQ a.1 a.2
    let k := floorLog2 q.1 q.2 - (Nat.log2 f.1 : Int) - f.2
    let x := if magLe a.1 a.2 f.1 (f.2 + k) then k else k + 1
    max (-127) (min 127 x)

/-- Step 7 and the rounding of step 4 onto the output grid: the bits of an element under block exponent X (R291, R51). -/
def convert (p : Problem) (r : Nat) (x : Int) (e : PreElt) : Nat :=
  match e.range, e.val with
  | some s, _ => specialBits p.c.fmt (.range s)
  | none, .nan => specialBits p.c.fmt .nan
  | none, .inf s => specialBits p.c.fmt (.inf s)
  | none, .num s n d =>
    roundTo p.c.fmt p.sheet.rmode r s n (d - x + (if p.c.fmt = 3 ∧ p.drain.oscale = 1 then 6 else 0))

/-- The value that written bits represent, the block scale applied. -/
def writtenValue (p : Problem) (x : Int) (bits : Nat) : Fl :=
  match flOfCode p.c.fmt bits with
  | .num s n d => .num s n (d + x - (if p.c.fmt = 3 ∧ p.drain.oscale = 1 then 6 else 0))
  | v => v

/-- Strict order of numbers; false with a NaN. -/
def Fl.lt : Fl → Fl → Bool
  | .nan, _ => false
  | _, .nan => false
  | .inf s, .inf t => s && !t
  | .inf s, .num _ _ _ => s
  | .num _ _ _, .inf t => !t
  | .num s n e, .num t m d =>
    let x := min e d
    decide (Fl.signed s (n * 2 ^ (e - x).toNat) < Fl.signed t (m * 2 ^ (d - x).toNat))

/-- The magnitude. -/
def Fl.abs : Fl → Fl
  | .nan => .nan
  | .inf _ => .inf false
  | .num _ n e => .num false n e

/-- R293: the threshold bit of an element that is not suppressed. -/
def thrBit (p : Problem) (x : Int) (e : PreElt) (bits : Nat) : Bool :=
  let t := f32 p.drain.thrVal
  let w := writtenValue p x bits
  match e.range, e.val with
  | some _, _ => true
  | none, .nan => true
  | none, v =>
    let isInf := (match v with | .inf _ => true | _ => false) || (match w with | .inf _ => true | _ => false)
    match p.drain.thrOp with
    | 1 => t.lt w
    | 2 => t.lt w || (!(w.lt t) && (match t, w with | .nan, _ => false | _, .nan => false | _, _ => true))
    | _ => isInf || t.lt w.abs

/-- One element as the drain reads it: its column, class, draw, and its suppression (R264) and audit (R266). -/
structure DrainIn where
  n : Nat
  cls : DClass
  draw : Nat
  supp : Bool
  audit : Bool
  deriving DecidableEq, Repr

/-- One element as the drain emits it. -/
structure DrainOut where
  n : Nat
  bits : Nat
  thr : Bool
  nonfin : Bool
  ranged : Bool
  supp : Bool
  audit : Bool
  misp : Bool
  deriving DecidableEq, Repr

/-- Whether output bits hold an infinity or a NaN that conversion produced. -/
def bitsInf (fmt bits : Nat) : Bool := match flOfCode fmt bits with | .inf _ => true | _ => false

/-- Whether output bits represent ±0. -/
def bitsZero (fmt bits : Nat) : Bool := match flOfCode fmt bits with | .num _ n _ => n == 0 | _ => false

/-- Step 8 of one element under its block exponent; a mispredict is judged by the value that would be written (R267). -/
def emitElt (p : Problem) (x : Int) (i : DrainIn) (e : PreElt) : DrainOut :=
  let bits := convert p i.draw x e
  let nf := e.range.isNone && (e.nonfin || bitsInf p.c.fmt bits)
  let special := e.range.isSome || bitsInf p.c.fmt bits || (match e.val with | .num _ _ _ => false | _ => true)
  if i.supp then ⟨i.n, 0, false, false, false, true, i.audit, i.audit && (special || !bitsZero p.c.fmt bits)⟩
  else ⟨i.n, bits, thrBit p x e bits, nf, e.range.isSome, false, false, false⟩

/-- A row of elements fused and emitted, with the scale codes of its blocks as (block, code). -/
def emitRow (v : FuseEnv) (row : List DrainIn) : List DrainOut × List (Nat × Nat) :=
  let pre := row.map fun i => (i, fuse v i.cls i.n i.draw)
  let p := v.p
  if p.drain.oscale = 0 then (pre.map fun x => emitElt p 0 x.1 x.2, [])
  else
    let w := blockWidth p.drain.oscale
    let blocks := (row.map fun i => i.n / w).eraseDups
    let xs := blocks.map fun j =>
      (j, blockExp p.c.fmt p.drain.oscale ((pre.filter fun x => x.1.n / w == j && !x.1.supp).filterMap fun x =>
        if x.2.range.isSome then none else some x.2.val))
    (pre.map fun x => emitElt p (nget xs (x.1.n / w) 0) x.1 x.2, xs.map fun b => (b.1, (127 + b.2).toNat))

end Sys2Proof.Machine
end

