-- ==== Sys2Proof/Machine/State.lean ====
section
/-!
DEFINITION. The state of the block as plain data: every register, queue, store and status the spec names, grouped by the
chapter that owns it; the reasons a step can stop; and the state right after power-on reset.
-/

namespace Sys2Proof.Machine

/-! ### The array (02) -/

/-- The weights of one cell row of a pod column: the register and the scale field (R65, R66). The rest is the model's own note
on what the register was filled with: `kept` the fields that hold a value (an unstored position holds none, R232), `equal` a
2:4 group of equal codes (undefined case of 07), `cls` the classes of a take's original elements (R113). -/
structure CellW where
  reg : Nat
  scale : Nat
  kept : Nat
  equal : Bool
  cls : Nat
  deriving DecidableEq, Repr

/-- A cell row with nothing in it. -/
def CellW.zero : CellW := ⟨0, 0, 0, false, 0⟩

/-- The weights of one pod column by cell row; a cell row that is not listed holds 0. -/
abbrev WRegs := NMap CellW

/-- A partial or a step-end token on its way from a column tree to the Stage (R71, R85). `fv` is the FP32 partial of
fast mode, `col` the column or lane of the commit, `tc` the tile column, `low` the low misses or overflows it carries, `dropped` the dropped entries of its lane batch (R262). -/
structure PartialW where
  att : Nat
  col : Nat
  tc : Nat
  row : Nat
  z : ZWord
  fv : Nat
  low : Nat
  dropped : Nat
  token : Bool
  deriving DecidableEq, Repr

/-- One A row in flight in a pod with its sideband (R68, R69): `elems` are the in-range A values at the pod's K
positions, scale applied; a position out of range or inactive is `none` (R192, R232);
`orig` are the original elements of a take's first pass, for the tags of R113; `supp` and `audit` the suppressed and the audited
tile columns (R265);
`dropped` the dropped entries that a last row's step-end tokens carry, by tile column (R262). -/
structure ARow where
  seq : Nat
  att : Nat
  ctx : Nat
  kstep : Nat
  half : Nat
  idx : Nat
  marker : Bool
  last : Bool
  elems : List (Option Elem)
  orig : List Elem
  supp : List Nat
  audit : List Nat
  dropped : NMap Nat
  deriving DecidableEq, Repr

/-- One logical column of a pod: registers, the next row its tree forms, partials formed before a swap, and load writes
that reach it after a marker it has not swapped for (R73, R74). -/
structure Column where
  active : WRegs
  shadow : WRegs
  late : WRegs
  next : Nat
  swapped : Nat
  tree : List PartialW
  deriving DecidableEq, Repr

/-- Which B tile a register set holds: command, first column of the output tile, K-step, path, shape, half of H2 and member of a
gang (R78). -/
structure BKey where
  ch : Nat
  seq : Nat
  n0 : Nat
  kstep : Nat
  path : TilePath
  shape : Nat
  half : Nat
  member : Nat
  deriving DecidableEq, Repr

/-- A tile-step that a feeder streams: context, K-step, next A row, attempt. -/
structure Streaming where
  ctx : Nat
  kstep : Nat
  next : Nat
  att : Nat
  deriving DecidableEq, Repr

/-- One feeder lane of a pod (lane 1 only under H2): the B tile in the active registers, the load in progress with its
next cell row (R72), and the tile-step in progress. -/
structure Feeder where
  cur : Option BKey
  load : Option (BKey × Nat)
  step : Option Streaming
  deriving DecidableEq, Repr

/-- One lane of a lane batch (R252): the segment's admitted pairs, per pair the weight and the tokens' activations; the
accumulators and low misses per token; the next token to emit. -/
structure Lane where
  pairs : List (Elem × List (Option Elem))
  undef : Bool
  acc : List (ZWord × Nat)
  emitted : Nat
  col : Option Nat
  dropped : Nat
  done : Bool
  deriving DecidableEq, Repr

/-- A lane batch issued to a pod. -/
structure LaneBatch where
  att : Nat
  ctx : Nat
  batch : Nat
  tokens : Nat
  lanes : List Lane
  deriving DecidableEq, Repr

/-- The service states of R223. -/
inductive PodSvc where
  | inService | draining | out | screenTest | retired
  deriving DecidableEq, Repr

/-- What a pod out of service is doing (R438, R445, R529). -/
inductive PodTask where
  | idle | loading | testing | bist
  deriving DecidableEq, Repr

/-- One physical pod; `applied` is the value of the stress that its test applies (R438), `scan` what the test access port last
shifted into its scan chains (R511). -/
structure Pod where
  svc : PodSvc
  lpos : Option Nat
  task : PodTask
  why : Option RotateFor
  cols : NMap Column
  feeders : List Feeder
  rows : List ARow
  nextSeq : Nat
  batches : List LaneBatch
  store : List (Nat × Nat)
  fetches : Nat
  version : BitVec 32
  spares : List (Nat × Nat)
  badSpares : List Nat
  faulted : Bool
  passed : Bool
  tested : Bool
  lastStress : Nat
  stress : Nat
  applied : Nat
  screen : BitVec 32
  pwrReq : Bool
  pgood : Bool
  voff : Nat
  vwant : Nat
  vreq : Bool
  vack : Bool
  scan : BitVec 64
  deriving DecidableEq, Repr

/-! ### The Stage (04) -/

/-- Whose words an update of staging adds (R127): those of an ADDX of an origin into a window, or a contributor's into the up slot
of a chunk (identity 65,536 for the level below). -/
inductive StagePart where
  | addx (window origin ptag : Nat)
  | up (group level chunk src : Nat)
  deriving DecidableEq, Repr

/-- An update of one staging sector: its slot, and the words that it adds, each with its number in the window or the chunk. -/
structure StageUpd where
  part : StagePart
  slot : StageSlot
  words : List (Nat × ZWord)
  deriving DecidableEq, Repr

/-- An update in a conflict queue (R133, R138): whether it came through the crossbar, its sector, the partials of one row and
attempt that it adds to words of the sector, each with its column within the part, or the words that it adds to staging. -/
structure BankUpd where
  xbar : Bool
  key : Nat
  adds : List (PartialW × Nat)
  staging : Option StageUpd
  deriving DecidableEq, Repr

/-- One bank of a slice as its conflict queue and credits (R138 to R140): `owed` are the credits of issued entries. -/
structure Bank where
  q : List BankUpd
  link : Nat
  xbar : Nat
  owedLink : Nat
  owedXbar : Nat
  corrected : Nat
  deriving DecidableEq, Repr

/-- A bank being copied (R151, R152): to a spare bank from 128 up, or onto its partner; since which cue value. -/
structure BankCopy where
  slice : Nat
  bank : Nat
  spare : Nat
  since : Nat
  deriving DecidableEq, Repr

/-- One part of a tile's accumulator (R129): its slice, rows, first column of the tile, columns, first sector slot, and
the drain's progress on it. -/
structure Part where
  slice : Nat
  rowLo : Nat
  rowHi : Nat
  colLo : Nat
  cols : Nat
  base : Nat
  drained : Bool
  deriving DecidableEq, Repr

/-- A progress record (R144): rows added of each column; `holder` is the admitted attempt, none while frozen. -/
structure Progress where
  comm : Nat
  kstep : Nat
  rows : NMap Nat
  holder : Option Nat
  deriving DecidableEq, Repr

/-- What the drain of a tile has counted (R259, R283): range-faulted, non-finite, in-range elements emitted, suppressed,
audited, mispredicted. -/
structure Tally where
  ranged : Nat
  nonfin : Nat
  elems : Nat
  supp : Nat
  audited : Nat
  misp : Nat
  deriving DecidableEq, Repr

/-- A tile context (R130, R131, R142). `marks` are the commit marks per committer, `freezes` the freezes for residue
faults per K-step (R429), `expect` the commit count at which the drain may start (none until it is known, R255); `streamed` are the K-steps that the run has streamed per committer; `wrote` tells that a
drain has written an element of the tile (R430); `needReplay` is the status of a fault that waits for a replay (R427); `readyAt`
is the place of its tile-ready token in the order of arrival (R276); `drained64` the stretches of 64 columns, counted within the tile, that a
tile of another shape drained before the item was relocated (R60, R215). -/
structure TileCtx where
  id : Nat
  ch : Nat
  seq : Nat
  run : Nat
  item : Nat
  org : Coord
  acc : Nat
  shape : Nat
  pos : Nat
  half : Nat
  rows : Nat
  inRows : Nat
  path : TilePath
  segs : List Segment
  parts : List Part
  gen : Nat
  count : Nat
  expect : Option Nat
  steps : Nat
  low : Nat
  dropped : Nat
  marks : List (Nat × Nat)
  progress : List Progress
  freezes : NMap Nat
  floors : Nat
  streamed : List (Nat × Nat)
  dLoaded : Bool
  readyAt : Option Nat
  started : Bool
  sweeping : Bool
  wrote : Bool
  needReplay : Option Nat
  tally : Tally
  drained64 : List Nat
  deriving DecidableEq, Repr

/-- The states of an attempt: not yet judged, admitted, or a duplicate (R144). An attempt that is stale or frozen has left
the list, and the Stage discards what still arrives of it. -/
inductive AttState where
  | fresh | admitted | duplicate
  deriving DecidableEq, Repr

/-- An attempt: the stream of one tile-step from one pod, or from one gang through its combiner. -/
structure Attempt where
  id : Nat
  ctx : Nat
  gen : Nat
  comm : Nat
  kstep : Nat
  src : Stream
  st : AttState
  tokens : List (Nat × Nat)
  rows : Nat
  cols : Nat
  deriving DecidableEq, Repr

/-- The Stage: sectors of 41 bytes by logical (slice, bank, slot) that are not cleared, bank queues, the link of each
stream, the updates of staging that wait on a stream (R141), spare and fold maps, the slots that gave an uncorrectable read (`suspect`) and those of them that have been
rewritten since (`readBack`, R435), staging (R123, R124). -/
structure Stage where
  sectors : NMap (List Byte)
  banks : NMap Bank
  links : List (Stream × List PartialW)
  xlinks : List (Stream × List StageUpd)
  spareMap : NMap Nat
  spareBad : List (Nat × Nat)
  folds : List (Nat × Nat)
  withdrawn : List Nat
  copies : List BankCopy
  suspect : List Nat
  readBack : List Nat
  stagingBytes : BitVec 32
  deriving DecidableEq, Repr

/-! ### Placement (06) -/

/-- A tile of a slate item as a reissue entry records it: its coordinates and columns, floor, the context it keeps, and
whether the tile needs no more work from the entry. -/
structure ReTile where
  org : Coord
  cols : Nat
  floor : Nat
  ctx : Option Nat
  done : Bool
  deriving DecidableEq, Repr

/-- A reissue-list entry (R212 to R215, R431): `tied` is the position or quad it must run at. -/
structure Reissue where
  item : Nat
  tiles : List ReTile
  shape : Nat
  tied : Option Taker
  deriving DecidableEq, Repr

/-- An open slate (R208 to R216). `waiting` are entries that wait for room in the list (R216). -/
structure Slate where
  ch : Nat
  seq : Nat
  counter : Nat
  items : Nat
  shape : Nat
  reissue : List Reissue
  waiting : List Reissue
  closed : Bool
  deriving DecidableEq, Repr

/-- A run taken by a unit: the items or entries it has not started. -/
structure Run where
  id : Nat
  taker : Taker
  ch : Nat
  seq : Nat
  shape : Nat
  items : List Reissue
  deriving DecidableEq, Repr

/-- A quad as a gang (R203, R204): formed, the slate it forms for, C0 of R79, members that raise the hold, and the
partials of members that wait in the combiner, keyed by member · 256 + column. -/
structure Gang where
  formed : Bool
  forming : Option (Nat × Nat)
  c0 : Option Nat
  holds : List Nat
  comb : NMap (List PartialW)
  deriving DecidableEq, Repr

/-- A service transition armed for a cue value (R222, R226): a pod enters a position, or a drained pod leaves. -/
structure Transition where
  cue : Nat
  pod : Nat
  join : Option Nat
  deriving DecidableEq, Repr

/-- A line of an operand buffer (R217 to R219, R425): the run and tensor it was read for, the units asked for as a mask, those
that have arrived, whether its fill token stands, how often its panel has been read again, and the sectors of the operand region
it fills, in stream order (R122). -/
structure BufLine where
  pos : Nat
  run : Nat
  tensor : Tensor
  line : Nat
  mask : Nat
  units : NMap (List Byte)
  token : Bool
  tries : Nat
  cells : List Nat
  deriving DecidableEq, Repr

/-- How far the splicer has walked a FORM 1 weight row for a run's dense path (R247): the byte offsets at which the records of
its first groups begin. -/
structure RowWalk where
  pos : Nat
  run : Nat
  row : Nat
  offs : List Nat
  deriving DecidableEq, Repr

/-- Slices of a take that the feeders of a position have formed for a run (R110, R194): of A's line b·M + m or of B's column n, the s
slices of each element from K position `k` on. -/
structure SlicePlane where
  pos : Nat
  run : Nat
  ofA : Bool
  line : Nat
  k : Nat
  slices : List (List Int)
  deriving DecidableEq, Repr

/-- The placement unit, slates, runs, contexts, attempts, gangs, operand buffers and slice planes. -/
structure Place where
  shapeMask : BitVec 8
  posMask : BitVec 32
  slates : List Slate
  runs : List Run
  ctxs : List TileCtx
  atts : List Attempt
  gangs : List Gang
  trans : List Transition
  bufs : List BufLine
  walks : List RowWalk
  planes : List SlicePlane
  nextId : Nat
  deriving DecidableEq, Repr

/-! ### The drain (08) -/

/-- An activation slot: a built-in image or an image that was written (R285, R288). -/
inductive ActSlot where
  | builtin (i : Nat)
  | zero
  | image (bytes : List Byte)
  deriving DecidableEq, Repr

/-- The work of one drain on one part (R276, R277): the next row, the sectors read and not cleared, and what its hand-off
gathers: payload and the flags of the header. -/
structure DrainJob where
  ctx : Nat
  part : Nat
  next : Nat
  clear : List Nat
  payload : List Byte
  nonfin : Bool
  ranged : Bool
  stopped : Bool
  deriving DecidableEq, Repr

/-- An output byte that waits for its port: address, enabled bits, value (R300). -/
abbrev OutByte := Nat × Byte × Byte

/-- An output line of a command that waits in a drain (R300, R481). -/
structure OutLine where
  ch : Nat
  seq : Nat
  bytes : List OutByte
  deriving DecidableEq, Repr

/-- A hand-off: its beats not yet sent (R301, R302), how many were sent, and whether it has been cut short (R503). -/
structure HandOff where
  ch : Nat
  seq : Nat
  ctx : Nat
  beats : List (List Byte)
  sent : Nat
  abort : Bool
  deriving DecidableEq, Repr

/-- One drain. -/
structure DrainUnit where
  job : Option DrainJob
  out : List OutLine
  hand : List HandOff
  deriving DecidableEq, Repr

/-- One vector port (R502): credits, the drain whose hand-off is on the port, the drain served last, and the beats sent
as (bytes, last, abort): the model's own record. -/
structure VPort where
  credits : Nat
  active : Option Nat
  lastDrain : Nat
  sent : List (List Byte × Bool × Bool)
  deriving DecidableEq, Repr

/-- The drains, activation slots and chain contexts. -/
structure DrainSt where
  units : List DrainUnit
  act : List ActSlot
  chains : NMap (ChainCtx × Nat)
  ports : List VPort
  deriving DecidableEq, Repr

/-! ### Memory ports (14) -/

/-- What a memory access belongs to (R483, R546). -/
inductive Owner where
  | cmd (ch seq : Nat)
  | channel (ch : Nat)
  | home (w : Nat)
  | coll (group chunk : Nat)
  | remote (origin ptag : Nat)
  | none
  deriving DecidableEq, Repr

/-- A read request outstanding: the units not yet delivered and those read again (R476, R483), and the operand line and command
that it is read for. -/
structure RdReq where
  tag : Nat
  line : Nat
  mask : Nat
  again : Nat
  pos : Nat
  run : Nat
  tensor : Tensor
  ch : Nat
  seq : Nat
  deriving DecidableEq, Repr

/-- A write outstanding: its owner and the addresses of its enabled bytes. -/
structure WrReq where
  tag : Nat
  owner : Owner
  addrs : List Nat
  deriving DecidableEq, Repr

/-- A beat of a write (R477): the line, HALF, four units with their check bytes (R482), the enabled bytes as a mask, tag, LAST. -/
structure WrBeat where
  line : Nat
  half : Bool
  units : List (List Byte)
  be : Nat
  tag : Nat
  last : Bool
  deriving DecidableEq, Repr

/-- One memory port (R476, R477, R481): credits, reads and writes outstanding, reads that wait to be sent, the write queue, and the
writes that wait behind a full queue; the beats sent are the model's own record. -/
structure MemPort where
  rdCred : Nat
  wrCred : Nat
  rd : List RdReq
  wr : List WrReq
  rq : List RdReq
  wq : List (Owner × List (Nat × Byte))
  late : List (Owner × List (Nat × Byte))
  beats : List WrBeat
  deriving DecidableEq, Repr

/-- A port with nothing in it. -/
def MemPort.idle : MemPort := ⟨0, 0, [], [], [], [], [], []⟩

/-! ### Commands in progress (05, 09) -/

/-- How far a command record has come: read, started, its result final, or complete and held until its completion ring has
room (R332). -/
inductive Phase where
  | read | running | final | held
  deriving DecidableEq, Repr

/-- A panel whose check a command owes (R294): its address, the address of its check, and the half bytes of it that the command
has written so far, as a mask. -/
structure PanelDue where
  addr : Nat
  check : Nat
  wrote : Nat
  deriving DecidableEq, Repr

/-- How often a K-step has frozen for residue faults, when its tile was relocated (R215, R429): the tile with its columns and path, the
K positions of the step (lane batches on the compacted path), and the count. -/
structure Refrozen where
  org : Coord
  cols : Nat
  path : TilePath
  lo : Nat
  hi : Nat
  count : Nat
  deriving DecidableEq, Repr

/-- A command read and not completed (R317, R330): the 512 bits of its record; channel facts of the entry in force; what
the sequencer read at its start; anchors (R29) and take exponents (R108) once they are fixed; the panels whose check it owes;
`doneAt` orders the commands that are held; `replays` are the tiles replayed, each with its columns (R430, R433); `refrozen` the
K-steps of relocated tiles that had frozen for residue faults (R429). -/
structure Cmd where
  ch : Nat
  seq : Nat
  raw : Nat
  prio : Nat
  reelSet : Nat
  phase : Phase
  kind : Option GemmKind
  prob : Option Problem
  anchor0 : Int
  anchors : NMap Int
  rowExp : NMap Int
  colExp : NMap Int
  res : Result
  ending : Bool
  opened : Bool
  chainWait : Bool
  panels : List PanelDue
  blocks : Nat
  doneAt : Nat
  replays : List (Coord × Nat)
  refrozen : List Refrozen
  deriving DecidableEq, Repr

/-! ### Channels (09) -/

/-- Channel states and codes. -/
inductive ChState where
  | disabled | active | error | resetting
  deriving DecidableEq, Repr

/-- One channel: its state, the cached entry with its last use, the four counts (R310), the IRQ_SEL register (R337), a
held doorbell (R314), whether the completion count is known (R339), when it last fetched (R334), whether it owns a chain context
(R315), and how far its reset has come: 1 while its commands end, 2 while its last records are written (R345). -/
structure Chan where
  state : ChState
  errDetail : Nat
  entry : Option ChanEntry
  used : Nat
  head : Nat
  tail : Nat
  cqTail : Nat
  cqHead : Nat
  cqKnown : Bool
  chain : Bool
  irqSel : BitVec 2
  held : Bool
  turn : Nat
  rst : Nat
  deriving DecidableEq, Repr

/-- Channels, commands read and not completed in the order they were read, and the interrupt bits. -/
structure ChanSt where
  table : BitVec 64
  chans : NMap Chan
  cmds : List Cmd
  irq : List (BitVec 64)
  stamp : Nat
  deriving DecidableEq, Repr

/-! ### Integrity and health (12) -/

/-- The health and repair unit: fault log (newest first) and limits; reels (`reelLast`: cue of the last
boundary and the channel whose mark it carries); screen tests (`screenDue`: a periodic test is due,
counted from `screenSince`; `screenNow`: a pod asked for; `screenLast`: the pod rotated last; `screenTurn`: the pod rotated out for a
periodic test that has not begun; `screenArmed`: pod and cue value of
the start); spares; fuse records that hold, records used, and those being burnt; the update of the built-in programs, its
set version, and the pods that still wait for it. -/
structure HealthSt where
  log : List (BitVec 128)
  logCount : BitVec 32
  logSelect : BitVec 8
  irqChannel : BitVec 16
  reexec : BitVec 8
  replay : BitVec 8
  ceLimit : BitVec 32
  reelNumber : BitVec 64
  reelInterval : BitVec 64
  reelStart : BitVec 64
  reelDue : Option Nat
  reelLast : Option (Nat × Option Nat)
  header : List Byte
  screenSpacing : BitVec 32
  screenSettings : BitVec 32
  screenLimits : BitVec 32
  screenNoSpare : Bool
  screenDue : Bool
  screenSince : Nat
  screenNow : Option Nat
  screenLast : Option Nat
  screenTurn : Option Nat
  screenArmed : Option (Nat × Nat)
  exPods : Bool
  exBanks : Bool
  acked : Bool
  fuses : List Nat
  fusesUsed : Nat
  burning : List Nat
  burnFailed : Bool
  vfuse : Bool
  imgBase : BitVec 64
  imgLen : BitVec 32
  imgCrc : BitVec 32
  setVersion : BitVec 32
  updQueue : List Nat
  updDone : Nat
  updBusy : Bool
  crcFail : Bool
  deriving DecidableEq, Repr

/-! ### Packet ports and links (14) -/

/-- A received packet that waits for its unit: where it came in, and the packet. -/
structure InPkt where
  via : Via
  pkt : Packet
  deriving DecidableEq, Repr

/-- The four queues of a port that send, with R405's state: the VCs of the last 256 flits (4 for an idle flit time) and the
flits that VC0, VC1 and VC3 may still send in this round. -/
structure Arb where
  recent : List Nat
  left : List Nat
  deriving DecidableEq, Repr

/-- One fabric port (R484 to R493): state code of FP_STATE, NI_READY, credits and waiting flits by VC, units of the packet in
assembly by VC and the flits of the receive buffer that it holds; the flits that have left each queue (`gone`), the flits sent and
the credits pulsed (`freed`) are the model's own record. -/
structure FPort where
  st : Nat
  niReady : Bool
  credits : List Nat
  txq : List (List Flit)
  gone : List Nat
  arb : Arb
  rx : List (List (List Byte))
  held : List Nat
  freed : List Nat
  sent : List Flit
  deriving DecidableEq, Repr

/-- A DATA flit in a replay buffer (R497): its units and masks, and how often it has been sent again. -/
structure SFlit where
  seq : Nat
  vc : Nat
  units : List (List Byte)
  sop : Nat
  eop : Nat
  resends : Nat
  deriving DecidableEq, Repr

/-- One Splice link (R494 to R501): state code of SL_STATE, whether the training in progress is a retrain, training results,
partner, sequence numbers, NAK to set and NAK set, replay buffer, the units of a CAPS that waits for room in it, credits, waiting
units with their SOP and EOP marks, units in assembly, credits owed to the partner; the units that have left each queue (`gone`)
and the flits sent are the model's own record. -/
structure SLink where
  st : Nat
  re : Bool
  enabled : Bool
  rateMax : BitVec 8
  rate : Nat
  ucie : Nat
  repaired : Nat
  pid : Nat
  idv : Bool
  seq : Nat
  exp : Nat
  accepted : Bool
  nak : Bool
  nakSent : Bool
  buf : List SFlit
  caps : Option (List (List Byte))
  credits : List Nat
  txq : List (List (List Byte × Bool × Bool))
  gone : List Nat
  arb : Arb
  rx : List (List (List Byte))
  owed : List Nat
  sent : List (List Byte)
  deriving DecidableEq, Repr

/-- Fabric ports, Splice links, the received packets in their order of arrival, weights and cap of R404, the engine's
identity and fabric mask (R350, R351). -/
structure LinkSt where
  fports : List FPort
  slinks : List SLink
  inbox : List InPkt
  weights : List (BitVec 8)
  engineId : BitVec 32
  fabricMask : BitVec 8
  deriving DecidableEq, Repr

/-! ### Staging, windows, remote operations, triggers (10) -/

/-- What holds staging (R123): an accumulate window or a collective. -/
inductive StageUser where
  | window (w : Nat)
  | coll (group : Nat)
  deriving DecidableEq, Repr

/-- Staging sectors in the order of the data they hold: runs of sectors by first place and length; a run without a place is
lost (R154, R436). Places number the staging sectors of all slices: slice, bank, slot of the region. -/
structure StageUse where
  user : StageUser
  runs : List (Option Nat × Nat)
  deriving DecidableEq, Repr

/-- An open accumulate window (R364 to R367): its entry as read at the open, its words; `faulted` is the status of R436,
`lost` the words of lost slots. A window that is being opened has no words yet. -/
structure AccWin where
  num : Nat
  entry : WinEntry
  words : List ZWord
  opened : Bool
  closing : Bool
  faulted : Option Nat
  lost : List Nat
  deriving DecidableEq, Repr

/-- Who issued an operation: a command, or trigger entry `i`. -/
inductive Issuer where
  | cmd (ch seq : Nat)
  | trig (i : Nat)
  deriving DecidableEq, Repr

/-- A packet on its way: its route, and how many flits or units of its VC have left that route once it has. -/
abbrev Leaving := Via × Nat

/-- A remote operation in flight at its origin (R358): `dead` after a channel reset (R378), `answered` once the final RESP has
arrived; `held` are its packets while an earlier operation of its channel or entry has not sent its first flit (R356). -/
structure RemOp where
  ptag : Nat
  by_ : Issuer
  args : RemoteArgs
  via : Via
  res : Result
  dead : Bool
  answered : Bool
  held : List Packet
  deriving DecidableEq, Repr

/-- An operation that has arrived at this engine as target and is not yet performed (R357), or whose later packets are still
to be discarded: the Window Table entry as read at its first flit (R353), and the packets of an operation that has not started. -/
structure TgtOp where
  origin : Nat
  ptag : Nat
  via : Via
  opcode : Nat
  window : Nat
  rejected : Bool
  last : Bool
  status : Nat
  detail : Nat
  entry : WinEntry
  started : Bool
  waits : List Packet
  deriving DecidableEq, Repr

/-- The remote-operation and trigger units. `winBusy` is the open (true) or close in progress, `tag` the number of operations
issued so far, from which their tags follow. -/
structure RemoteSt where
  winBase : BitVec 64
  winCount : BitVec 32
  wins : List AccWin
  winBusy : Option (Bool × Nat)
  winLast : Nat
  winFailed : Bool
  winFaulted : Bool
  uses : List StageUse
  ops : List RemOp
  fired : List (Nat × RemoteArgs)
  tag : Nat
  tgts : List TgtOp
  trigs : NMap Trig
  trigSelect : BitVec 16
  deriving DecidableEq, Repr

/-! ### Collectives (11) -/

/-- An up slot (R391, R392): the sum so far, the words added from each contributor (identity 65,536 for the member itself or
the level below), the words sent on, the children that hold a credit for it, and the packets that are still to leave. -/
structure UpSlot where
  level : Nat
  tree : Nat
  chunk : Nat
  words : List ZWord
  got : List (Nat × Nat)
  sent : Nat
  granted : List Nat
  out : List Leaving
  deriving DecidableEq, Repr

/-- A piece of a down chunk: offset of its first byte (packed words: word number times word bytes), payload, and whether it is the last. -/
abbrev Piece := Nat × List Byte × Bool

/-- A down slot (R392): the pieces so far, those sent to each child, those passed to the level below or written, and the packets
that are still to leave. -/
structure DownSlot where
  level : Nat
  tree : Nat
  chunk : Nat
  pieces : List Piece
  fwd : List (Nat × Nat)
  passed : Nat
  out : List Leaving
  deriving DecidableEq, Repr

/-- A credit that a member holds for sending a chunk: receiver, level, tree, chunk. -/
abbrev CollCredit := Nat × Nat × Nat × Nat

/-- A REPORT received (R415): sender, the three counts, the slowest member. -/
structure Report where
  src : Nat
  low : Nat
  ranged : Nat
  nonfin : Nat
  slowest : Nat
  deriving DecidableEq, Repr

/-- A collective in progress (R383). `expo` tells that the exponent phase still runs; `shorts` are the SHORT payloads of
children, `own` the member's own; `loaded` and `granted` are the next chunk of each tree to read and to grant downward;
`open_` the down chunks granted or formed and not freed, `out` the packets of a source that are still to leave. -/
structure Coll where
  num : Nat
  rcd : CollRec
  sig : Nat
  chunkLog : Nat
  group : Group
  anchor : Int
  expo : Bool
  own : Option (List Byte)
  shorts : List (Nat × List Byte)
  shortSent : Bool
  joined : List Nat
  credits : List CollCredit
  ups : List UpSlot
  downs : List DownSlot
  loaded : List Nat
  granted : List Nat
  open_ : List Nat
  out : List Leaving
  finished : Nat
  low : Nat
  ranged : Nat
  nonfin : Nat
  reports : List Report
  reported : Bool
  ownLast : Bool
  committed : Bool
  acks : List Nat
  acked : Bool
  aborted : Bool
  late : Bool
  since : Nat
  deriving DecidableEq, Repr

/-- A collective that has ended at this member: group, SEQ, whether an OUTCOME of it is still relayed (DEDUCED, log entry 32), and
the senders whose JOIN for it has been received. -/
structure Ended where
  group : Nat
  seq : Nat
  relay : Bool
  joined : List Nat
  deriving DecidableEq, Repr

/-- The collective unit: tables, cached groups (latest use first), collectives in progress, launches that wait in firing
order, the last collective that ended per group and those that still relay an OUTCOME, the heartbeats outstanding per watched
peer (R416), and the chunks whose PROG increment waits: group, chunk, counter (R395). -/
structure CollSt where
  groupBase : BitVec 64
  groupCount : BitVec 32
  cache : List Group
  tableBase : BitVec 64
  tableCount : BitVec 16
  chunkDefault : BitVec 8
  stallLimit : BitVec 32
  lastRefusal : BitVec 32
  colls : List Coll
  waiting : List (Nat × CollRec)
  ended : List Ended
  peers : List (Nat × Nat)
  progs : List (Nat × Nat × Nat)
  deriving DecidableEq, Repr

/-! ### The dictionary, the ring, power (13, 15) -/

/-- The read snapshot and the write buffer of one path, each with its object (R457). -/
structure PathBuf where
  snapObj : Option (Nat × Nat)
  snap : List Byte
  bufObj : Option (Nat × Nat)
  buf : List Byte
  deriving DecidableEq, Repr

/-- The dictionary's own: one buffer pair per path (window, ring, tunnel), the window registers (R458), and its own objects.
`results` are the last result of each path, `rsp` the read responses of the doorbell/window port with RSP_ERR: the model's own
records. `winReads` tells that the access in progress places data in WIN_DATA or WIN_BUF. -/
structure DictSt where
  paths : List PathBuf
  results : List Nat
  winOffset : BitVec 64
  winData : BitVec 64
  winStatus : BitVec 64
  winBuf : List Byte
  winBusy : Bool
  winOverrun : Bool
  winReads : Bool
  rsp : List (BitVec 64 × Bool)
  imageState : BitVec 64
  presenceRefusals : BitVec 32
  debugUnlock : Bool
  tunnelEnable : Bool
  deriving DecidableEq, Repr

/-- The Huaset ring front end: HUASET_POSITION, consumed requests that wait for their access (frame, and whether it was
broadcast), the last four requests consumed as TAG, CRC and response (R466), whether a response of its own is being sent and the
frames that arrive meanwhile (R465: the elastic buffer), the levels of data and strobe out, and the characters sent (R461): the
model's own record. -/
structure RingSt where
  position : BitVec 8
  queue : List (List Byte × Bool)
  seen : List (Nat × Nat × List Byte)
  sending : Bool
  elastic : List (List Byte × Bool)
  pins : Bool × Bool
  sent : List (BitVec 9)
  deriving DecidableEq, Repr

/-- Where the entry steps of R528 lead: an engine reset with its cause, or E3 (R536). -/
inductive Entering where
  | reset (cause : Nat)
  | e3
  deriving DecidableEq, Repr

/-- Power and reset: the power state E0 to E3 with the AOCLK periods spent in each (0x2020), the start-up step (0 outside
start-up), whether T0 has passed since the last reset, whether POR_N is held low (R520), the entry steps in progress (R528), a
return from E3 in progress, the last wake cause, the idle settings, the reset count and cause, presence (R470), the straps of
R509, what follows the dictionary access in progress (1 an engine reset, 2 E3; 0 between steps), whether the clock observation
outputs are on (R511), and what the test access port has shifted out (the model's own record). -/
structure PowerSt where
  estate : Nat
  time : List (BitVec 64)
  step : Nat
  t0 : Bool
  porLow : Bool
  entry : Option Entering
  fromE3 : Bool
  wake : Nat
  idleState : BitVec 8
  idleDelay : BitVec 32
  resetCount : BitVec 32
  resetCause : BitVec 8
  presence : Bool
  spliceEn : BitVec 4
  after : Nat
  observe : Bool
  tdo : List (BitVec 64)
  deriving DecidableEq, Repr

/-! ### The engine -/

/-- Everything but the queue and the memory. `throttleSeen` is the last sample of THROTTLE (R505). `wr` are the writes of the step
in progress, oldest first, and `took` the ranges of memory it has read; both are empty between steps. `free` numbers the next free
value. `lost` tells that an undefined case has happened (R7). -/
structure Eng where
  cue : Nat
  ready : Bool
  pods : List Pod
  stage : Stage
  place : Place
  drain : DrainSt
  chan : ChanSt
  mports : List MemPort
  health : HealthSt
  link : LinkSt
  remote : RemoteSt
  coll : CollSt
  dict : DictSt
  ring : RingSt
  power : PowerSt
  segMax : BitVec 16
  bias : BitVec 16
  anchorDefault : BitVec 32
  chkgen : Bool
  throttle : Nat
  throttleNext : Option Nat
  throttleSeen : Nat
  droop : Bool
  cnt : NMap Nat
  daily : NMap Nat
  setCnt : NMap Nat
  setDaily : NMap Nat
  products : NMap Nat
  wr : List (Nat × Byte)
  took : List (Nat × Nat)
  free : Nat
  lost : Bool
  deriving DecidableEq, Repr

/-! ### Why a step stops -/

/-- A step that the spec leaves without an effect. -/
inductive Fault where
  /-- A command to which the spec gives no effect at all; raised by no arm of this model, which has a next state for every command
  in every state; safe. -/
  | undefinedCase
  deriving DecidableEq, Repr

/-- A command that is turned away by name. -/
inductive Refusal where
  /-- The command has no meaning in this model; raised by no arm of this model; safe. -/
  | notModelled (mnemonic : String)
  deriving DecidableEq, Repr

/-! ### The state, and the state right after power-on reset -/

/-- The block: the commands that wait, the memory that the chip presents, and the engine. -/
structure State where
  pending : List Instr
  mem : Mem
  e : Eng
  deriving DecidableEq, Repr

/-- A pod with nothing in it. -/
def Pod.empty : Pod where
  svc := .retired
  lpos := none
  task := .idle
  why := none
  cols := []
  feeders := [⟨none, none, none⟩, ⟨none, none, none⟩]
  rows := []
  nextSeq := 0
  batches := []
  store := []
  fetches := 0
  version := 0
  spares := []
  badSpares := []
  faulted := false
  passed := false
  tested := true
  lastStress := 0
  stress := 0
  applied := 0
  screen := 0
  pwrReq := false
  pgood := true
  voff := 0
  vwant := 0
  vreq := false
  vack := false
  scan := 0

/-- Pod `n` at reset: pods 0 to 31 at their own positions, 32 and 33 in OUT (the defaults of POD_STATE), with the shipped set. -/
def Pod.reset (n : Nat) : Pod :=
  { Pod.empty with
    svc := if n < 32 then .inService else .out
    lpos := if n < 32 then some n else none
    version := Config.shippedVersion }

/-- A gang that is not formed. -/
def Gang.idle : Gang := ⟨false, none, none, [], []⟩

/-- A gang un-formed: partials that its members have sent stay in the combiner. -/
def Gang.unform (g : Gang) : Gang := { Gang.idle with comb := g.comb }

/-- The Stage at reset: every sector cleared, staging of 24 MiB. -/
def Stage.reset : Stage := ⟨[], [], [], [], [], [], [], [], [], [], [], 0x01800000⟩

/-- The placement unit at reset. Context, run and attempt numbers start at 1. -/
def Place.reset : Place := ⟨0x1F, 0xFFFFFFFF, [], [], [], [], List.replicate 8 Gang.idle, [], [], [], [], 1⟩

/-- The drains at reset: the built-in images in slots 0 to 4, zero images in 5 to 7 (R285); no vector credit (R502). -/
def DrainSt.reset : DrainSt where
  units := List.replicate 32 ⟨none, [], []⟩
  act := [.builtin 0, .builtin 1, .builtin 2, .builtin 3, .builtin 4, .zero, .zero, .zero]
  chains := []
  ports := List.replicate 8 ⟨0, none, 3, []⟩

/-- Channels at reset: all DISABLED, CHANNEL_TABLE_BASE 0. -/
def ChanSt.reset : ChanSt := ⟨0, [], [], [0, 0, 0, 0], 0⟩

/-- The health unit at reset. -/
def HealthSt.reset : HealthSt where
  log := []
  logCount := 0
  logSelect := 0
  irqChannel := 0x100
  reexec := 3
  replay := 2
  ceLimit := 0x1000
  reelNumber := 0
  reelInterval := 0
  reelStart := 0
  reelDue := none
  reelLast := none
  header := List.replicate 32 0
  screenSpacing := 0x00100000
  screenSettings := 0x000A871E
  screenLimits := 0x000A871E
  screenNoSpare := false
  screenDue := false
  screenSince := 0
  screenNow := none
  screenLast := none
  screenTurn := none
  screenArmed := none
  exPods := false
  exBanks := false
  acked := false
  fuses := []
  fusesUsed := 0
  burning := []
  burnFailed := false
  vfuse := false
  imgBase := 0
  imgLen := 0
  imgCrc := 0
  setVersion := Config.shippedVersion
  updQueue := []
  updDone := 0
  updBusy := false
  crcFail := false

/-- A fabric port at reset: DOWN, NI_READY not seen. -/
def FPort.reset : FPort :=
  ⟨0, false, [0, 0, 0, 0], [[], [], [], []], [0, 0, 0, 0], ⟨[], [0, 0, 0, 0]⟩, [[], [], [], []], [0, 0, 0, 0], [0, 0, 0, 0], []⟩

/-- A Splice link at reset: DOWN. -/
def SLink.reset : SLink where
  st := 0
  re := false
  enabled := false
  rateMax := 0x20
  rate := 0
  ucie := 0
  repaired := 0
  pid := 0
  idv := false
  seq := 0
  exp := 0
  accepted := false
  nak := false
  nakSent := false
  buf := []
  caps := none
  credits := [0, 0, 0, 0]
  txq := [[], [], [], []]
  gone := [0, 0, 0, 0]
  arb := ⟨[], [0, 0, 0, 0]⟩
  rx := [[], [], [], []]
  owed := [0, 0, 0, 0]
  sent := []

/-- Ports and links at reset. -/
def LinkSt.reset : LinkSt :=
  ⟨List.replicate 4 FPort.reset, List.replicate 4 SLink.reset, [], [0x04, 0x08, 0x10, 0x01], 0, 0x0F⟩

/-- Remote operations and triggers at reset. -/
def RemoteSt.reset : RemoteSt := ⟨0, 0, [], none, 0, false, false, [], [], [], 0, [], [], 0⟩

/-- Collectives at reset. -/
def CollSt.reset : CollSt := ⟨0, 0, [], 0, 0, 4, 0x001312D0, 0, [], [], [], [], []⟩

/-- The dictionary at reset. -/
def DictSt.reset : DictSt where
  paths := List.replicate 3 ⟨none, [], none, []⟩
  results := [0, 0, 0]
  winOffset := 0
  winData := 0
  winStatus := 0
  winBuf := List.replicate 256 0
  winBusy := false
  winOverrun := false
  winReads := false
  rsp := []
  imageState := 0
  presenceRefusals := 0
  debugUnlock := false
  tunnelEnable := false

/-- The ring front end at power-on reset. -/
def RingSt.reset : RingSt := ⟨0, [], [], false, [], (false, false), []⟩

/-- Power at power-on reset: start-up begins (POWER_STATE 0x0018), RESET_COUNT 1, RESET_CAUSE 1. -/
def PowerSt.reset : PowerSt where
  estate := 0
  time := [0, 0, 0, 0]
  step := 1
  t0 := false
  porLow := false
  entry := none
  fromE3 := false
  wake := 0
  idleState := 0
  idleDelay := 1000
  resetCount := 1
  resetCause := 1
  presence := false
  spliceEn := 0
  after := 0
  observe := false
  tdo := []

/-- The engine right after power-on reset: READY 0, before T0. -/
def Eng.reset : Eng where
  cue := 0
  ready := false
  pods := (List.range 34).map Pod.reset
  stage := Stage.reset
  place := Place.reset
  drain := DrainSt.reset
  chan := ChanSt.reset
  mports := List.replicate 32 MemPort.idle
  health := HealthSt.reset
  link := LinkSt.reset
  remote := RemoteSt.reset
  coll := CollSt.reset
  dict := DictSt.reset
  ring := RingSt.reset
  power := PowerSt.reset
  segMax := 0x0800
  bias := 0x0180
  anchorDefault := 0xFFFFFFC0
  chkgen := false
  throttle := 0
  throttleNext := none
  throttleSeen := 0
  droop := false
  cnt := []
  daily := []
  setCnt := []
  setDaily := []
  products := []
  wr := []
  took := []
  free := 0
  lost := false

/-- The block right after power-on reset: no command waits, and no byte of memory is listed. Where no rule states a reset value,
the value is the model's (DESIGN CHOICE, log entries 12 and 13). -/
def State.reset : State := ⟨[], [], Eng.reset⟩

end Sys2Proof.Machine
end

