-- ==== Sys2Proof/Machine/Flags.lean ====
section
/-!
DEFINITION. Status codes and their precedence (R57, R333), completion records (R330), counters and set counters (R447 to
R449), the fault log (R437) and the interrupt lines (R335, R336).
-/

namespace Sys2Proof.Machine

/-- Place of a status in the order of R333; a smaller place wins. -/
def statusRank (s : Nat) : Nat :=
  ([0x40, 0x10, 0x21, 0x22, 0x20, 0x30, 0x33, 0x31, 0x08, 0x09, 0x32, 0x50, 0x01, 0x02, 0x00].findIdx (· == s))

/-- The status that R333 reports of two that apply. -/
def statusMax (a b : Nat) : Nat := if statusRank b < statusRank a then b else a

/-- The status of a completed command from its fault or end status and its counts (R57, R333); in fast mode neither range faults nor
the count of overflows has a status (R100). -/
def finalStatus (r : Result) : Nat :=
  let s := statusMax r.status (if r.rangeCount = 0 ∨ r.fast then 0 else 0x08)
  let s := statusMax s (if r.nonfinite = 0 then 0 else 0x09)
  let s := statusMax s (if r.dropped = 0 then 0 else 0x50)
  let s := statusMax s (if r.count = 0 ∨ r.fast then 0 else 0x01)
  statusMax s (if r.replayed then 0x02 else 0)

/-- What a completion record reports of a result: its status, the detail that belongs to it, and a member only under COLL_SIGNATURE
and MEMBER_LOST (R330, R411). -/
def Result.reported (r : Result) : Result :=
  let st := finalStatus r
  { r with
    status := st
    detail := if st = r.status then r.detail else 0
    member := if st = 0x30 ∨ st = 0x33 then r.member else 0 }

/-- The completion record of R330 as a number of 256 bits: `op` and `tag` of the command, `n` the CQ_TAIL count, `seq`
the ring count. -/
def completionRecord (ch op tag csize n seq : Nat) (r : Result) : Nat :=
  let phase := 1 - n / 2 ^ csize % 2
  r.status % 256 + r.detail % 256 * 2 ^ 8 + op % 256 * 2 ^ 16 + ch % 256 * 2 ^ 24 + tag % 2 ^ 32 * 2 ^ 32
    + sat32 r.count * 2 ^ 64 + sat32 r.rangeCount * 2 ^ 96 + sat32 r.nonfinite * 2 ^ 128 + sat32 r.dropped * 2 ^ 160
    + r.member % 2 ^ 16 * 2 ^ 192 + b2n r.replayed * 2 ^ 208 + b2n (r.count != 0) * 2 ^ 209
    + b2n (r.dropped != 0) * 2 ^ 210 + b2n (r.nonfinite != 0) * 2 ^ 211 + b2n (r.rangeCount != 0) * 2 ^ 212
    + phase * 2 ^ 215 + seq % 2 ^ 32 * 2 ^ 224

/-- Whether a reel boundary has been made in this cycle: its events still count in the reel that ended (R448). -/
def Eng.inBoundary (e : Eng) : Bool := e.health.reelLast.any fun x => x.1 == e.cue

/-- Counter number `k` of R447 raised by `n`. -/
def Eng.bump (k n : Nat) (e : Eng) : Eng :=
  if n = 0 then e
  else if e.inBoundary then { e with daily := nput e.daily k (nget e.daily k 0 + n) }
  else { e with cnt := nput e.cnt k (nget e.cnt k 0 + n) }

/-- Set counter `k` of set `s` raised by `n` (R449). -/
def Eng.bumpSet (s k n : Nat) (e : Eng) : Eng :=
  if n = 0 then e
  else if e.inBoundary then { e with setDaily := nput e.setDaily (6 * s + k) (nget e.setDaily (6 * s + k) 0 + n) }
  else { e with setCnt := nput e.setCnt (6 * s + k) (nget e.setCnt (6 * s + k) 0 + n) }

/-- Products of set `s`, counted in units of 2^20 with the remainder kept (R449, k = 4). -/
def Eng.addProducts (s n : Nat) (e : Eng) : Eng :=
  let t := nget e.products s 0 + n
  { e with products := nput e.products s (t % 2 ^ 20) } |>.bumpSet s 4 (t / 2 ^ 20)

/-- The pending bit of a channel set (R335, R437). -/
def Eng.raiseIrq (ch : Nat) (e : Eng) : Eng :=
  if ch < 256 then
    { e with chan := { e.chan with irq := lset e.chan.irq (ch / 64) (fun v => v ||| BitVec.ofNat 64 (2 ^ (ch % 64))) } }
  else e

/-- An entry of the fault log (R437): RECOVERED is 0 for the codes from 0x30 upward. -/
def faultEntry (code unit index sub : Nat) (ch : Option Nat) (recovered : Bool) (cue : Nat) : BitVec 128 :=
  BitVec.ofNat 128 (code % 256 + unit % 16 * 2 ^ 8 + index % 256 * 2 ^ 16 + sub % 256 * 2 ^ 24
    + (ch.getD 0) % 256 * 2 ^ 32 + b2n ch.isSome * 2 ^ 40 + b2n (recovered && decide (code < 0x30)) * 2 ^ 41 + cue % 2 ^ 64 * 2 ^ 64)

/-- R437: the health unit logs a fault, counts it, and may set the chosen channel's bit. -/
def Eng.logFault (code unit index sub : Nat) (ch : Option Nat) (recovered : Bool) (e : Eng) : Eng :=
  let e := { e with health := { e.health with
    log := (faultEntry code unit index sub ch recovered e.cue :: e.health.log).take 64
    logCount := e.health.logCount + 1 } }
  (if e.health.irqChannel.toNat < 256 then e.raiseIrq e.health.irqChannel.toNat else e).bump 50 1

/-- The state of channel `c`: an unlisted channel is as reset leaves it (R311). -/
def Chan.reset : Chan := ⟨.disabled, 0, none, 0, 0, 0, 0, 0, false, false, 0, false, 0, 0⟩

/-- Channel `c`. -/
def Eng.ch (e : Eng) (c : Nat) : Chan := nget e.chan.chans c Chan.reset

/-- Channel `c` changed. -/
def Eng.updCh (c : Nat) (f : Chan → Chan) (e : Eng) : Eng :=
  { e with chan := { e.chan with chans := nput e.chan.chans c (f (e.ch c)) } }

/-- R336: the level of line IRQ[i]. -/
def Eng.irqLine (e : Eng) (i : Nat) : Bool :=
  (List.range 256).any fun c => (e.chan.irq.getD (c / 64) 0).getLsbD (c % 64) && (e.ch c).irqSel.toNat == i

end Sys2Proof.Machine
end

