-- ==== Sys2Proof/Machine/Ops.lean ====
section
/-!
DEFINITION. The named operations over the engine's state: memory through the write log and the memory ports (R474 to
R481), pods, contexts, attempts and commands by number, sectors and their code (R120 to R122, R421 to R423), operand
buffers, the issue mask (R539), and the ending of a command by a fault (R434).
-/

namespace Sys2Proof.Machine

/-! ### Reads of memory within a step (R427, R476, R479, R482, R483) -/

/-- How the read of a 32-byte unit goes where it is not clean: corrected; failed and obtained by the read that repeats it, corrected
there or not; failed twice. `decode` tells an uncorrectable unit from one with RD_ERR. -/
inductive Fate where
  | fixed
  | again (decode fixed : Bool)
  | lost (decode : Bool)
  deriving DecidableEq, Repr

/-- A unit of memory, by number, with how its read goes. -/
abbrev BadUnit := Nat × Fate

/-- What one read of a unit gives: how its data differ from what is stored, and whether a byte was corrected; none where it cannot be
obtained. The code is linear, so the outcome depends on the upset alone; generated check bytes see no upset (R421, R482). -/
def unitGives (chkgen : Bool) (r : UnitRead) : Option (List Byte × Bool) :=
  let w := upsetBytes r.upset (List.replicate 36 0)
  if r.err then none
  else if chkgen then some (w.take 32, false)
  else
    match rsDecode w with
    | .bad => none
    | .clean d => some (d, false)
    | .corrected d => some (d, true)

/-- The reads of one unit in order: its fate, and how the data obtained differ. -/
def unitFate (chkgen : Bool) : List UnitRead → Option Fate × List Byte
  | [] => (none, [])
  | r :: more =>
    match unitGives chkgen r with
    | some (d, f) => (if f then some .fixed else none, d)
    | none =>
      match more with
      | [] => (some (.again (!r.err) false), [])
      | x :: _ =>
        match unitGives chkgen x with
        | some (d, f) => (some (.again (!r.err) f), d)
        | none => (some (.lost (!r.err)), [])

/-- The reads listed for a unit. -/
def readsOf (us : List UnitRead) (u : Nat) : List UnitRead := us.filter fun r => r.unit == u

/-- The fates of the units that a step reads other than clean. -/
def fates (chkgen : Bool) (us : List UnitRead) : List BadUnit :=
  (us.map (·.unit)).eraseDups.filterMap fun u => (unitFate chkgen (readsOf us u)).1.map fun f => (u, f)

/-- Memory as the step receives it. -/
def received (chkgen : Bool) (us : List UnitRead) (rd : Nat → Byte) : Nat → Byte :=
  match us with
  | [] => rd
  | _ => fun a => rd a ^^^ (unitFate chkgen (readsOf us (a / 32))).2.getD (a % 32) 0

/-- Whether a read of `n` bytes at `a` touches unit `u`. -/
def touches (a n u : Nat) : Bool := decide (32 * u < a + n ∧ a < 32 * u + 32)

/-- Whether a unit cannot be obtained. -/
def lostUnit (x : BadUnit) : Bool := match x.2 with | .lost _ => true | _ => false

/-- The first unit that a read of `n` bytes at `a` cannot obtain. -/
def hits (bad : List BadUnit) (a n : Nat) : Option Nat := (bad.find? fun x => lostUnit x && touches a n x.1).map (·.1)

/-- The maximal runs of indices below `n` that are good, as first index and length. -/
def goodRuns (good : Nat → Bool) : Nat → List (Nat × Nat)
  | 0 => []
  | n + 1 =>
    let r := goodRuns good n
    if !good n then r
    else match r.getLast? with
      | some (i, l) => if i + l = n then r.dropLast ++ [(i, l + 1)] else r ++ [(n, 1)]
      | none => [(n, 1)]

/-- A read of a unit that failed: counted and logged (R437, R483); `first` tells the first of two. -/
def Eng.failRead (ch : Option Nat) (u : Nat) (first : Bool) (e : Eng) : Eng :=
  (e.bump 53 1).logFault 0x22 2 (portOf (32 * u)) 0 ch first

/-- A unit's read noted: a correction is counted, and a unit that cannot be corrected at its first detection (R423, R449). -/
def Eng.noteUnit (ch : Option Nat) (e : Eng) (x : BadUnit) : Eng :=
  match x.2 with
  | .fixed => e.bump 39 1
  | .again d f => (((e.bump 40 (b2n d)).failRead ch x.1 true).bump 39 (b2n f))
  | .lost d => ((e.bump 40 (b2n d)).failRead ch x.1 true).failRead ch x.1 false

/-- Lines that a range of memory touches. -/
def lineCount (r : Nat × Nat) : Nat := if r.2 = 0 then 0 else (r.1 + r.2 - 1) / 256 + 1 - r.1 / 256

/-- The numbers of those lines. -/
def linesOf (r : Nat × Nat) : List Nat := (List.range (lineCount r)).map (r.1 / 256 + ·)

/-- The lines of ranges of memory counted as read (R519). -/
def Eng.countLines (rs : List (Nat × Nat)) (e : Eng) : Eng := e.bump 51 (rs.flatMap linesOf).eraseDups.length

/-- Ranges of memory read in this step. -/
def Eng.noteTook (rs : List (Nat × Nat)) (e : Eng) : Eng := { e with took := e.took ++ rs }.countLines rs

/-- The reads of one access made and noted. -/
def Eng.noteRead (bad : List BadUnit) (ch : Option Nat) (a n : Nat) (e : Eng) : Eng :=
  (bad.filter fun x => touches a n x.1).foldl (Eng.noteUnit ch) (e.noteTook [(a, n)])

/-- Accesses in order, up to the first that cannot be obtained; true when all of them are. -/
def Eng.readMem (bad : List BadUnit) (ch : Option Nat) : List (Nat × Nat) → Eng → Bool × Eng
  | [], e => (true, e)
  | (a, n) :: r, e =>
    let e := e.noteRead bad ch a n
    if (hits bad a n).isSome then (false, e) else Eng.readMem bad ch r e

/-- Accesses of one step that do not wait for one another: every unit is noted once; true when all units are obtained. -/
def Eng.readAll (bad : List BadUnit) (ch : Option Nat) (rs : List (Nat × Nat)) (e : Eng) : Bool × Eng :=
  let us := bad.filter fun x => rs.any fun r => touches r.1 r.2 x.1
  (us.all fun x => !lostUnit x, us.foldl (Eng.noteUnit ch) (e.noteTook rs))

/-! ### Memory -/

/-- The byte at `a` after the writes of a log, oldest first. -/
def logRead (rd : Nat → Byte) : List (Nat × Byte) → Nat → Byte
  | [], a => rd a
  | w :: r, a => logRead (fun x => if x = w.1 then w.2 else rd x) r a

/-- The byte at `a` as the step in progress sees it. -/
def Eng.rdb (e : Eng) (rd : Nat → Byte) (a : Nat) : Byte := logRead rd e.wr (a % 2 ^ 64)

/-- Addresses of 64 bits (R474): what is computed beyond them is taken modulo 2^64 (DEDUCED, log entry 47). -/
def wrapWrites (ws : List (Nat × Byte)) : List (Nat × Byte) := ws.map fun w => (w.1 % 2 ^ 64, w.2)

/-- The writes of a step, added to its log. -/
def Eng.poke (ws : List (Nat × Byte)) (e : Eng) : Eng := { e with wr := e.wr ++ wrapWrites ws }

/-- The next free value number. -/
def Eng.fresh (e : Eng) : Nat × Eng := (e.free, { e with free := e.free + 1 })

/-- Bytes of consecutive free values (R410, R483). -/
def Eng.freeBytes (addrs : List Nat) (e : Eng) : Eng :=
  Eng.poke (addrs.zipIdx.map fun a => (a.1, Config.freeByte (e.free + a.2))) { e with free := e.free + addrs.length }

/-- The writes of a list that lie in line `l`. -/
def inLine (l : Nat) (ws : List (Nat × Byte)) : List (Nat × Byte) := ws.filter fun w => w.1 / 256 == l

/-- The least number that a list does not hold. -/
def leastFree (used : List Nat) : Nat := ((List.range (used.length + 1)).find? fun i => !used.contains i).getD 0

/-- Whether one of the bytes is outstanding at a port (R479). -/
def MemPort.clash (p : MemPort) (as : List Nat) : Bool :=
  p.wr.any (fun w => w.addrs.any as.contains) || p.rd.any fun r => as.any fun a => a / 256 == r.line && r.mask.testBit (a / 32 % 8)

/-- The bytes that a read request wants. -/
def RdReq.bytes (r : RdReq) : List Nat := (List.range 256).filterMap fun i => if r.mask.testBit (i / 32) then some (r.line * 256 + i) else none

/-- 32 bytes with their check bytes. -/
def unitOf (d : List Byte) : List Byte := d ++ rsCheck d

/-- One of the two beats of a write (R477, R482): the disabled bytes of a unit count as zero. -/
def writeBeat (tag : Nat) (ws : List (Nat × Byte)) (half : Bool) : WrBeat :=
  let line := (ws.head?.map (·.1)).getD 0 / 256
  let put := fun i => (ws.reverse.find? fun w => w.1 == 256 * line + 128 * b2n half + i).map (·.2)
  { line := line, half := half, tag := tag, last := half
    units := (List.range 4).map fun j => unitOf ((List.range 32).map fun b => (put (32 * j + b)).getD 0)
    be := lsum ((List.range 128).map fun i => if (put i).isSome then 2 ^ i else 0) }

/-- The write at the head of a port's queue sent as its two beats, while a credit and a tag are free (R477) and R479 allows it. -/
def MemPort.sendWrite (p : MemPort) : MemPort :=
  match p.wq with
  | [] => p
  | (o, ws) :: r =>
    let as := ws.map (·.1)
    let t := leastFree (p.wr.map (·.tag))
    if p.wrCred = 0 ∨ p.wr.length ≥ 256 ∨ p.clash as then p
    else { p with
      wrCred := p.wrCred - 1, wq := r, wr := p.wr ++ [⟨t, o, as⟩]
      beats := p.beats ++ [writeBeat t ws false, writeBeat t ws true] }

/-- A write that waits enters the write queue of 64 lines (R481). -/
def MemPort.enqueue (p : MemPort) : MemPort :=
  match p.late with
  | [] => p
  | w :: r => if p.wq.length < 64 then { p with wq := p.wq ++ [w], late := r } else p

/-- The read at the head of a port's queue sent (R476, R479). -/
def MemPort.sendRead (p : MemPort) : MemPort :=
  match p.rq with
  | [] => p
  | q :: r =>
    if p.rdCred = 0 ∨ p.rd.length ≥ 1024 ∨ p.wr.any fun w => w.addrs.any q.bytes.contains then p
    else { p with rdCred := p.rdCred - 1, rq := r, rd := p.rd ++ [{ q with tag := leastFree (p.rd.map (·.tag)) }] }

/-- A port with its queues sent as far as they can be. -/
def MemPort.pump : Nat → MemPort → MemPort
  | 0, p => p
  | k + 1, p => MemPort.pump k p.enqueue.sendWrite.sendRead

/-- The writes of a port that have not been sent, in order. -/
def MemPort.unsent (p : MemPort) : List (Owner × List (Nat × Byte)) := p.wq ++ p.late

/-- Memory port `n`. -/
def Eng.port (e : Eng) (n : Nat) : MemPort := e.mports.getD n MemPort.idle

/-- Memory port `n` changed, its queues sent, and what it sent counted. -/
def Eng.updPort (n : Nat) (f : MemPort → MemPort) (e : Eng) : Eng :=
  let p := f (e.port n)
  let q := MemPort.pump (p.unsent.length + p.rq.length) p
  (({ e with mports := e.mports.modify n fun _ => q }).bump 51 (p.rq.length - q.rq.length)).bump 52
    (p.unsent.length - q.unsent.length)

/-- One line's writes put on its port (R475, R481). -/
def Eng.sendLine (o : Owner) (l : Nat) (ws : List (Nat × Byte)) (e : Eng) : Eng :=
  e.updPort (portOf (l * 256)) fun p => { p with late := p.late ++ [(o, ws)] }

/-- Writes of owner `o`: made, and sent line by line through the memory ports. -/
def Eng.write (o : Owner) (ws : List (Nat × Byte)) (e : Eng) : Eng :=
  let ws := wrapWrites ws
  ((ws.map fun w => w.1 / 256).eraseDups).foldl (fun e l => e.sendLine o l (inLine l ws)) (e.poke ws)

/-- `n` bytes of a number written little-endian at `a`. -/
def Eng.writeNat (o : Owner) (a n v : Nat) (e : Eng) : Eng := e.write o (placeBytes a (leBytes n v))

/-- Whether owner `o` has a write that has not been accepted. -/
def Eng.owes (e : Eng) (o : Owner) : Bool :=
  e.mports.any fun p => p.wr.any (fun w => w.owner == o) || p.unsent.any (fun w => w.1 == o)

/-- Whether a write of a byte of line `l` is queued or outstanding (R479). -/
def Eng.writing (e : Eng) (l : Nat) : Bool :=
  let p := e.port (portOf (l * 256))
  p.wr.any (fun w => w.addrs.any fun a => a / 256 == l) || p.unsent.any (fun w => w.2.any fun b => b.1 / 256 == l)

/-- Whether an address lies in a range. -/
def inRange (r : Nat × Nat) (a : Nat) : Bool := decide (r.1 ≤ a ∧ a < r.1 + r.2)

/-- Whether a write of a byte of a range is queued or outstanding at a port. -/
def MemPort.writesIn (p : MemPort) (r : Nat × Nat) : Bool :=
  p.wr.any (fun w => w.addrs.any (inRange r)) || p.unsent.any (fun w => w.2.any fun b => inRange r b.1)

/-- Whether a port can send a read of a range: it holds a credit and a tag (R476), or the range needs no line of it. -/
def MemPort.sends (p : MemPort) (n : Nat) (r : Nat × Nat) : Bool :=
  (p.rdCred != 0 && decide (p.rd.length < 1024)) ||
    !((List.range (lineCount r)).any fun i => portOf (256 * (r.1 / 256 + i)) == n)

/-- Whether reads of some ranges cannot be made now: a write of one of their bytes is queued or outstanding (R479), or a port
cannot send them (R476). A read within a step returns its credit and its tag in the step (DESIGN CHOICE, log entry 53). -/
def Eng.holdsBack (e : Eng) (rs : List (Nat × Nat)) : Bool :=
  rs.any fun r => e.mports.zipIdx.any fun p => p.1.writesIn r || !p.1.sends p.2 r

/-! ### Panel checks (R167, R425) -/

/-- Panels of a tensor at `base` verified in order against the checks at `table`, those that `skip` names left out: how many
passed, and the first that failed. -/
def checkPanels (rd : Nat → Byte) (skip : Nat → Bool) (base table : Nat) : List Nat → Nat × Option Nat
  | [] => (0, none)
  | q :: r =>
    let a := base + 4096 * q
    if skip a then checkPanels rd skip base table r
    else if crc32c (rdBytes rd a 4096) = rdNat rd (table + 4 * q) 4 then
      let (n, f) := checkPanels rd skip base table r
      (n + 1, f)
    else (0, some q)

/-- A panel that failed on both reads (R425, R427). -/
def Eng.panelFault (a ch : Nat) (e : Eng) : Eng := (e.bump 44 1).logFault 0x28 2 (portOf a) 0 (some ch) false

/-- The panels of descriptor `o` that hold the bytes at some addresses; none where it carries no checks. -/
def Opd.panelsAt (o : Opd) (as : List Nat) : List Nat :=
  if o.checkBase = 0 then [] else (as.map fun a => (a - o.base) / 4096).eraseDups

/-- Address and length of panels of a descriptor, and of their checks. -/
def Opd.panelReads (o : Opd) (qs : List Nat) : List (Nat × Nat) :=
  qs.flatMap fun q => [(o.base + 4096 * q, 4096), (o.checkBase + 4 * q, 4)]

/-! ### Lookup and update by number -/

/-- The home slice of a context (R130): that of its first part. -/
def TileCtx.home (c : TileCtx) : Nat := (c.parts.head?.map (·.slice)).getD 0

/-- Pod `n`. -/
def Eng.pod (e : Eng) (n : Nat) : Pod := e.pods.getD n Pod.empty

/-- Pod `n` changed. -/
def Eng.updPod (n : Nat) (f : Pod → Pod) (e : Eng) : Eng := { e with pods := e.pods.modify n f }

/-- The pod that serves position `p`. -/
def Eng.podAt (e : Eng) (p : Nat) : Option Nat := (List.range 34).find? fun n => (e.pod n).lpos == some p

/-- Whether a pod serves a position. -/
def Eng.serves (e : Eng) (n : Nat) : Bool :=
  match (e.pod n).svc with
  | .inService => true
  | .draining => true
  | _ => false

/-- Whether position `p` is served. -/
def Eng.served (e : Eng) (p : Nat) : Bool := (e.podAt p).isSome

/-- Tile context `i`. -/
def Eng.ctx? (e : Eng) (i : Nat) : Option TileCtx := e.place.ctxs.find? fun c => c.id == i

/-- Tile context `i` changed. -/
def Eng.updCtx (i : Nat) (f : TileCtx → TileCtx) (e : Eng) : Eng :=
  { e with place := { e.place with ctxs := mapIf (fun c => c.id == i) f e.place.ctxs } }

/-- Attempt `i`. -/
def Eng.att? (e : Eng) (i : Nat) : Option Attempt := e.place.atts.find? fun a => a.id == i

/-- Attempt `i` changed. -/
def Eng.updAtt (i : Nat) (f : Attempt → Attempt) (e : Eng) : Eng :=
  { e with place := { e.place with atts := mapIf (fun a => a.id == i) f e.place.atts } }

/-- Attempt `i` removed. -/
def Eng.dropAtt (i : Nat) (e : Eng) : Eng :=
  { e with place := { e.place with atts := e.place.atts.filter fun a => a.id != i } }

/-- The command of channel `ch` with ring count `seq`. -/
def Eng.cmd? (e : Eng) (ch seq : Nat) : Option Cmd := e.chan.cmds.find? fun c => c.ch == ch && c.seq == seq

/-- A command changed. -/
def Eng.updCmd (ch seq : Nat) (f : Cmd → Cmd) (e : Eng) : Eng :=
  { e with chan := { e.chan with cmds := mapIf (fun c => c.ch == ch && c.seq == seq) f e.chan.cmds } }

/-- The slate of a command. -/
def Eng.slate? (e : Eng) (ch seq : Nat) : Option Slate := e.place.slates.find? fun s => s.ch == ch && s.seq == seq

/-- The slate of a command changed. -/
def Eng.updSlate (ch seq : Nat) (f : Slate → Slate) (e : Eng) : Eng :=
  { e with place := { e.place with slates := mapIf (fun s => s.ch == ch && s.seq == seq) f e.place.slates } }

/-- The gang of quad `q`. -/
def Eng.gang (e : Eng) (q : Nat) : Gang := e.place.gangs.getD q Gang.idle

/-- The gang of quad `q` changed. -/
def Eng.updGang (q : Nat) (f : Gang → Gang) (e : Eng) : Eng :=
  { e with place := { e.place with gangs := e.place.gangs.modify q f } }

/-- A field of a command's 512-bit record (R321, R322). -/
def Cmd.fld (c : Cmd) (lo w : Nat) : Nat := Machine.fld c.raw lo w

/-- OPCODE of a command. -/
def Cmd.opcode (c : Cmd) : Nat := c.fld 0 8

/-! ### Sectors (R120 to R122) -/

/-- The number of a sector: slice, logical bank, slot. -/
def sectorKey (slice bank slot : Nat) : Nat := (slice * 136 + bank) * 2048 + slot

/-- Slice of a sector number. -/
def keySlice (k : Nat) : Nat := k / 2048 / 136

/-- Bank of a sector number. -/
def keyBank (k : Nat) : Nat := k / 2048 % 136

/-- The 41 bytes of a cleared sector. -/
def sectorClear : List Byte := List.replicate 41 0

/-- The 41 bytes that hold 32 data bytes and a side field. -/
def sectorBytes (data : List Byte) (side : Nat) : List Byte :=
  data ++ rsCheck data ++ leBytes 4 side ++ [BitVec.ofNat 8 (sideCheck side)]

/-- The stored 41 bytes of a sector; an unlisted sector is cleared. -/
def Stage.sector (s : Stage) (k : Nat) : List Byte := nget s.sectors k sectorClear

/-- A sector written; a cleared one is not listed. -/
def Stage.putSector (s : Stage) (k : Nat) (data : List Byte) (side : Nat) : Stage :=
  let b := sectorBytes data side
  { s with sectors := if b = sectorClear then ndel s.sectors k else nput s.sectors k b }

/-- What the reading of a sector's 41 received bytes gives: data and side field, with the corrections counted, or none
(R421, R121, R423). -/
structure SectorRead where
  data : List Byte
  side : Nat
  dataFixed : Bool
  sideFixed : Bool
  deriving DecidableEq, Repr

/-- R421, R423: the decoding of 41 received bytes. -/
def decodeSector (w : List Byte) : Option SectorRead :=
  match rsDecode (w.take 36), sideDecode (leNat ((w.drop 36).take 4)) (leNat ((w.drop 40).take 1)) with
  | .bad, _ => none
  | _, none => none
  | .clean d, some (s, f) => some ⟨d, s, false, f⟩
  | .corrected d, some (s, f) => some ⟨d, s, true, f⟩

/-- A sector read under an upset. -/
def Stage.readSector (s : Stage) (k : Nat) (u : Upset) : Option SectorRead := decodeSector (upsetBytes u (s.sector k))

/-- What reading a codeword under an upset gives, as the reading of the cleared sector: both codes are linear, so the syndromes and
with them the outcome depend on the upset alone (R421, R121). -/
def upsetOutcome (u : Upset) : Option SectorRead := decodeSector (upsetBytes u sectorClear)

/-- Slots rewritten by a sweep, a clear, an update or a refill: those that gave an uncorrectable read may be read back (R435). -/
def Stage.rewrote (ks : List Nat) (s : Stage) : Stage :=
  { s with
    readBack := s.readBack ++ s.suspect.filter fun k => ks.contains k
    suspect := s.suspect.filter fun k => !ks.contains k }

/-- A bank with full credits and an empty queue (R138, R140). -/
def Bank.idle : Bank := ⟨[], 24, 8, 0, 0, 0⟩

/-- The physical bank that serves a logical bank: its partner when it is folded, from the end of the copy on (R151, R152). -/
def Stage.physBank (s : Stage) (slice bank : Nat) : Nat :=
  if s.folds.contains (slice, bank) && !(s.copies.any fun c => c.slice == slice && c.bank == bank) then bank ^^^ 64 else bank

/-- Key of a bank. -/
def bankKey (slice bank : Nat) : Nat := slice * 136 + bank

/-- A bank. -/
def Stage.bank (s : Stage) (slice bank : Nat) : Bank := nget s.banks (bankKey slice bank) Bank.idle

/-- The Stage changed. -/
def Eng.updStage (f : Stage → Stage) (e : Eng) : Eng := { e with stage := f e.stage }

/-- A bank changed. -/
def Eng.updBank (slice bank : Nat) (f : Bank → Bank) (e : Eng) : Eng :=
  e.updStage fun s => { s with banks := nput s.banks (bankKey slice bank) (f (s.bank slice bank)) }

/-- The updates and tokens on the link of a stream. -/
def Stage.link (s : Stage) (src : Stream) : List PartialW :=
  ((s.links.find? fun l => l.1 == src).map (·.2)).getD []

/-- The link of a stream replaced; an empty link is not listed. -/
def Stage.setLink (s : Stage) (src : Stream) (l : List PartialW) : Stage :=
  { s with links := (s.links.filter fun x => x.1 != src) ++ (if l.isEmpty then [] else [(src, l)]) }

/-- The updates of staging that wait on a stream. -/
def Stage.xlink (s : Stage) (src : Stream) : List StageUpd := ((s.xlinks.find? fun l => l.1 == src).map (·.2)).getD []

/-- The updates of staging that wait on a stream replaced; an empty list is not listed. -/
def Stage.setXlink (s : Stage) (src : Stream) (l : List StageUpd) : Stage :=
  { s with xlinks := (s.xlinks.filter fun x => x.1 != src) ++ (if l.isEmpty then [] else [(src, l)]) }

/-- Updates appended to the link of a stream. -/
def Eng.sendLink (src : Stream) (l : List PartialW) (e : Eng) : Eng :=
  e.updStage fun s => s.setLink src (s.link src ++ l)

/-- Whether an update of an attempt waits in a bank queue. -/
def Eng.queued (e : Eng) (i : Nat) : Bool := e.stage.banks.any fun b => b.2.q.any fun u => u.adds.any fun x => x.1.att == i

/-! ### Words in sectors (R122, R128) -/

/-- The bank of the accumulator of row `i` and part column `c` (R128). -/
def accBank (acc i c : Nat) : Nat :=
  if acc = 0 then c / 2 + 64 * (i % 2) else if acc = 1 then c else c / 16 + 8 * (i % 16)

/-- The slot, counted from the part's first, of row `i` of the part. -/
def accSlot (acc i : Nat) : Nat := if acc = 0 then i / 2 else if acc = 1 then i else i / 16

/-- Sectors per bank that a part of `rows` rows takes (R128). -/
def accDepth (acc rows : Nat) : Nat := if acc = 0 then cdiv rows 2 else if acc = 1 then rows else max 1 (cdiv rows 16)

/-- The word of part column `c` in a sector. -/
def sectorWord (acc c : Nat) (r : SectorRead) : ZWord :=
  if acc = 0 then
    let h := c % 2
    ZWord.ofParts (leNat ((r.data.drop (16 * h)).take 16)) (fld r.side (16 * h) 8) (fld r.side (16 * h + 8) 8)
  else ZWord.ofParts (leNat r.data) (fld r.side 0 8) (fld r.side 8 8)

/-- `m` bytes put into a list of bytes at offset `o`. -/
def spliceBytes (l : List Byte) (o : Nat) (m : List Byte) : List Byte := l.take o ++ m ++ l.drop (o + m.length)

/-- A word put into a sector. -/
def putWord (acc c : Nat) (z : ZWord) (r : SectorRead) : SectorRead :=
  let sf := z.sideByte + 256 * z.flagByte
  if acc = 0 then
    let h := c % 2
    { r with
      data := spliceBytes r.data (16 * h) (z.plane 128)
      side := r.side - fld r.side (16 * h) 16 * 2 ^ (16 * h) + sf * 2 ^ (16 * h) }
  else { r with data := z.plane 256, side := sf }

/-- The fast accumulator of part column `c` in a sector. -/
def sectorFast (c : Nat) (r : SectorRead) : Nat := leNat ((r.data.drop (2 * (c % 16))).take 2)

/-- A fast accumulator put into a sector. -/
def putFast (c v : Nat) (r : SectorRead) : SectorRead := { r with data := spliceBytes r.data (2 * (c % 16)) (leBytes 2 v) }

/-- The part of a context that holds a row and tile column. -/
def TileCtx.partOf (c : TileCtx) (row tc : Nat) : Option Part :=
  c.parts.find? fun p => decide (p.rowLo ≤ row ∧ row < p.rowHi ∧ p.colLo ≤ tc ∧ tc < p.colLo + p.cols)

/-- The column within a part (R128): 64h onward for an H2 half. -/
def TileCtx.partCol (c : TileCtx) (p : Part) (tc : Nat) : Nat := tc - p.colLo + 64 * c.half

/-- Slice, logical bank and sector number of an accumulator. -/
def TileCtx.place (c : TileCtx) (acc row tc : Nat) : Option (Nat × Nat × Nat) :=
  (c.partOf row tc).map fun p =>
    let b := accBank acc row (c.partCol p tc)
    (p.slice, b, sectorKey p.slice b (p.base + accSlot acc (row - p.rowLo)))

/-- Column within its part of an accumulator. -/
def accColOf (c : TileCtx) (row tc : Nat) : Nat := ((c.partOf row tc).map fun p => c.partCol p tc).getD 0

/-- Every sector number of a part. -/
def TileCtx.partKeys (c : TileCtx) (acc : Nat) (p : Part) : List Nat :=
  (List.range (p.rowHi - p.rowLo)).flatMap fun i =>
    ((List.range p.cols).map fun j =>
      sectorKey p.slice (accBank acc (p.rowLo + i) (j + 64 * c.half)) (p.base + accSlot acc i)).eraseDups

/-- Sectors cleared. -/
def Eng.clearKeys (ks : List Nat) (e : Eng) : Eng :=
  e.updStage fun s => { s with sectors := s.sectors.filter fun x => !ks.contains x.1 }

/-! ### Commands with a slate -/

/-- The command, problem and kind of a context. -/
def Eng.ctxCmd (e : Eng) (c : TileCtx) : Option (Cmd × Problem × GemmKind) :=
  match e.cmd? c.ch c.seq with
  | some m =>
    match m.prob, m.kind with
    | some p, some k => some (m, p, k)
    | _, _ => none
  | none => none

/-- The quad of a context's position. -/
def TileCtx.quad (c : TileCtx) : Nat := c.pos / 4

/-- The floor of a committer: its lowest unmarked K-step at or above the recorded floor (R142). -/
def TileCtx.floorOf (c : TileCtx) (comm : Nat) : Nat :=
  ((List.range (c.steps + 1)).find? fun k => !c.marks.contains (comm, k)).getD c.steps

/-- The floor of a context (R142): the lowest among its committers. -/
def TileCtx.floor (c : TileCtx) : Nat :=
  ((List.range (shapeCommitters c.shape)).map c.floorOf).foldl min c.steps

/-- R434 step 1: a command ended by a fault draws no further run; the highest status stands (R333). -/
def Eng.endCmd (ch seq st dt : Nat) (e : Eng) : Eng :=
  let e := e.updCmd ch seq fun c =>
    { c with ending := true, res := { c.res with
        status := statusMax c.res.status st, detail := if c.res.status = 0 then dt else c.res.detail } }
  let e := { e with place := { e.place with runs := mapIf (fun r => r.ch == ch && r.seq == seq) (fun r => { r with items := [] }) e.place.runs } }
  e.updSlate ch seq fun s => { s with closed := true, reissue := [], waiting := [] }

/-- The owner of a write ended by an error (R483, R546) where it is a command. -/
def Eng.endOwner (o : Owner) (st : Nat) (e : Eng) : Eng :=
  match o with
  | .cmd ch seq => e.endCmd ch seq st 0
  | _ => e

/-! ### Operand buffers (R217 to R219) -/

/-- Whether a buffer line is that of a position, run, tensor and line number. -/
def BufLine.isFor (b : BufLine) (pos run : Nat) (t : Tensor) (l : Nat) : Bool :=
  b.pos == pos && b.run == run && b.tensor == t && b.line == l

/-- The buffer line of a position for a run's tensor at line `l`. -/
def Eng.buf? (e : Eng) (pos run : Nat) (t : Tensor) (l : Nat) : Option BufLine :=
  e.place.bufs.find? fun b => b.isFor pos run t l

/-- A buffer line changed. -/
def Eng.updBuf (pos run : Nat) (t : Tensor) (l : Nat) (f : BufLine → BufLine) (e : Eng) : Eng :=
  { e with place := { e.place with bufs := mapIf (fun b => b.isFor pos run t l) f e.place.bufs } }

/-- The 32 bytes around address `a` in the operand buffers of some positions, from a line whose fill token the feeder holds. -/
def Eng.bufUnit (e : Eng) (ps : List Nat) (run a : Nat) : Option (List Byte) :=
  e.place.bufs.findSome? fun b =>
    if b.line == a / 256 && b.run == run && b.token && ps.contains b.pos then nget? b.units (a / 32 % 8) else none

/-- The byte at `a` in the operand buffers of some positions; 0 where no line holds it (R191). -/
def Eng.bufByte (e : Eng) (ps : List Nat) (run a : Nat) : Byte := ((e.bufUnit ps run a).getD []).getD (a % 32) 0

/-- Whether the operand buffers of some positions hold every address of a list. -/
def Eng.bufHas (e : Eng) (ps : List Nat) (run : Nat) (as : List Nat) : Bool :=
  ((as.map (· / 32)).eraseDups).all fun u => (e.bufUnit ps run (32 * u)).isSome

/-- G of R123: staging slots of a bank. -/
def Stage.gSlots (s : Stage) : Nat := s.stagingBytes.toNat / 131072

/-- Operand bytes of a slice (R156). -/
def Stage.operandBytes (s : Stage) (slice : Nat) : Nat :=
  let G := s.gSlots
  let f := (s.folds.filter fun x => x.1 == slice).length
  if s.withdrawn.contains slice then 0
  else (8192 - 2048 - 4 * G) * 1024 - f * (if G ≤ 512 then 65536 else (3072 - 2 * G) * 32)

/-- Operand slots of a bank from slot 512 + G up (R123): a folded bank gives up all of its own, and its partner the highest that
the fold needs (R152). -/
def Stage.operandSlots (s : Stage) (slice bank : Nat) : Nat :=
  let G := s.gSlots
  if s.folds.contains (slice, bank) then 0
  else if s.folds.contains (slice, bank ^^^ 64) then 1024 - 2 * G
  else 1536 - G

/-- The sector that stands at place `i` of a slice's operand region, banks in ascending order, `n` banks from bank `b` on. -/
def Stage.operandSector (s : Stage) (slice : Nat) : Nat → Nat → Nat → Option Nat
  | 0, _, _ => none
  | n + 1, b, i =>
    let k := s.operandSlots slice b
    if i < k then some (sectorKey slice b (512 + s.gSlots + i)) else s.operandSector slice n (b + 1) (i - k)

/-- The lowest free sectors for one line in a slice's operand region (which free sectors a line takes is the engine's: DESIGN
CHOICE, log entry 125). -/
def Stage.freeCells (s : Stage) (slice : Nat) (used : List Nat) : List Nat :=
  (((List.range (used.length + 8)).filterMap fun i => s.operandSector slice 128 0 i).filter fun k => !used.contains k).take 8

/-! ### The issue mask (R539 to R543) -/

/-- The throttle masks T by level. -/
def throttleMask (level : Nat) : Nat := [0xFF, 0x7F, 0x77, 0x75, 0x55, 0x15, 0x11, 0x01].getD level 0x01

/-- R539: whether the issue mask is open in this cycle. -/
def Eng.slotOpen (e : Eng) : Bool :=
  (if e.droop then throttleMask e.throttle &&& 0x55 else throttleMask e.throttle).testBit (e.cue % 8)

end Sys2Proof.Machine
end

