-- ==== Sys2Proof/Machine/Array.lean ====
section
/-!
DEFINITION. The array (02, 03, and the paths of 07): loads of B, A rows, swaps, column trees, gang combiners, lane
batches and lane steps. Each command's meaning is a function of the engine that changes nothing when its event cannot
take place (DESIGN CHOICE, log entry 9).
-/

namespace Sys2Proof.Machine

/-! ### Where a pod stands in a tile -/

/-- K positions by which member `m` is offset in a K-step (R78), with `kpod` positions a pod pass. -/
def memberK (shape m kpod : Nat) : Nat := if shape = 2 then m * kpod else if shape = 4 then m % 2 * kpod else 0

/-- First tile column of a pod. -/
def memberCol (shape m : Nat) : Nat := if shape = 3 then 128 * m else if shape = 4 then 128 * (m / 2) else 0

/-- Committer of member `m` (R86). -/
def memberComm (shape m : Nat) : Nat := if shape = 3 then m else if shape = 4 then m / 2 else 0

/-- The logical columns of a pod that serve a context. -/
def TileCtx.podCols (c : TileCtx) : List Nat :=
  if c.shape = 1 then (List.range 64).map (64 * c.half + ·) else List.range 128

/-- Tile column of a pod's logical column. -/
def TileCtx.tileCol (c : TileCtx) (m pc : Nat) : Nat := if c.shape = 1 then pc - 64 * c.half else memberCol c.shape m + pc

/-- Commit column of a pod's logical column. -/
def TileCtx.commitCol (c : TileCtx) (pc : Nat) : Nat := if c.shape = 1 then pc - 64 * c.half else pc

/-- Whether position `p` takes part in a context. -/
def TileCtx.usesPos (c : TileCtx) (p : Nat) : Bool := if c.shape ≤ 1 then c.pos == p else c.quad == p / 4

/-- The stream on which a pod's partials of a context leave: its own link, or the combiner of its gang. -/
def TileCtx.stream (c : TileCtx) (pod : Nat) : Stream := if c.shape = 2 ∨ c.shape = 4 then .gang c.quad else .pod pod

/-- What an event at a pod works on: position, context, command, problem, kind, K-step. -/
structure Site where
  pos : Nat
  ctx : TileCtx
  cmd : Cmd
  p : Problem
  kind : GemmKind
  ks : KStep
  deriving DecidableEq, Repr

/-- The site of a pod, context and K-step: the pod serves a position of the context's unit, and the context belongs to a
run. -/
def Eng.site (e : Eng) (pod ctx kstep : Nat) : Option Site :=
  match (e.pod pod).lpos, e.ctx? ctx with
  | some pos, some c =>
    match e.ctxCmd c with
    | some (m, p, k) =>
      match (kSteps k p c.shape c.path)[kstep]? with
      | some ks =>
        if e.serves pod ∧ c.usesPos pos ∧ ¬ c.sweeping ∧ c.needReplay = none ∧ e.place.runs.any (·.id == c.run) then
          some ⟨pos, c, m, p, k, ks⟩
        else none
      | none => none
    | none => none
  | _, _ => none

/-- The address that stands for the built-in programs in a translated program table (R344): no address of memory. -/
def builtinBase : Nat := 2 ^ 64

/-- Whether the pod holds the program of the context's shape and bucket (R184). -/
def Eng.hasProgram (e : Eng) (pod : Nat) (s : Site) : Bool :=
  match s.p.progs[6 * s.ctx.shape + Nat.log2 (s.ctx.rows / 32)]? with
  | some g => g.pbase == builtinBase || (e.pod pod).store.contains (g.pbase, g.plen)
  | none => false

/-- Feeder lane of a context: its half under H2, 0 in the other shapes. -/
def TileCtx.lane (c : TileCtx) : Nat := if c.shape = 1 then c.half else 0

/-- The key of a context's B tile for a K-step. -/
def Site.key (s : Site) (kstep : Nat) : BKey :=
  ⟨s.ctx.ch, s.ctx.seq, s.ctx.org.n, kstep, s.ctx.path, s.ctx.shape, s.ctx.lane, if s.ctx.shape > 1 then s.pos % 4 else 0⟩

/-- Whether the registers of two B tiles share columns: those of the two halves of H2 do not. -/
def BKey.meets (a b : BKey) : Bool := !(a.shape == 1 && b.shape == 1 && a.half != b.half)

/-- K positions of one cell row. -/
def Site.P (s : Site) : Nat := pathP (s.p.cls s.kind) s.p.fast s.ctx.path

/-- First K position of the pod in the K-step. -/
def Site.kBase (s : Site) : Nat := s.ks.k0 + memberK s.ctx.shape (s.pos % 4) (128 * s.P)

/-- Bits of one field of a weight register (R65). -/
def fieldBits (cls : Nat) : Nat := if cls = 0 then 4 else if cls = 3 then 16 else 8

/-! ### Loading B (R65, R72 to R75, R246, R247) -/

/-- The class of an original element of a take, for R113: 0 zero, 1 and 2 finite, 3 and 4 infinite, 5 NaN. -/
def elemClass : Elem → Nat
  | .nan => 5
  | .inf s => if s then 4 else 3
  | .fin n _ => if n = 0 then 0 else if n < 0 then 2 else 1

/-- An element of a class. -/
def classElem : Nat → Elem
  | 0 => .fin 0 0
  | 1 => .fin 1 0
  | 2 => .fin (-1) 0
  | 3 => .inf false
  | 4 => .inf true
  | _ => .nan

/-- Addresses of the values and codes of weight row `n` at K positions from `k` to `fin` (R236). -/
def form0Needs (p : Problem) (s : SparseRec) (n k fin : Nat) : List Nat :=
  (List.range (cdiv (min fin p.lens.k) 4 - k / 4)).flatMap fun q =>
    let i := (k / 4 + q) * 2
    [p.b.base + n * p.b.ostride + byteOf p.b.fmt i, p.b.base + n * p.b.ostride + byteOf p.b.fmt (i + 1),
      s.metaBase + n * s.metaStride + i / 4]

/-- Addresses that the walk of `k` records of weight row `n` from offset `pos` reads, and its row-offset entry (R239, R244). -/
def form1Needs (rd : Nat → Byte) (p : Problem) (s : SparseRec) (n k pos : Nat) : List Nat :=
  (List.range 8).map (s.metaBase + 8 * n + ·) ++
    (List.range (walkReach rd p.b (rowEnd rd s p.b n) k pos - pos)).map (p.b.base + pos + ·)

/-- Addresses that the walk of a whole weight row over K positions `k` to `fin` reads (R249). -/
def rowNeeds (rd : Nat → Byte) (p : Problem) (s : SparseRec) (n k fin : Nat) : List Nat :=
  if s.form = 0 then form0Needs p s n k fin else form1Needs rd p s n (cdiv fin 32) (rowOffset rd s n).1

/-- The fields of `w` bits packed, the first lowest (R65). -/
def packFields (w : Nat) (l : List Nat) : Nat := l.zipIdx.foldl (fun acc x => acc + x.1 % 2 ^ w * 2 ^ (w * x.2)) 0

/-- The first K position of cell row `r`. -/
def Site.rowK (s : Site) (r : Nat) : Nat := s.kBase + r * s.P

/-- The group of 32 K positions from `32 g` of weight row `n`, as the expansion of the dense path finds it (R247): `offs` are the
offsets of the row's records. -/
def Site.group (s : Site) (sp : SparseRec) (offs : List Nat) (rd : Nat → Byte) (n g : Nat) : WGroup :=
  if sp.form = 0 then form0Group rd sp s.p.b n g
  else (walkForm1 rd s.p.b (rowEnd rd sp s.p.b n) 1 g (offs.getD g 0)).headD ⟨g, 0, [], 0⟩

/-- Whether the expansion of the dense path has reached cell row `r` of weight row `n` (R247). -/
def Site.walked (s : Site) (offs : Nat → List Nat) (r tc : Nat) : Bool :=
  s.ctx.path != .dense || (s.p.sparse.all fun sp => sp.form == 0) || decide (s.p.lens.n ≤ s.ctx.org.n + tc) ||
    decide (s.ks.kEnd ≤ s.rowK r) || decide (s.rowK r / 32 < (offs (s.ctx.org.n + tc)).length)

/-- The s slices of an element of a take under the exponent of its row or column (R110). -/
def Site.slicesOf (s : Site) (f : Int) (x : Elem) : List Int := (List.range (takeSlices s.p)).map fun i => takeSlice f (i + 1) x

/-- The slices that the feeder of a position holds for a run (R194). -/
def Eng.plane? (e : Eng) (pos run : Nat) (ofA : Bool) (line k : Nat) : Option (List (List Int)) :=
  (e.place.planes.find? fun x => x.pos == pos && x.run == run && x.ofA == ofA && x.line == line && x.k == k).map (·.slices)

/-- Slices formed, unless they are held (R194). -/
def Eng.keepPlane (pos run : Nat) (ofA : Bool) (line k : Nat) (l : List (List Int)) (e : Eng) : Eng :=
  if (e.plane? pos run ofA line k).isSome then e
  else { e with place := { e.place with planes := ⟨pos, run, ofA, line, k, l⟩ :: e.place.planes } }

/-- The in-range K positions of cell row `r`. -/
def Site.rowKs (s : Site) (r : Nat) : List Nat := ((List.range s.P).map (s.rowK r + ·)).filter (· < s.ks.kEnd)

/-- The slices of B's elements of column `n` at cell row `r`. -/
def Site.bPlane (s : Site) (rd : Nat → Byte) (r n : Nat) : List (List Int) :=
  (s.rowKs r).map fun k => s.slicesOf (nget s.cmd.colExp n 0) (s.p.elemB rd k n)

/-- The weights of cell row `r` for tile column `tc`, and the addresses it needs. A take's come from the slices held, beside which its
first pass reads the elements for their tags (R113, R194). -/
def Site.weights (s : Site) (offs : Nat → List Nat) (held : Nat → Option (List (List Int))) (rd : Nat → Byte) (r tc : Nat) :
    CellW × List Nat :=
  let n := s.ctx.org.n + tc
  let k := s.rowK r
  let ks := s.rowKs r
  let w := fieldBits (s.p.cls s.kind)
  if s.p.lens.n ≤ n ∨ ks = [] then (CellW.zero, [])
  else
    let sc := if s.p.b.mx then [s.p.b.scaleAt n k] else []
    let scale := s.p.scaleB rd n k
    match s.kind, s.p.sparse with
    | .take, _ =>
      let u := ((takePasses (takeSlices s.p)).getD s.ks.pass (1, 1)).2
      let first := s.ks.pass == 0
      (⟨packFields w (((held n).getD (s.bPlane rd r n)).map fun l => unsext 8 (l.getD (u - 1) 0)), 0, 2 ^ ks.length - 1, false,
          if first then packFields 3 (ks.map fun k => elemClass (s.p.elemB rd k n)) else 0⟩,
        if first || (held n).isNone then ks.flatMap fun k => elemSpan s.p.b.fmt (s.p.addrB k n) else [])
    | _, some sp =>
      let same := sp.form == 0 && (List.range (s.P / 4)).any fun q =>
        decide (4 * (k / 4 + q) < s.p.lens.k) && form0Equal rd sp n (k / 4 + q)
      match s.ctx.path with
      | .structured =>
        let i0 := k / 2
        let vs := (List.range (s.P / 2)).map fun i => form0Value rd s.p.b n (i0 + i)
        let cs := (List.range (s.P / 2)).map fun i => form0Code rd sp n (i0 + i)
        (⟨packFields w vs + 2 ^ 32 * packFields 2 cs, scale, 2 ^ (s.P / 2) - 1, same, 0⟩, sc ++ form0Needs s.p sp n k (k + s.P))
      | _ =>
        let vs := ks.map fun k => storedAt [s.group sp (offs n) rd n (k / 32)] k
        let kept := lsum (vs.zipIdx.map fun v => if v.1.isSome then 2 ^ v.2 else 0)
        (⟨packFields w (vs.map (·.getD 0)), scale, kept, same, 0⟩,
          sc ++ if sp.form = 0 then form0Needs s.p sp n k (k + s.P) else form1Needs rd s.p sp n 1 ((offs n).getD (k / 32) 0))
    | _, none =>
      (⟨packFields w (ks.map fun k => s.p.bitsB rd k n), scale, 2 ^ ks.length - 1, false, 0⟩,
        sc ++ ks.flatMap fun k => elemSpan s.p.b.fmt (s.p.addrB k n))

/-- A column with nothing in it. -/
def Column.empty : Column := ⟨[], [], [], 0, 0, []⟩

/-- Logical column `c` of a pod. -/
def Pod.col (d : Pod) (c : Nat) : Column := nget d.cols c Column.empty

/-- A column changed. -/
def Pod.setCol (d : Pod) (c : Nat) (x : Column) : Pod := { d with cols := nput d.cols c x }

/-- Feeder lane `h` of a pod. -/
def Pod.feeder (d : Pod) (h : Nat) : Feeder := d.feeders.getD h ⟨none, none, none⟩

/-- A feeder lane changed. -/
def Pod.setFeeder (d : Pod) (h : Nat) (f : Feeder) : Pod := { d with feeders := d.feeders.modify h fun _ => f }

/-- The rows in flight that pass column `c` of a pod and that the column has not formed. -/
def Pod.rowsFor (d : Pod) (c : Nat) : List ARow :=
  d.rows.filter fun r => decide ((d.col c).next ≤ r.seq) && (r.half == 2 || r.half == c / 64)

/-- The marker rows that column `c` has not swapped for. -/
def Pod.pendingMarkers (d : Pod) (c : Nat) : List ARow :=
  (d.rowsFor c).filter fun r => r.marker && decide ((d.col c).swapped ≤ r.seq)

/-- One cell row of weights written to a column: to the shadow, or behind a marker that has not reached it (R74). -/
def Pod.loadCell (d : Pod) (c r : Nat) (w : CellW) : Pod :=
  let x := d.col c
  if (d.pendingMarkers c).isEmpty then d.setCol c { x with shadow := nput x.shadow r w }
  else d.setCol c { x with late := nput x.late r w }

/-- Whether the B tile of a key is still wanted at a position: a context there has a tile-step of it to stream. -/
def Eng.wanted (e : Eng) (pos : Nat) (k : BKey) : Bool :=
  e.place.ctxs.any fun c =>
    let comm := memberComm k.shape k.member
    c.ch == k.ch && c.seq == k.seq && c.org.n == k.n0 && c.shape == k.shape && c.lane == k.half && c.path == k.path &&
      c.usesPos pos && !c.sweeping && c.run != 0 && decide (c.floors ≤ k.kstep ∧ k.kstep < c.steps) &&
      !c.streamed.contains (comm, k.kstep) && !c.marks.contains (comm, k.kstep) && (e.cmd? c.ch c.seq).any fun m => !m.ending

/-- Whether a load of cell row `row` may enter feeder lane `h` of a pod: row 0 opens a load once the marker row of every earlier
load into the same columns has entered (R75), or that load's B tile is wanted no more; later rows follow in order. -/
def Eng.mayLoad (e : Eng) (pos : Nat) (d : Pod) (h : Nat) (key : BKey) (row : Nat) : Bool :=
  if row = 0 then
    (d.feeder h).cur != some key &&
      (List.range 2).all fun i => (d.feeder i).load.all fun l => !(i == h || l.1.meets key) || !e.wanted pos l.1
  else (d.feeder h).load == some (key, row) && decide (row < 128)

/-- A load's next cell row in feeder lane `h`; its row 0 takes the place of a load into the same columns. -/
def Pod.noteLoad (d : Pod) (h : Nat) (key : BKey) (row : Nat) : Pod :=
  let o := d.feeder (1 - h)
  let d := if row = 0 ∧ o.load.any (fun l => l.1.meets key) then d.setFeeder (1 - h) { o with load := none } else d
  d.setFeeder h { d.feeder h with load := some (key, row + 1) }

/-- The offsets that the expansion of a run's dense path has found at a position. -/
def Eng.walkOffs (e : Eng) (pos run row : Nat) : List Nat :=
  ((e.place.walks.find? fun w => w.pos == pos && w.run == run && w.row == row).map (·.offs)).getD []

/-- B_LOAD_ROW (R72): one cell row of the B tile of a K-step enters the pod. -/
def Eng.bLoadRow (pod ctx kstep row : Nat) (e : Eng) : Eng :=
  match e.site pod ctx kstep with
  | none => e
  | some s =>
    let d := e.pod pod
    let h := s.ctx.lane
    let offs := e.walkOffs s.pos s.ctx.run
    let b := e.bufByte [s.pos] s.ctx.run
    let tcs := s.ctx.podCols.map fun c => (c, s.ctx.tileCol (s.pos % 4) c)
    let held := fun n => e.plane? s.pos s.ctx.run false n (s.rowK row)
    let ws := tcs.map fun c => (c.1, s.weights offs held b row c.2)
    if e.slotOpen ∧ row < 128 ∧ e.hasProgram pod s ∧ s.ctx.path ≠ .compacted ∧ e.mayLoad s.pos d h (s.key kstep) row
        ∧ (s.ctx.podCols.all fun c => decide ((d.pendingMarkers c).length ≤ 1))
        ∧ tcs.all (fun c => s.walked offs row c.2) ∧ ws.all (fun w => e.bufHas [s.pos] s.ctx.run w.2.2) then
      let e := if s.kind = .take then ((tcs.map fun c => s.ctx.org.n + c.2).filter (· < s.p.lens.n)).foldl (fun e n =>
        e.keepPlane s.pos s.ctx.run false n (s.rowK row) (s.bPlane b row n)) e else e
      e.updPod pod fun d => (ws.foldl (fun d w => d.loadCell w.1 row w.2.1) d).noteLoad h (s.key kstep) row
    else e

/-! ### A rows (R67 to R69, R79, R191, R247) -/

/-- The K positions of the pod's cell rows, in order. -/
def Site.kList (s : Site) : List Nat := (List.range (128 * s.P)).map (s.kBase + ·)

/-- Whether a position of row `i` is in range for this K-step. -/
def Site.inRange (s : Site) (i k : Nat) : Bool := decide (s.ctx.org.m + i < s.p.lens.m ∧ k < s.ks.kEnd)

/-- The positions in whose operand buffers a pod finds its A elements: its own, and those of the members that meet the same K
positions, to which one read is broadcast (R78). -/
def Site.aFrom (s : Site) : List Nat :=
  if s.ctx.shape ≤ 1 then [s.pos]
  else ((List.range 4).filter fun m => memberK s.ctx.shape m 1 == memberK s.ctx.shape (s.pos % 4) 1).map (4 * (s.pos / 4) + ·)

/-- The addresses that A row `i` needs in the operand buffer. -/
def Site.aNeeds (s : Site) (i : Nat) : List Nat :=
  (s.kList.filter (s.inRange i)).flatMap fun k =>
    let m := s.ctx.org.m + i
    elemSpan s.p.a.fmt (s.p.addrA s.ctx.org.b m k) ++
      (if s.p.a.mx then [s.p.a.scaleAt (s.p.lineM s.ctx.org.b m) k] else []) ++
      match s.p.sparse with
      | some sp => if sp.abmBase = 0 then [] else [sp.abmBase + s.p.lineM s.ctx.org.b m * sp.abmStride + k / 8]
      | none => []

/-- The line b·M + m of row `i`. -/
def Site.aLine (s : Site) (i : Nat) : Nat := s.p.lineM s.ctx.org.b (s.ctx.org.m + i)

/-- The slices of row `i`, those of a position out of range 0. -/
def Site.aPlane (s : Site) (rd : Nat → Byte) (i : Nat) : List (List Int) :=
  s.kList.map fun k => if s.inRange i k then
    s.slicesOf (nget s.cmd.rowExp (s.aLine i) 0) (s.p.elemA rd s.ctx.org.b (s.ctx.org.m + i) k) else []

/-- The A values of row `i` (R191, R247), for a take those of its slice of the pass (R110, R194). -/
def Site.aRow (s : Site) (held : Option (List (List Int))) (rd : Nat → Byte) (i : Nat) : List (Option Elem) :=
  let m := s.ctx.org.m + i
  match s.kind with
  | .take =>
    let t := ((takePasses (takeSlices s.p)).getD s.ks.pass (1, 1)).1
    (s.kList.zip (held.getD (s.aPlane rd i))).map fun x =>
      if s.inRange i x.1 then some (.fin (x.2.getD (t - 1) 0) 0) else none
  | _ => s.kList.map fun k =>
    if !s.inRange i k || !isActive rd s.p s.ctx.org.b m k then none else some (s.p.elemA rd s.ctx.org.b m k)

/-- The original elements of row `i` in the first pass of a take (R113). -/
def Site.aOrig (s : Site) (rd : Nat → Byte) (i : Nat) : List Elem :=
  match s.kind with
  | .take =>
    if s.ks.pass = 0 then
      s.kList.map fun k => if s.inRange i k then s.p.elemA rd s.ctx.org.b (s.ctx.org.m + i) k else .fin 0 0
    else []
  | _ => []

/-- The tile columns whose element of row `i` is suppressed (R265). -/
def Site.suppressed (s : Site) (rd : Nat → Byte) (i : Nat) : List Nat :=
  (List.range (shapeN s.ctx.shape)).filter fun c =>
    decide (s.ctx.org.n + c < s.p.lens.n) && isSuppressed rd s.p s.ctx.org.b (s.ctx.org.m + i) (s.ctx.org.n + c)

/-- The tile columns whose element of row `i` is audited (R265, R266). -/
def Site.audited (s : Site) (i : Nat) : List Nat :=
  (List.range (shapeN s.ctx.shape)).filter fun c =>
    decide (s.ctx.org.n + c < s.p.lens.n) && isAudited s.p s.ctx.org.b (s.ctx.org.m + i) (s.ctx.org.n + c)

/-- Whether a tile holds command row 0 of batch element 0 (R262). -/
def TileCtx.firstTile (c : TileCtx) : Bool := c.org.b == 0 && c.org.m == 0

/-- The dropped entries of the groups that a pod expands in a K-step, by tile column (R262). -/
def Site.rowDropped (s : Site) (rd : Nat → Byte) : NMap Nat :=
  match s.p.sparse with
  | some sp =>
    if sp.form = 1 ∧ s.ctx.firstTile then
      (s.ctx.podCols.map fun c => s.ctx.tileCol (s.pos % 4) c).foldl (fun l tc =>
        if s.p.lens.n ≤ s.ctx.org.n + tc then l
        else nput l tc (droppedCount s.p.lens.k ((walkRow rd sp s.p.b (s.p.extent 2) (s.ctx.org.n + tc)).filter fun g =>
          decide (s.kBase ≤ 32 * g.g ∧ 32 * g.g < s.kBase + 128 * s.P ∧ 32 * g.g < s.ks.kEnd)))) []
    else []
  | none => []

/-- Whether a K-step of a context may be streamed: inside the window of R143, at or above the recorded floor, not frozen
to the limit of R429, not streamed by the run, D loaded (R170), and in fast mode with every lower K-step streamed
(R96). -/
def Eng.mayStream (e : Eng) (c : TileCtx) (comm kstep : Nat) (fast needD : Bool) : Bool :=
  decide (c.floors ≤ kstep) && decide (kstep < c.floor + 4096) && decide (kstep < c.steps) &&
    decide (nget c.freezes kstep 0 < e.health.reexec.toNat) && (!needD || c.dLoaded) &&
    !c.streamed.contains (comm, kstep) && ((e.cmd? c.ch c.seq).all fun m => !m.ending) &&
    (!fast || (List.range kstep).all fun j =>
      c.marks.contains (comm, j) || decide (j < c.floors) || c.streamed.contains (comm, j))

/-- Whether two attempts are of one K-step, committer and generation. -/
def Attempt.sameStep (a b : Attempt) : Bool := a.ctx == b.ctx && a.comm == b.comm && a.kstep == b.kstep && a.gen == b.gen

/-- Progress records of a slice that are in use, or that a queued first partial will take. -/
def Eng.recordsUsed (e : Eng) (slice : Nat) : Nat :=
  lsum (e.place.ctxs.map fun x => if x.home = slice then x.progress.length else 0) +
    e.place.atts.countP fun b => b.st == .fresh && e.queued b.id && (e.ctx? b.ctx).any fun x =>
      x.home == slice && !(x.progress.any fun r => r.comm == b.comm && r.kstep == b.kstep)

/-- R144 holds an attempt: another attempt of its K-step and committer is admitted or in a queue before it, the previous
K-step of a fast tile is not committed, or the home slice has no free progress record. An attempt with an update in a
queue has its record. -/
def Eng.held (e : Eng) (a : Attempt) : Bool :=
  match e.ctx? a.ctx with
  | none => false
  | some c =>
    a.st == .fresh && a.gen == c.gen && !c.sweeping && !c.marks.contains (a.comm, a.kstep) &&
      ((e.place.atts.any fun b => b.id != a.id && b.sameStep a &&
          (b.st == .admitted || (b.st == .fresh && e.queued b.id && !e.queued a.id))) ||
        ((e.ctxCmd c).any fun m => m.2.1.fast && a.kstep > 0 && !c.marks.contains (a.comm, a.kstep - 1)) ||
        (!e.queued a.id && !(c.progress.any fun r => r.comm == a.comm && r.kstep == a.kstep) &&
          decide (4 ≤ e.recordsUsed c.home)))

/-- Whether an update reaches its bank through the crossbar: only a compacted tile may stand in another slice than that of
its position (R257); the quad links join the slices of a gang (R126). -/
def TileCtx.viaXbar (c : TileCtx) (slice : Nat) : Bool := c.path == .compacted && slice != c.pos

/-- Whether the bank of an update has no credit for it (R140). -/
def Eng.noCredit (e : Eng) (p : PartialW) : Bool :=
  !p.token && ((e.att? p.att).bind fun a => e.ctx? a.ctx).any fun c => (c.place c.acc p.row p.tc).any fun x =>
    let q := e.stage.bank x.1 (e.stage.physBank x.1 x.2.1)
    (if c.viaXbar x.1 then q.xbar else q.link) == 0

/-- Whether the stream's first update cannot move: it is held under R144, or its bank gives no credit (R141). -/
def Eng.linkHeld (e : Eng) (src : Stream) : Bool :=
  match e.stage.link src with
  | [] => false
  | p :: _ => (e.att? p.att).any e.held || e.noCredit p

/-- The row bands of a tile (R129): parts that hold tile column 0. -/
def TileCtx.bands (c : TileCtx) : Nat := max 1 (c.parts.countP fun p => p.colLo == 0)

/-- The attempt of a tile-step for a committer on a stream: that which another member of the gang has opened with its row
0, or a new one. An attempt after a freeze for a residue fault counts in ATTEMPTS_REPEATED. -/
def Eng.openAttempt (c : TileCtx) (comm kstep : Nat) (src : Stream) (rows cols : Nat) (e : Eng) : Nat × Eng :=
  match e.place.atts.find? fun a => a.ctx == c.id && a.gen == c.gen && a.comm == comm && a.kstep == kstep && a.src == src
      && a.st == .fresh && c.streamed.contains (comm, kstep) with
  | some a => (a.id, e)
  | none =>
    let i := e.place.nextId
    let a : Attempt := ⟨i, c.id, c.gen, comm, kstep, src, .fresh, [], rows, cols⟩
    let e := { e with place := { e.place with atts := e.place.atts ++ [a], nextId := i + 1 } }
    let e := e.updCtx c.id fun c => { c with streamed := (comm, kstep) :: c.streamed }
    (i, if nget c.freezes kstep 0 > 0 then e.bump 46 1 else e)

/-- A feeder lane after a row has entered: a marker row makes the key's B tile the active one, and the registers of another lane
that share columns with it hold no B tile that can be used again. -/
def Pod.noteRow (d : Pod) (h : Nat) (key : BKey) (marker : Bool) (step : Option Streaming) : Pod :=
  let o := d.feeder (1 - h)
  let d := if marker ∧ o.cur.any (fun k => k.meets key) then d.setFeeder (1 - h) { o with cur := none } else d
  let f := d.feeder h
  d.setFeeder h { cur := some key, load := if marker then none else f.load, step := step }

/-- Row `i` enters the pod's west edge as row of attempt `att`. -/
def Eng.enterRow (rd : Nat → Byte) (pod kstep i att : Nat) (s : Site) (e : Eng) : Eng :=
  let b := e.bufByte s.aFrom s.ctx.run
  let h := s.ctx.lane
  let last := i + 1 == s.ctx.rows
  let held := e.plane? s.pos s.ctx.run true (s.aLine i) s.kBase
  let e := if s.kind = .take then e.keepPlane s.pos s.ctx.run true (s.aLine i) s.kBase (s.aPlane b i) else e
  let e := e.updPod pod fun d =>
    let marker := i == 0 && (d.feeder h).cur != some (s.key kstep)
    let row : ARow := ⟨d.nextSeq, att, s.ctx.id, kstep, if s.ctx.shape = 1 then h else 2, i, marker, last,
      s.aRow held b i, s.aOrig b i, s.suppressed rd i, s.audited i, if last then s.rowDropped rd else []⟩
    { d with rows := d.rows ++ [row], nextSeq := d.nextSeq + 1 }.noteRow h (s.key kstep) marker
      (if last then none else some ⟨s.ctx.id, kstep, i + 1, att⟩)
  let e := e.addProducts s.cmd.reelSet (128 * s.P / (if s.ctx.path = .structured then 2 else 1) * s.ctx.podCols.length)
  if last then e.bumpSet s.cmd.reelSet 6 (max s.ctx.rows 128) else e

/-- Whether no tile-step whose rows share columns with a context's is in progress on another lane of the pod (R75). -/
def Eng.laneClear (e : Eng) (d : Pod) (c : TileCtx) : Bool :=
  (d.feeder (1 - c.lane)).step.all fun t => (e.ctx? t.ctx).all fun x => x.shape == 1 && c.shape == 1 && x.half != c.half

/-- Whether the pod can read row `i` of the K-step now, the issue mask apart: program, operand buffer, B loaded, Stage credits. -/
def Eng.rowFed (e : Eng) (pod kstep i : Nat) (s : Site) : Bool :=
  let d := e.pod pod
  let f := d.feeder s.ctx.lane
  let comm := memberComm s.ctx.shape (s.pos % 4)
  e.hasProgram pod s && s.ctx.path != .compacted &&
    (s.ks.pass != 0 && (e.plane? s.pos s.ctx.run true (s.aLine i) s.kBase).isSome || e.bufHas s.aFrom s.ctx.run (s.aNeeds i)) &&
    !e.linkHeld (s.ctx.stream pod) &&
    (if i = 0 then
      f.step.isNone && e.laneClear d s.ctx && e.mayStream s.ctx comm kstep s.p.fast s.p.d.isSome &&
        (f.cur == some (s.key kstep) || f.load == some (s.key kstep, 128))
     else f.step.any fun t => t.ctx == s.ctx.id && t.kstep == kstep && t.next == i)

/-- Whether the pod reads row `i` of the K-step in this cycle if it is told to: it can, and the issue mask is open (R77, R539). -/
def Eng.rowReady (e : Eng) (pod kstep i : Nat) (s : Site) : Bool := e.slotOpen && e.rowFed pod kstep i s

/-- The pods of the four members of a quad. -/
def Eng.quadPods (e : Eng) (q : Nat) : List (Option Nat) := (List.range 4).map fun m => e.podAt (4 * q + m)

/-- Where the four members of a quad stand in a tile-step. -/
def Eng.gangSites (e : Eng) (q ctx kstep : Nat) : List (Option (Nat × Site)) :=
  (e.quadPods q).map fun o => o.bind fun n => (e.site n ctx kstep).map fun s => (n, s)

/-- Row `i` of a tile-step enters at one pod: row 0 opens the attempt. -/
def Eng.readRow (rd : Nat → Byte) (pod kstep i : Nat) (s : Site) (e : Eng) : Eng :=
  match ((e.pod pod).feeder s.ctx.lane).step with
  | some t => e.enterRow rd pod kstep i t.att s
  | none =>
    let c := (e.ctx? s.ctx.id).getD s.ctx
    let (att, e) := e.openAttempt c (memberComm c.shape (s.pos % 4)) kstep (c.stream pod) c.rows
      (shapeCols c.shape * c.bands)
    e.enterRow rd pod kstep i att s

/-- Row `i` of a tile-step enters at every member of a gang in one cycle (R79). -/
def Eng.gangRow (rd : Nat → Byte) (q ctx kstep i : Nat) (e : Eng) : Eng :=
  (e.gangSites q ctx kstep).foldl (fun e x =>
    match x with
    | some (n, s) => e.readRow rd n kstep i s
    | none => e) e

/-- Whether every member of a gang can read row `i` of a tile-step (R80). -/
def Eng.gangFed (e : Eng) (q ctx kstep i : Nat) : Bool :=
  (e.gangSites q ctx kstep).all fun x => x.any fun y => e.rowFed y.1 kstep i y.2 && decide (y.2.ctx.shape > 1)

/-- Whether a context has a tile-step that its run has not streamed. -/
def TileCtx.unstreamed (c : TileCtx) (kstep : Nat) : Bool :=
  decide (c.floors ≤ kstep) && (List.range (shapeCommitters c.shape)).any fun m =>
    !c.streamed.contains (m, kstep) && !c.marks.contains (m, kstep)

/-- The tile-steps that a gang has still to stream. -/
def Eng.gangSteps (e : Eng) (q : Nat) : List (Nat × Nat) :=
  (e.place.ctxs.filter fun c => decide (c.shape > 1) && c.quad == q && c.run != 0 && !c.sweeping && c.needReplay.isNone &&
      (e.cmd? c.ch c.seq).any fun m => !m.ending).flatMap fun c =>
    ((List.range c.steps).filter c.unstreamed).map fun k => (c.id, k)

/-- Whether a member of a quad is streaming a tile-step. -/
def Eng.gangStreams (e : Eng) (q : Nat) : Bool :=
  (e.quadPods q).any fun o => o.any fun n => ((e.pod n).feeder 0).step.isSome

/-- R79, R222: C0 of a gang's next tile-step, at the least distance that R222 allows, once no tile-step is in progress and one
remains (which cue value the placement unit chooses is the model's: DESIGN CHOICE, log entry 126). -/
def Eng.armGang (q : Nat) (e : Eng) : Eng :=
  if (e.gang q).formed ∧ (e.gang q).c0 = none ∧ ¬ e.gangStreams q ∧ (e.gangSteps q).isEmpty = false then
    e.updGang q fun g => { g with c0 := some (e.cue + 32) }
  else e

/-- A_ROW_ISSUE (R68): the feeder of a pod issues the next A row of a tile-step. Row 0 of a gang enters by
GANG_ROW_ALIGNMENT, and a later row at every member in one cycle (R79). -/
def Eng.aRowIssue (rd : Nat → Byte) (pod ctx kstep : Nat) (e : Eng) : Eng :=
  match e.site pod ctx kstep with
  | none => e
  | some s =>
    let i := (((e.pod pod).feeder s.ctx.lane).step.map (·.next)).getD 0
    if s.ctx.shape ≤ 1 then
      if e.rowReady pod kstep i s then e.readRow rd pod kstep i s else e
    else
      let q := s.ctx.quad
      if 0 < i ∧ e.slotOpen ∧ (e.gang q).holds = [] ∧ e.gangFed q ctx kstep i then
        (e.gangRow rd q ctx kstep i).armGang q
      else e

/-- GANG_ROW_ALIGNMENT (R79): at C0, or in the common cycle in which a hold of R80 drops after it, every member reads row 0 of
its tile-step. -/
def Eng.gangRowAlignment (rd : Nat → Byte) (q ctx kstep : Nat) (e : Eng) : Eng :=
  if (e.gang q).formed ∧ (e.gang q).c0.any (fun c => decide (c ≤ e.cue)) ∧ (e.gang q).holds = [] ∧ e.slotOpen
      ∧ e.gangFed q ctx kstep 0 then
    ((e.gangRow rd q ctx kstep 0).updGang q fun g => { g with c0 := none }).armGang q
  else e

/-! ### Column trees (R70, R71, R92, R93) and swaps -/

/-- The anchor of an output element (R28, R29). -/
def Cmd.anchorAt (c : Cmd) (p : Problem) (b m n : Nat) : Int :=
  if c.anchors.isEmpty then c.anchor0 else nget c.anchors (anchorKey (p.grow b m) (p.gcol n)) 0

/-- The weights of a cell row with the place in the row that each meets; a field that holds no value is none. -/
def Site.cellWeights (s : Site) (w : CellW) : List (Nat × Option Elem) :=
  let fb := fieldBits (s.p.cls s.kind)
  match s.kind with
  | .take => (List.range s.P).map fun i => (i, some (.fin (sext 8 (fld w.reg (8 * i) 8)) 0))
  | _ =>
    if s.ctx.path = .structured then
      (List.range (s.P / 2)).map fun i => (4 * (i / 2) + fld w.reg (32 + 2 * i) 2, some (s.p.b.value (fld w.reg (fb * i) fb) w.scale))
    else (List.range s.P).map fun i => (i, if w.kept.testBit i then some (s.p.b.value (fld w.reg (fb * i) fb) w.scale) else none)

/-- The products of one column for one row, in ascending K position, one for every position of the pod: none is a product of value zero
and tag finite (R67, R192, R232). -/
def Site.products (s : Site) (row : ARow) (regs : WRegs) : List (Option (Elem × Elem)) :=
  let xs := row.elems.toArray
  (List.range 128).flatMap fun r =>
    (s.cellWeights (nget regs r CellW.zero)).map fun x =>
      match xs.getD (r * s.P + x.1) none, x.2 with
      | some a, some w => if s.p.sparse.isSome && elemIsZero w then none else some (a, w)
      | _, _ => none

/-- The tag of a take's terms from the original elements, in its first pass (R113). -/
def Site.takeTag (s : Site) (row : ARow) (regs : WRegs) : BitVec 2 :=
  (List.range row.orig.length).foldl (fun t j =>
    match row.elems.getD j none with
    | some _ => t ||| termTag (row.orig.getD j (.fin 0 0)) (classElem (fld (nget regs (j / s.P) CellW.zero).cls (3 * (j % s.P)) 3))
    | none => t) 0

/-- Whether the weights of a column hold a 2:4 group of equal codes (undefined case of 07). -/
def Site.equalCodes (s : Site) (regs : WRegs) : Bool :=
  s.p.sparse.isSome && (List.range 128).any fun r => (nget regs r CellW.zero).equal

/-- A word whose every part is free (undefined case of 07), its residue right. -/
def freeZ (W k : Nat) : ZWord :=
  ZWord.ofInt W (Config.freeWord k).toNat (BitVec.ofNat 2 (Config.freeNat k)) (bit (Config.freeNat k) 2)

/-- R71, R93: the partial that column `c` forms for a row. -/
def Eng.formPartial (e : Eng) (pod c : Nat) (row : ARow) (regs : WRegs) : PartialW × Eng :=
  let blank : PartialW := ⟨row.att, c, c, row.idx, ZWord.zero, 0, 0, 0, false⟩
  match (e.pod pod).lpos, e.ctx? row.ctx with
  | some pos, some x =>
    match e.ctxCmd x with
    | none => (blank, e)
    | some (m, p, k) =>
      let ks := (kSteps k p x.shape x.path).getD row.kstep ⟨0, 0, 0⟩
      let s : Site := ⟨pos, x, m, p, k, ks⟩
      let tc := x.tileCol (pos % 4) c
      let base : PartialW := ⟨row.att, x.commitCol c, tc, row.idx, ZWord.zero, 0, 0, 0, false⟩
      if p.lens.n ≤ x.org.n + tc ∨ p.lens.m ≤ x.org.m + row.idx then (base, e)
      else
        let ps := s.products row regs
        let W := p.W
        if p.fast then
          let xs := ps.map fun o => match o with | some (a, b) => fastProduct (fastFmt p.sheet.acc) a b | none => (0, false)
          let (v, o) := fastTree (fastFmt p.sheet.acc) (Nat.log2 (max 1 xs.length) - 1) (xs.map (·.1))
          ({ base with fv := v, low := o + (xs.filter (·.2)).length }, e)
        else if s.equalCodes regs then
          let (n, e) := e.fresh
          ({ base with z := freeZ W n, low := Config.freeNat n }, e)
        else
          let tu := (takePasses (takeSlices p)).getD ks.pass (1, 1)
          let ex : Int := match k with | .take => -7 * ((tu.1 + tu.2 : Nat) : Int) | _ => 0
          let prods := (ps.filterMap id).map fun o =>
            match mulElem o.1 o.2 with
            | .fin n d => Prd.fin n (d + ex)
            | t => t
          let (z, l) := sumProducts W (m.anchorAt p x.org.b (x.org.m + row.idx) (x.org.n + tc)) prods
          let z := match k with | .take => { z with tag := z.tag ||| s.takeTag row regs } | _ => z
          ({ base with z := z, low := if row.supp.contains tc || x.drained64.contains (tc / 64) then 0 else l }, e)
  | _, _ => (blank, e)

/-- Whether row `row` is the last of its row band (R85, R129). -/
def TileCtx.bandEnd (c : TileCtx) (row tc : Nat) : Bool := (c.partOf row tc).any fun p => p.rowHi == row + 1

/-- The partial of a row, with a step-end token behind the last row of each row band (R85); that behind the last row carries the
column's dropped entries. -/
def Eng.formRow (e : Eng) (pod c : Nat) (row : ARow) (regs : WRegs) : List PartialW × Eng :=
  let (q, e) := e.formPartial pod c row regs
  let ends := row.last || (e.ctx? row.ctx).any fun x => x.bandEnd row.idx q.tc
  let n := if row.last then nget row.dropped q.tc 0 else 0
  (if ends then [q, { q with z := ZWord.zero, fv := 0, low := 0, dropped := n, token := true }] else [q], e)

/-- Rows that every column of their half has formed leave the pod. -/
def Pod.dropRows (d : Pod) : Pod :=
  { d with rows := d.rows.filter fun r =>
      (List.range 128).any fun c => (r.half == 2 || r.half == c / 64) && decide ((d.col c).next ≤ r.seq) }

/-- COLUMN_SWAP (R73, R74): the partials of the rows before the marker are formed from the registers they met; then
active and shadow change places, and the load writes that came behind the marker reach the new shadow. -/
def Eng.columnSwap (pod col : Nat) (e : Eng) : Eng :=
  match (e.pod pod).pendingMarkers col with
  | [] => e
  | mkr :: _ =>
    let before := ((e.pod pod).rowsFor col).filter fun r => decide (r.seq < mkr.seq)
    let (ts, e) := before.foldl (fun acc r =>
      let (l, e) := acc.2.formRow pod col r (acc.2.pod pod |>.col col).active
      (acc.1 ++ l, e)) ([], e)
    e.updPod pod fun d =>
      let x := d.col col
      d.setCol col { x with
        active := x.shadow, shadow := x.late.foldl (fun a w => nput a w.1 w.2) x.active, late := [],
        next := mkr.seq, swapped := mkr.seq + 1, tree := x.tree ++ ts }

/-- Key of a member's column in the combiner of its gang. -/
def combKey (member col : Nat) : Nat := member * 256 + col

/-- A column's partials sent toward the Stage: onto the pod's link, or into the combiner of its gang. -/
def Eng.emit (pod col : Nat) (l : List PartialW) (e : Eng) : Eng :=
  match l with
  | [] => e
  | p :: _ =>
    match e.att? p.att with
    | some a =>
      match a.src with
      | .gang q =>
        let k := combKey (((e.pod pod).lpos.getD 0) % 4) col
        e.updGang q fun g => { g with comb := nput g.comb k (nget g.comb k [] ++ l) }
      | src => e.sendLink src l
    | none => e

/-- PARTIAL_EMIT without a fault (R71): the column emits its next partial, with the token behind a last row. -/
def Eng.partialEmit (pod col : Nat) (e : Eng) : Eng :=
  let d := e.pod pod
  let x := d.col col
  match x.tree with
  | p :: r =>
    let (now, rest) := match r with | t :: r' => if t.token then ([p, t], r') else ([p], r) | [] => ([p], [])
    (e.updPod pod fun d => d.setCol col { d.col col with tree := rest }).emit pod col now
  | [] =>
    match d.rowsFor col with
    | [] => e
    | r :: _ =>
      if r.marker ∧ x.swapped ≤ r.seq then e
      else
        let (l, e) := e.formRow pod col r x.active
        (e.updPod pod fun d => (d.setCol col { d.col col with next := r.seq + 1 }).dropRows).emit pod col l

/-! ### Gangs (R79, R80, R94) -/

/-- The two partials of one level of a combiner added. -/
def combine2 (p : Problem) (a b : PartialW) : PartialW :=
  if p.fast then
    let (v, o) := gangFastAdd (fastFmt p.sheet.acc) a.fv b.fv
    { a with fv := v, low := a.low + b.low + b2n o, dropped := a.dropped + b.dropped }
  else { a with z := zAdd p.W a.z b.z, low := a.low + b.low, dropped := a.dropped + b.dropped }

/-- The members that meet in the combiner for a column of the shape (R78). -/
def combMembers (shape col : Nat) : List Nat :=
  if shape = 2 then [0, 1, 2, 3] else if col / 128 = 0 then [0, 1] else [2, 3]

/-- The partials of one row and column that wait in the combiner, all of one attempt, with the context they belong to. -/
def Eng.combHeads (e : Eng) (q col : Nat) : Option (TileCtx × Problem × List PartialW) :=
  let head := fun m => (nget (e.gang q).comb (combKey m (col % 128)) []).head?
  match head (2 * (col / 128)) with
  | none => none
  | some h =>
    match (e.att? h.att).bind fun a => (e.ctx? a.ctx).bind fun c => (e.ctxCmd c).map fun m => (c, m.2.1) with
    | none => none
    | some (c, p) =>
      let ms := combMembers c.shape col
      let hs := (ms.filterMap head).filter fun x => x.att == h.att
      if hs.length = ms.length then some (c, p, hs) else none

/-- The heads of the combiner's queues for a column removed. -/
def Gang.popHeads (g : Gang) (shape col : Nat) : Gang :=
  (combMembers shape col).foldl (fun g m =>
    let k := combKey m (col % 128)
    { g with comb := nput g.comb k ((nget g.comb k []).drop 1) }) g

/-- GANG_COMBINE without a fault (R79, R94): the member partials of one row and column are added and leave on the gang's
link; tokens of the members become one. -/
def Eng.gangCombine (q col : Nat) (e : Eng) : Eng :=
  match e.combHeads q col with
  | none => e
  | some (c, p, hs) =>
    let out := match hs with
      | [a, b, x, y] => combine2 p (combine2 p a b) (combine2 p x y)
      | [a, b] => combine2 p a b
      | _ => ⟨0, 0, 0, 0, ZWord.zero, 0, 0, 0, true⟩
    (e.updGang q fun g => g.popHeads c.shape col).sendLink (.gang q) [out]

/-- Whether member `m` of a gang cannot read its next row (R80): that of the tile-step in progress, or, when row 0 is due, a row
0 that all four members can read. -/
def Eng.memberStuck (e : Eng) (q m : Nat) : Bool :=
  match e.podAt (4 * q + m) with
  | none => true
  | some n =>
    match ((e.pod n).feeder 0).step with
    | some t => !(e.site n t.ctx t.kstep).any fun s => e.rowFed n t.kstep t.next s
    | none =>
      let ks := e.gangSteps q
      (e.gang q).c0.isSome && !(ks.any fun x => e.gangFed q x.1 x.2 0) &&
        (ks.isEmpty || ks.any fun x => !(e.site n x.1 x.2).any fun s => e.rowFed n x.2 0 s)

/-- GANG_HOLD (R80): a member of a formed gang that cannot read its next row raises the hold. -/
def Eng.gangHold (q m : Nat) (e : Eng) : Eng :=
  if (e.gang q).formed ∧ m < 4 ∧ e.memberStuck q m then
    e.updGang q fun g => { g with holds := if g.holds.contains m then g.holds else m :: g.holds }
  else e

/-- GANG_RESUME (R80): once every member that raised the hold can read its next row, the hold drops and every member resumes. -/
def Eng.gangResume (q : Nat) (e : Eng) : Eng :=
  if (e.gang q).holds.any (e.memberStuck q) then e else e.updGang q fun g => { g with holds := [] }

/-! ### The compacted path (R249 to R254) -/

/-- Values put in ascending order of K position (R252): those of a 2:4 group may be stored in either (R237). -/
def ascending : List (Nat × Nat) → List (Nat × Nat)
  | [] => []
  | v :: r =>
    let l := ascending r
    (l.takeWhile fun x => decide (x.1 < v.1)) ++ v :: l.dropWhile fun x => decide (x.1 < v.1)

/-- The lane of a segment: pairs admitted under R252, with the activations of each token. Records beyond the stream buffer are those
that the step has read from memory (R257). -/
def Eng.buildLane (rd : Nat → Byte) (s : Site) (sp : SparseRec) (tokens : Nat) (g : Segment) (e : Eng) : Lane :=
  let b := fun a => ((e.bufUnit [s.pos] s.ctx.run a).map fun u => u.getD (a % 32) 0).getD (rd a)
  let o := s.ctx.org
  let ws := (walkRow b sp s.p.b (s.p.extent 2) g.row).filter fun w => decide (g.gLo ≤ w.g ∧ w.g < g.gHi)
  let act := fun m k => isActive rd s.p o.b (o.m + m) k
  let ps := (ws.flatMap fun w => ascending w.vals).filter fun v =>
    decide (v.1 < s.p.lens.k) && (List.range tokens).any fun m => act m v.1
  { pairs := ps.map fun v =>
      let w := s.p.b.value v.2 (s.p.scaleB b g.row v.1)
      (w, (List.range tokens).map fun m =>
        if act m v.1 && !elemIsZero w then some (s.p.elemA b o.b (o.m + m) v.1) else none)
    undef := sp.form == 0 && (List.range (8 * (g.gHi - g.gLo))).any fun q =>
      decide (4 * (8 * g.gLo + q) < s.p.lens.k) && form0Equal b sp g.row (8 * g.gLo + q)
    acc := List.replicate tokens (ZWord.zero, 0)
    emitted := 0
    col := some (g.row - o.n)
    dropped := if s.ctx.firstTile then droppedCount s.p.lens.k ws else 0
    done := false }

/-- A lane without a segment: it emits only its token (R251). -/
def Lane.idle : Lane := ⟨[], false, [], 0, none, 0, false⟩

/-- The rows that the segment list leaves out and that the first batch of a tile walks to count their dropped entries (R262). -/
def Site.leftOut (s : Site) (sp : SparseRec) (batch : Nat) : List Nat :=
  if s.ctx.firstTile ∧ sp.form = 1 ∧ batch = 0 then
    ((List.range 128).map (s.ctx.org.n + ·)).filter fun n => decide (n < s.p.lens.n) && !(s.ctx.segs.any fun g => g.row == n)
  else []

/-- Addresses that the gather buffer holds for the tokens of a compacted tile: A elements, scales and bitmaps (R257). -/
def Site.gatherNeeds (s : Site) : List Nat :=
  (List.range s.ctx.inRows).flatMap fun i =>
    let o := s.ctx.org
    let j := s.p.lineM o.b (o.m + i)
    ((List.range s.p.lens.k).flatMap fun k => elemSpan s.p.a.fmt (s.p.addrA o.b (o.m + i) k)) ++
      (if s.p.a.mx then (List.range (cdiv s.p.lens.k 32)).map fun x => s.p.a.scaleAt j (32 * x) else []) ++
      (match s.p.sparse with
       | some sp => if sp.abmBase = 0 then [] else (List.range (cdiv s.p.lens.k 8)).map fun x => sp.abmBase + j * sp.abmStride + x
       | none => [])

/-- Addresses of the records and B scales of a lane batch's segments (R252). -/
def Site.streamAddrs (s : Site) (rd : Nat → Byte) (sp : SparseRec) (segs : List Segment) : List Nat :=
  segs.flatMap fun g => rowNeeds rd s.p sp g.row (32 * g.gLo) (32 * g.gHi) ++
    (if s.p.b.mx then ((List.range (g.gHi - g.gLo)).filter fun x => decide (32 * (g.gLo + x) < s.p.lens.k)).map fun x =>
      s.p.b.scaleAt g.row (32 * (g.gLo + x)) else [])

/-- What is read as a whole with the byte at `a`: its panel of a checked B, or its line (R425). -/
def Site.streamKey (s : Site) (a : Nat) : Bool × Nat :=
  if s.p.b.checkBase != 0 && decide (s.p.b.base ≤ a ∧ a < s.p.b.base + s.p.b.size) then (true, (a - s.p.b.base) / 4096)
  else (false, a / 256)

/-- The panels and lines, in order, for which the stream buffer has room. -/
def fitLines : Nat → List (Bool × Nat) → List (Bool × Nat)
  | _, [] => []
  | room, k :: r => let n := if k.1 then 16 else 1; if n ≤ room then k :: fitLines (room - n) r else []

/-- Addresses of a lane batch's records, those that the stream buffer of 1,024 lines holds and the excess (R257). -/
def Site.streamNeeds (s : Site) (rd : Nat → Byte) (sp : SparseRec) (segs : List Segment) : List Nat × List Nat :=
  let as := s.streamAddrs rd sp segs
  let ks := fitLines 1024 ((as.map s.streamKey).eraseDups)
  as.partition fun a => ks.contains (s.streamKey a)

/-- What a lane batch reads from memory beside the stream buffer, verified (R167, R257, R262, R425): the excess of its records, and the
rows that only its walk for dropped entries reaches (read at the issue of the batch: DESIGN CHOICE, log entry 155). The status of a
read that fails for good, with the panel at fault. -/
def Eng.streamExcess (rd : Nat → Byte) (s : Site) (as : List Nat) (bad : List BadUnit) (e : Eng) : Option (Nat × Option Nat) × Eng :=
  if as = [] then (none, e)
  else
    let us := ((as.map (· / 32)).eraseDups).map fun u => (32 * u, 32)
    let qs := ((as.map s.streamKey).eraseDups.filter (·.1)).map (·.2)
    let (ok, e) := e.readAll bad (some s.ctx.ch) (us ++ s.p.b.panelReads qs)
    let (n, fail) := checkPanels rd (fun _ => false) s.p.b.base s.p.b.checkBase qs
    let e := e.bump 42 n
    if !ok then (some (0x21, none), e) else (fail.map fun q => (0x20, some (s.p.b.base + 4096 * q)), e)

/-- t_l of R253. -/
def laneCycles (l : Lane) (g : Segment) : Nat := max (cdiv l.pairs.length 4) (cdiv (g.gHi - g.gLo) 8)

/-- A lane batch issued to a pod, whose reads have succeeded. -/
def Eng.issueBatch (rd : Nat → Byte) (pod batch : Nat) (s : Site) (sp : SparseRec) (segs : List Segment) (e : Eng) : Eng :=
  let c := s.ctx
  let tokens := c.inRows
  let (att, e) := e.openAttempt c 0 batch (.pod pod) tokens 128
  let ls := segs.map fun g => e.buildLane rd s sp tokens g
  let ls := ls ++ List.replicate (128 - ls.length) Lane.idle
  let more := lsum ((s.leftOut sp batch).map fun n => droppedCount s.p.lens.k (walkRow rd sp s.p.b (s.p.extent 2) n))
  let ls := lset ls 0 fun l => { l with dropped := l.dropped + more }
  let t := ((ls.zip segs).map fun x => laneCycles x.1 x.2).foldl max 0
  let e := e.updPod pod fun d => { d with batches := d.batches ++ [⟨att, c.id, batch, tokens, ls⟩] }
  let e := if batch + 1 = c.steps then e.updCtx c.id fun c => { c with expect := some c.steps } else e
  e.bumpSet s.cmd.reelSet 6 (12 + t)

/-- LANE_BATCH_ISSUE (R251, R253): the splicer issues lane batch `batch`, in ascending order, once the lanes of the batch before
have taken their pairs and the stream and gather buffers hold what it needs. -/
def Eng.laneBatchIssue (rd : Nat → Byte) (pod ctx batch : Nat) (bad : List BadUnit) (e : Eng) : Eng :=
  match (e.pod pod).lpos, e.ctx? ctx with
  | some pos, some c =>
    match e.ctxCmd c with
    | some (m, p, k) =>
      match p.sparse with
      | some sp =>
        let s : Site := ⟨pos, c, m, p, k, ⟨0, 0, p.lens.k⟩⟩
        let d := e.pod pod
        let segs := (c.segs.drop (128 * batch)).take 128
        let (here, more) := s.streamNeeds rd sp segs
        let left := (s.leftOut sp batch).flatMap fun n => form1Needs rd p sp n (cdiv (p.extent 2) 32) (rowOffset rd sp n).1
        let ready := e.bufHas [pos] c.run here && e.bufHas [pos] c.run s.gatherNeeds
        let prevDone : Bool := match d.batches with
          | [] => true
          | [x] => x.lanes.all fun l => l.pairs.isEmpty
          | _ => false
        if e.serves pod ∧ c.usesPos pos ∧ c.path = .compacted ∧ ¬ c.sweeping ∧ c.needReplay = none
            ∧ e.place.runs.any (·.id == c.run) ∧ e.mayStream c 0 batch true p.d.isSome ∧ e.hasProgram pod s ∧ ready ∧ prevDone
            ∧ ¬ e.linkHeld (.pod pod) then
          match e.streamExcess rd s (more ++ left) bad with
          | (none, e) => e.issueBatch rd pod batch s sp segs
          | (some (st, q), e) =>
            let e := e.endCmd c.ch c.seq st 0
            match q with
            | some a => e.panelFault a c.ch
            | none => e
        else e
      | none => e
    | none => e
  | _, _ => e

/-- The products of up to four pairs added into a lane's accumulators (R252). -/
def Lane.take4 (W : Nat) (anchor : Nat → Int) (supp : Nat → Bool) (l : Lane) : Lane :=
  let now := l.pairs.take 4
  { l with
    pairs := l.pairs.drop 4
    acc := l.acc.zipIdx.map fun a =>
      let ps := now.filterMap fun x => ((x.2.getD a.2 none).map fun y => mulElem y x.1)
      let (z, n) := sumProducts W (anchor a.2) ps
      (zAdd W a.1.1 z, a.1.2 + (if supp a.2 then 0 else n)) }

/-- A lane of a batch changed. -/
def Pod.setLane (d : Pod) (att lane : Nat) (f : Lane → Lane) : Pod :=
  let bs := mapIf (fun b => b.att == att) (fun b => { b with lanes := lset b.lanes lane f }) d.batches
  { d with batches := bs.filter fun b => !(b.lanes.all (·.done)) }

/-- LANE_PAIR_STEP without a fault (R252 to R254): the lane takes up to four pairs; with none left it emits the partial of
its next token, and then its step-end token. -/
def Eng.lanePairStep (rd : Nat → Byte) (pod lane : Nat) (e : Eng) : Eng :=
  match (e.pod pod).batches.find? fun b => (b.lanes[lane]?).any fun l => !l.done with
  | none => e
  | some b =>
    let l := b.lanes.getD lane Lane.idle
    match e.ctx? b.ctx with
    | none => e.updPod pod fun d => d.setLane b.att lane fun l => { l with done := true, pairs := [] }
    | some c =>
      match e.ctxCmd c with
      | none => e.updPod pod fun d => d.setLane b.att lane fun l => { l with done := true, pairs := [] }
      | some (m, p, _) =>
        let n := c.org.n + l.col.getD 0
        if l.pairs ≠ [] then
          if e.slotOpen then
            let e := e.updPod pod fun d => d.setLane b.att lane
              (Lane.take4 p.W (fun t => m.anchorAt p c.org.b (c.org.m + t) n)
                (fun t => isSuppressed rd p c.org.b (c.org.m + t) n))
            e.addProducts m.reelSet (min 4 l.pairs.length * b.tokens)
          else e
        else if l.col.isSome ∧ l.emitted < b.tokens then
          let a := l.acc.getD l.emitted (ZWord.zero, 0)
          let (q, e) : PartialW × Eng :=
            if l.undef then
              let (i, e) := e.fresh
              (⟨b.att, lane, l.col.getD 0, l.emitted, freeZ p.W i, 0, Config.freeNat i, 0, false⟩, e)
            else (⟨b.att, lane, l.col.getD 0, l.emitted, a.1, 0, a.2, 0, false⟩, e)
          (e.updPod pod fun d => d.setLane b.att lane fun l => { l with emitted := l.emitted + 1 }).sendLink (.pod pod) [q]
        else
          (e.updPod pod fun d => d.setLane b.att lane fun l => { l with done := true }).sendLink (.pod pod)
            [⟨b.att, lane, l.col.getD 0, 0, ZWord.zero, 0, 0, l.dropped, true⟩]

end Sys2Proof.Machine
end

