-- ==== Sys2Proof/Machine/Loader.lean ====
section
/-!
DEFINITION. The loader: the records read once at command start (R159, R243, R303), the translation of a legacy call sheet
(R342 to R344), the checks with their detail codes (R198, R273, R274, R305, R343), and the pre-passes that fix anchors
and take exponents (R28 to R35, R108, R545).
-/

namespace Sys2Proof.Machine

/-! ### Reading the records -/

/-- The operand descriptor at an address. -/
def rdOpd (rd : Nat → Byte) (a : Nat) : Opd := Opd.ofNat (rdRec rd a 64)

/-- `n` FP32 values from address `a`. -/
def rdWords (rd : Nat → Byte) (a bytes n : Nat) : List Nat := (List.range n).map fun i => rdNat rd (a + bytes * i) bytes

/-- Bytes of a bias element by BIAS_FMT. -/
def biasBytes (f : Nat) : Nat := if f = 2 then 4 else 2

/-- The scale and bias vectors of a drain record for `n` columns. -/
def Problem.withVectors (rd : Nat → Byte) (p : Problem) : Problem :=
  { p with
    scaleVec := if p.drain.scaleMode = 3 then rdWords rd p.drain.scaleVec 4 p.lens.n else []
    biasVec := if p.drain.biasMode = 2 then rdWords rd p.drain.biasVec (biasBytes p.drain.biasFmt) p.lens.n else [] }

/-- The extents of R173 as lengths. -/
def Problem.extents (p : Problem) : Lens := ⟨p.extent 0, p.extent 1, p.extent 2, p.extent 3⟩

/-- R159: the records of the call sheet at `a`, without the vectors. -/
def readProblem (rd : Nat → Byte) (a : Nat) : Problem :=
  let s := CallSheet.ofNat (rdRec rd a 128)
  let p : Problem :=
    { sheet := s, a := rdOpd rd s.opdA, b := rdOpd rd s.opdB, c := rdOpd rd s.opdC
      d := if s.opdD = 0 then none else some (rdOpd rd s.opdD)
      loops := (List.range 6).map fun l => Loop.ofNat (rdRec rd (s.loop + 64 * l) 64)
      progs := (List.range 32).map fun i => Prog.ofNat (rdRec rd (s.prog + 16 * i) 16)
      lens := ⟨0, 0, 0, 0⟩
      drain := if s.drain = 0 then DrainRec.ofNat 0 else DrainRec.ofNat (rdRec rd s.drain 128)
      sparse := if s.sparse = 0 then none else some (SparseRec.ofNat (rdRec rd s.sparse 128))
      scaleVec := [], biasVec := [] }
  { p with lens := if s.len = 0 then p.extents else Lens.ofNat (rdRec rd s.len 32) }

/-! ### Legacy call sheets (R341 to R344) -/

/-- ⌈n · e⌉ bytes of `n` elements of a format. -/
def lineBytes (fmt n : Nat) : Nat := cdiv (n * fmtBits fmt) 8

/-- The formats and pair that a generation accepts (R341, R62). -/
def pairOk (fa fb : Nat) : Bool :=
  decide ((fa ≤ 2 ∧ fb ≤ 2) ∨ (fa = 3 ∧ fb = 3) ∨ ((fa = 4 ∨ fa = 5) ∧ (fb = 4 ∨ fb = 5)))

/-- R341: whether a legacy sheet stays within its generation's features. -/
def Legacy.featuresOk (l : Legacy) (gen : Nat) : Bool :=
  let ab := if gen = 2 then [1, 2, 3, 4, 5] else [0, 1, 2, 3, 4, 5]
  let c := if gen = 2 then [3, 4, 5, 6] else [0, 1, 2, 3, 4, 5, 6]
  ab.contains l.fmtA && ab.contains l.fmtB && c.contains l.fmtC && pairOk l.fmtA l.fmtB &&
    (!l.mx || (gen == 3 && decide (l.fmtA ≤ 3 ∧ l.fmtB ≤ 3)))

/-- R343: the first translation check that fails. -/
def Legacy.check (l : Legacy) (gen : Nat) : Option Nat :=
  if l.version ≠ gen then some 0xA0
  else if !l.featuresOk gen then some 0xA1
  else if l.acc = 3 then some 0xA2
  else if l.m = 0 ∨ l.n = 0 ∨ l.k = 0 then some 0xA3
  else none

/-- A loop level with every count 1 and every stride 0. ORDER of the levels for which R344 names none is M, N, K, batch (DESIGN CHOICE,
log entry 161). -/
def Loop.unit : Loop where
  cntM := 1
  cntN := 1
  cntK := 1
  cntB := 1
  order := [0, 1, 2, 3]
  saM := 0
  saK := 0
  saB := 0
  sbK := 0
  sbN := 0
  scM := 0
  scN := 0
  scB := 0

/-- A row-major descriptor of R344. -/
def legacyOpd (base size fmt : Nat) (mx : Bool) (ostride sb ss : Nat) : Opd :=
  ⟨base, size, fmt, mx, false, ostride, 0, 0, sb, ss, 0, 0⟩

/-- R344: the call sheet that the translator builds. The record addresses, which have no meaning here, hold 64. A count or SIZE that
its field would not hold is kept whole (DESIGN CHOICE, log entry 162). -/
def Legacy.translate (l : Legacy) (anchor : Int) (tag : Nat) : Problem :=
  let acc := if l.acc = 0 then 0 else l.acc + 1
  let k0 := 128 * cellP (pairClass .gemm l.fmtA l.fmtB) (decide (l.acc ≠ 0))
  { sheet :=
      { version := 4, acc := acc, asrc := 0, rmode := l.rmode, anchor := anchor, shape := 0, slices := 0, buckets := 0x3F
        row0 := 0, col0 := 0, step := 0, problemId := tag, opdA := 64, opdB := 64, opdC := 64, opdD := 0, loop := 64
        prog := 64, len := 64, drain := if l.bias ∨ l.relu then 64 else 0, sparse := 0 }
    a := legacyOpd l.aBase ((l.m - 1) * l.lda + lineBytes l.fmtA l.k) l.fmtA l.mx l.lda l.saBase l.saStride
    b := legacyOpd l.bBase ((l.k - 1) * l.ldb + lineBytes l.fmtB l.n) l.fmtB l.mx l.ldb l.sbBase l.sbStride
    c := legacyOpd l.cBase ((l.m - 1) * l.ldc + lineBytes l.fmtC l.n) l.fmtC false l.ldc 0 0
    d := none
    loops :=
      [{ Loop.unit with cntM := 1024, cntN := 128, cntK := k0 },
       { Loop.unit with cntK := cdiv l.k k0, order := [2, 0, 1, 3], saK := lineBytes l.fmtA k0, sbK := k0 * l.ldb },
       { Loop.unit with cntN := cdiv l.n 128, sbN := lineBytes l.fmtB 128, scN := lineBytes l.fmtC 128 },
       { Loop.unit with cntM := cdiv l.m 1024, saM := 1024 * l.lda, scM := 1024 * l.ldc },
       Loop.unit, Loop.unit]
    progs := (List.range 32).map fun i => if i < 6 then ⟨builtinBase, 1, true⟩ else ⟨0, 0, false⟩
    lens := ⟨l.m, l.n, l.k, 1⟩
    drain := { DrainRec.ofNat 0 with
      version := 4, biasMode := if l.bias then 2 else 0, biasFmt := if l.bias then 2 else 0, biasVec := l.biasBase
      act := if l.relu then 1 else 0 }
    sparse := none, scaleVec := [], biasVec := [] }

/-! ### Checks of the call sheet (R198) -/

/-- The first detail code whose condition holds. -/
def firstFail (l : List (Nat × Bool)) : Option Nat := (l.find? (·.2)).map (·.1)

/-- Descriptors of A, B, C and D. -/
def Problem.opds (p : Problem) : List Opd := [p.a, p.b, p.c] ++ p.d.toList

/-- Whether a format is a Zohus format. -/
def isZohus (fmt : Nat) : Bool := fmt == 9 || fmt == 10

/-- Whether a command is a structured 2:4 command (R64). -/
def Problem.structured (p : Problem) : Bool := p.sparse.any fun s => s.form == 0 && s.pathMask.testBit 1

/-- The Zohus format of an exact accumulator code. -/
def accFmt (acc : Nat) : Nat := if acc = 1 then 10 else 9

/-- Checks 0x01 and 0x02. -/
def Problem.checkHead (p : Problem) (k : GemmKind) (a : Nat) : List (Nat × Bool) :=
  let s := p.sheet
  [(0x01, s.version != 4),
   (0x02, a % 128 != 0
      || [s.opdA, s.opdB, s.opdC, s.opdD, s.loop, s.prog, s.drain, s.sparse].any (· % 64 != 0) || s.len % 32 != 0
      || [s.opdA, s.opdB, s.opdC, s.loop, s.prog].any (· == 0)
      || (decide (k = .sparse) && s.sparse == 0) || (decide (k ≠ .sparse) && s.sparse != 0))]

/-- Checks 0x03 to 0x06. A microscaled operand of a TAKE_GEMM has detail 0x05 (DESIGN CHOICE, log entry 157). -/
def Problem.checkFormats (p : Problem) (k : GemmKind) : List (Nat × Bool) :=
  let s := p.sheet
  let take := decide (k = .take)
  [(0x03, p.opds.any (fun o => decide (o.fmt ≥ 0xB) || o.fmt == 8) || isZohus p.a.fmt || isZohus p.b.fmt),
   (0x04, if take then !((p.a.fmt == 6 || p.a.fmt == 7) && (p.b.fmt == 6 || p.b.fmt == 7)) else !pairOk p.a.fmt p.b.fmt),
   (0x05, p.c.mx || p.d.any (·.mx) || [p.a, p.b].any fun o => o.mx && (take || decide (o.fmt > 3))),
   (0x06, decide (s.acc ≥ 4) || (p.fast && p.cls k == 2 && !take)
      || (p.structured && decide (k = .sparse) && (p.fast || p.cls k == 3))
      || (p.fast && (decide (k ≠ .gemm) || isZohus p.c.fmt)) || (take && s.acc != 1))]

/-- Checks 0x07 to 0x0C. -/
def Problem.checkMode (p : Problem) (k : GemmKind) : List (Nat × Bool) :=
  let s := p.sheet
  let take := decide (k = .take)
  let mx := p.a.mx || p.b.mx
  let anchor := p.uniformAnchor k
  [(0x07, !take && !p.fast && decide (
      (s.asrc = 1 ∧ (fmtH p.a.fmt = none ∨ fmtH p.b.fmt = none ∨ mx = true)) ∨ (s.asrc = 2 ∧ mx = false) ∨
      (s.asrc = 3 ∧ mx = true))),
   (0x08, decide (s.rmode ≥ 5)),
   (0x09, decide (s.shape ≥ 5)),
   (0x0A, if take then decide (s.slices = 1 ∨ s.slices ≥ 11) else s.slices != 0),
   (0x0B, isZohus p.c.fmt && (p.fast || take || p.c.fmt != accFmt s.acc || decide (s.asrc ≥ 2) || p.c.zanchor != anchor)),
   (0x0C, p.d.any fun d => p.fast || d.fmt != accFmt s.acc || (!take && decide (s.asrc ≥ 2)) || d.zanchor != anchor)]

/-- The buckets that BUCKETS names. -/
def bucketList (b : Nat) : List Nat := (List.range 6).filter b.testBit

/-- Whether P of R178 fits T of a shape (R83, R84). -/
def Problem.tilesFit (p : Problem) (shape : Nat) : Bool :=
  let t := tilesT shape p.sheet.acc p.mb
  let n := p.tilesP shape
  t != 0 && decide ((if shape = 1 then cdiv n 2 else n) ≤ t)

/-- Whether a list of four codes is a permutation of the dimension codes. -/
def isPerm4 (o : List Nat) : Bool := [0, 1, 2, 3].all fun d => o.contains d

/-- Checks 0x0D to 0x13. -/
def Problem.checkLoops (p : Problem) (k : GemmKind) : List (Nat × Bool) :=
  let s := p.sheet
  let l0 := p.lvl 0
  [(0x0D, bucketList s.buckets == [] || l0.cntM % max 1 p.mb != 0),
   (0x0E, (bucketList s.buckets).any fun i =>
      let g := p.progs.getD (6 * s.shape + i) ⟨0, 0, false⟩
      !g.valid || g.pbase % 256 != 0 || decide (g.plen = 0 ∨ g.plen > 1024)),
   (0x0F, p.loops.any (fun l => [l.cntM, l.cntN, l.cntK, l.cntB].any (· == 0) || !isPerm4 l.order)
      || l0.cntB != 1 || l0.cntK % 128 != 0 || l0.cntN % shapeN s.shape != 0),
   (0x10, !p.tilesFit s.shape),
   (0x11, [0, 1, 2, 3].any (fun d => decide (p.extent d > 2 ^ 32 - 1))
      || decide (s.row0 + p.extent 3 * p.extent 0 > 2 ^ 32) || decide (s.col0 + p.extent 1 > 2 ^ 32)),
   (0x12, decide (p.lens.m > p.extent 0 ∨ p.lens.n > p.extent 1 ∨ p.lens.k > p.extent 2 ∨ p.lens.b > p.extent 3)),
   (0x13, decide (p.lens.k * passCount k p > 2 ^ 32))]

/-- Check 0x14. -/
def Problem.checkAlign (p : Problem) : Bool :=
  p.opds.any (fun o => o.base % 32 != 0 || o.ostride % 32 != 0 || (isZohus o.fmt && o.sideBase % 32 != 0)
      || (o.checkBase != 0 && (o.base % 4096 != 0 || o.size % 4096 != 0 || o.checkBase % 4 != 0)))
    || (p.loops.drop 1).any fun l => [l.saM, l.saK, l.saB, l.sbK, l.sbN, l.scM, l.scN, l.scB].any (· % 32 != 0)

/-- The greatest of a list of numbers. -/
def maxNat (l : List Nat) : Nat := l.foldl max 0

/-- What a coordinate below `len` adds at most to an element's offset: levels 1 to 5 and its place in the tile. -/
def Problem.reach (p : Problem) (x : Which) (o : Opd) (inner : Bool) (d len : Nat) : Nat :=
  maxNat ((List.range len).map fun v =>
    let q := v % (p.lvl 0).cnt d
    p.levelOff x d v + (if inner then byteOf o.fmt q else q * o.ostride))

/-- Bytes of the last unit of an element. -/
def elemBytes (fmt : Nat) : Nat := max 1 (fmtBits fmt / 8)

/-- Check 0x15: an in-range element outside its descriptor. R175 adds a separate term for each coordinate, so the
greatest offset is the sum of the greatest terms. Under FORM 0, both stored values of a 2:4 group that K_ACT cuts count as in range,
since the loader reads no codes (DESIGN CHOICE, log entry 134). -/
def Problem.checkBounds (p : Problem) : Bool :=
  let n := p.lens
  let out := fun (o : Opd) (off : Nat) => decide (off + elemBytes o.fmt > o.size)
  let some3 := decide (0 < n.m ∧ 0 < n.b)
  (some3 && decide (0 < n.k) && out p.a (p.reach .a p.a (p.a.inner) 0 n.m + p.reach .a p.a (!p.a.inner) 2 n.k
      + maxNat ((List.range n.b).map (p.levelOff .a 3)))) ||
    (decide (0 < n.k ∧ 0 < n.n) && (match p.sparse with
      | none => out p.b (p.reach .b p.b p.b.inner 2 n.k + p.reach .b p.b (!p.b.inner) 1 n.n)
      | some s => s.form == 0 && out p.b ((n.n - 1) * p.b.ostride + byteOf p.b.fmt (2 * cdiv n.k 4 - 1)))) ||
    (some3 && decide (0 < n.n) && out p.c (p.reach .c p.c p.c.inner 0 n.m + p.reach .c p.c (!p.c.inner) 1 n.n
      + maxNat ((List.range n.b).map (p.levelOff .c 3)))) ||
    p.d.any fun d => some3 && decide (0 < n.n) &&
      out d (if d.inner then (n.n - 1) * d.ostride + byteOf d.fmt (p.lineM (n.b - 1) (n.m - 1))
        else p.lineM (n.b - 1) (n.m - 1) * d.ostride + byteOf d.fmt (n.n - 1))

/-! ### The Stage footprint (R155, R156, R258) -/

/-- r_A of R155 with the scale bytes of a microscaled A. -/
def Problem.rA (p : Problem) (k : GemmKind) : Nat :=
  let path := if p.structured ∧ k = .sparse then TilePath.structured else .dense
  let n := 128 * pathP (p.cls k) p.fast path
  n * fieldBits (p.cls k) / 8 + (if p.a.mx then n / 32 else 0)

/-- G_c of R258. -/
def Problem.gatherBytes (p : Problem) (k : GemmKind) : Nat :=
  match p.sparse with
  | some s =>
    if k = .sparse ∧ s.pathMask.testBit 2 then
      let K := p.extent 2
      262144 + 16 * (lineBytes p.a.fmt K + (if p.a.mx then cdiv K 32 else 0) + cdiv K 8)
    else 0
  | none => 0

/-- F_min of R155 and R258. -/
def Problem.footprint (p : Problem) (k : GemmKind) : Nat := 2 * p.mb * p.rA k + 294912 + p.gatherBytes k

/-- Whether a shape finds a slice, or a quad, with the operand region that R156 asks. -/
def Eng.shapeFits (e : Eng) (f shape : Nat) : Bool :=
  let ok := fun n => e.served n && decide (f ≤ e.stage.operandBytes n)
  if shape ≤ 1 then (List.range 32).any ok
  else (List.range 8).any fun q => (List.range 4).all fun m => ok (4 * q + m)

/-! ### Checks of the sparse record (R273) and the drain record (R305) -/

/-- Checks 0x40 to 0x4A. 0x49 takes the codes of both values of a 2:4 group that K_ACT cuts as in range, as 0x15 does (DESIGN
CHOICE, log entry 134). -/
def Problem.checkSparse (p : Problem) (k : GemmKind) : List (Nat × Bool) :=
  match p.sparse with
  | none => []
  | some s =>
    let str := s.form == 0 && s.pathMask.testBit 1
    let den := s.pathMask.testBit 0
    let cmp := s.pathMask.testBit 2
    let n := p.lens
    [(0x40, s.version != 4),
     (0x41, !(str || den || cmp) || (!str && !den && cmp && decide (n.m > 8))),
     (0x42, p.cls k == 3),
     (0x43, p.sheet.shape != 0),
     (0x44, !p.b.inner || (p.loops.drop 1).any fun l => l.sbK != 0 || l.sbN != 0),
     (0x45, s.segMax != 0 && (s.segMax % 32 != 0 || decide (s.segMax < 32 ∨ s.segMax > 32768))),
     (0x46, decide (s.auditA > 16) || (s.auditA != 0 && s.pbmBase == 0)),
     (0x47, (if s.form = 0 then s.metaBase % 32 != 0 || s.metaStride % 32 != 0 else s.metaBase % 8 != 0)
        || s.hdrBase % 16 != 0 || s.rgtBase % 256 != 0
        || [s.abmBase, s.abmStride, s.pbmBase, s.pbmStride].any (· % 32 != 0) || s.mispBase % 4 != 0),
     (0x48, (s.abmBase != 0 && decide (s.abmStride < cdiv (p.extent 2) 8))
        || (s.pbmBase != 0 && decide (s.pbmStride < cdiv (p.extent 1) 8))),
     (0x49, if s.form = 0 then
          decide (0 < n.n ∧ 0 < n.k ∧ (n.n - 1) * s.metaStride + (2 * cdiv n.k 4 - 1) / 4 + 1 > s.metaSize)
        else decide (0 < n.n ∧ 8 * n.n > s.metaSize)),
     (0x4A, s.balance && s.rgtBase == 0)]

/-- The chain record at an address (R297). -/
def rdChain (rd : Nat → Byte) (a : Nat) : ChainRec where
  version := rdNat rd a 1
  nstages := fld (rdRec rd a 64) 8 4
  vmask := fld (rdRec rd a 64) 12 4
  bases := (List.range 4).map fun i => rdNat rd (a + 8 + 8 * i) 8
  stages := (List.range (fld (rdRec rd a 64) 8 4)).map fun j => ChainStage.ofNat (rdRec rd (a + 64 + 16 * j) 16)

/-- Whether a stage breaks check 0x67; SRC1 and SRC2 select a source in every stage (R298). -/
def ChainStage.bad (s : ChainStage) (vmask : Nat) : Bool :=
  [s.src1, s.src2].any (fun x => decide (x ≥ 4) && !vmask.testBit (x - 4)) ||
    (s.op == 11 && decide (s.arg > 7)) || (s.op == 15 && decide (s.arg > 5))

/-- Whether a chain record breaks check 0x67. -/
def ChainRec.bad (c : ChainRec) : Bool :=
  c.version != 4 || decide (c.nstages = 0 ∨ c.nstages > 8) || c.stages.any (·.bad c.vmask) ||
    (List.range 4).any fun i => c.vmask.testBit i && c.bases.getD i 0 % 32 != 0

/-- An address that check 0x64 refuses. -/
def badAddr (a : Nat) : Bool := a == 0 || a % 32 != 0

/-- Checks 0x60 to 0x68; `chainOk` tells whether the channel has its chain-enable bit. A stride of zero is no address that is
missing: it passes 0x64 and fails 0x65 (DEDUCED, log entry 133). -/
def Problem.checkDrain (p : Problem) (rd : Nat → Byte) (chainOk : Bool) : List (Nat × Bool) :=
  let d := p.drain
  let n := p.extent 1
  let c := if d.chainEn then rdChain rd d.chain else ⟨4, 1, 0, [], []⟩
  [(0x60, p.sheet.drain != 0 && d.version != 4),
   (0x61, d.biasMode == 3 || d.biasFmt == 3 || ([3, 4, 5, 6, 7].contains d.act) || d.oscale == 3 || d.dest == 3
      || decide (d.act > 15)),
   (0x62, isZohus p.c.fmt && (d.scaleMode != 0 || d.biasMode != 0 || d.biasFmt != 0 || d.act != 0 || d.oscale != 0
      || d.dest != 0 || d.thrOp != 0 || d.chainEn)),
   (0x63, (d.oscale == 1 && decide (p.c.fmt > 3)) || (d.oscale == 2 && p.c.fmt != 3) || (d.oscale != 0 && p.c.inner)),
   (0x64, (d.scaleMode == 3 && badAddr d.scaleVec) || (d.biasMode == 2 && badAddr d.biasVec)
      || (d.oscale != 0 && (badAddr d.oscaleBase || d.oscaleStride % 32 != 0))
      || (d.thrOp != 0 && (badAddr d.thrBase || d.thrStride % 32 != 0))
      || (d.chainEn && (d.chain == 0 || d.chain % 64 != 0))),
   (0x65, (d.oscale == 1 && decide (d.oscaleStride < cdiv n 32)) || (d.oscale == 2 && decide (d.oscaleStride < cdiv n 64))
      || (d.thrOp != 0 && decide (d.thrStride < cdiv n 8))),
   (0x66, d.chainEn && !chainOk),
   (0x67, d.chainEn && c.bad),
   (0x68, (decide (d.chainEn = true ∧ c.vmask ≠ 0) || d.scaleMode == 3 || d.biasMode == 2) && decide (p.lens.n > 8192))]

/-- R198: the first check that fails of a command with the sheet at `a`; checks of 0x15 on are made only on a sheet that
passed the earlier ones. -/
def Eng.loaderCheck (e : Eng) (rd : Nat → Byte) (k : GemmKind) (p : Problem) (a : Nat) (chainOk : Bool) : Option Nat :=
  match firstFail (p.checkHead k a ++ p.checkFormats k ++ p.checkMode k) with
  | some d => some d
  | none =>
    match firstFail (p.checkLoops k) with
    | some d => some d
    | none =>
      if p.checkAlign then some 0x14
      else if p.checkBounds then some 0x15
      else if !e.shapeFits (p.footprint k) p.sheet.shape then some 0x16
      else
        match firstFail (p.checkSparse k) with
        | some d => some d
        | none => firstFail (p.checkDrain rd chainOk)

/-! ### Pre-passes -/

/-- The in-range rows of a command as (batch, row). -/
def Problem.rowsIn (p : Problem) : List (Nat × Nat) :=
  (List.range p.lens.b).flatMap fun b => (List.range p.lens.m).map fun m => (b, m)

/-- The anchor of each block from its rows and columns (R29): the blocks that hold an in-range element. -/
def Problem.perBlock (p : Problem) (f : List (Nat × Nat) → List Nat → Int) : NMap Int :=
  let rows := p.rowsIn
  let cols := List.range p.lens.n
  let rks := (rows.map fun r => p.grow r.1 r.2 / 32).eraseDups
  let cks := (cols.map fun n => p.gcol n / 64).eraseDups
  rks.foldl (fun acc rk => cks.foldl (fun acc ck =>
    nput acc (rk * 2 ^ 32 + ck)
      (f (rows.filter fun r => p.grow r.1 r.2 / 32 == rk) (cols.filter fun n => p.gcol n / 64 == ck))) acc) []

/-- The unbiased scale exponents of one operand for a K block over its lines: 0 without a scale tensor (R32). -/
def scaleMax (rd : Nat → Byte) (o : Opd) (lines : List Nat) (kb : Nat) : Option Int :=
  if o.mx then
    maxInt (((lines.map fun j => (rd (o.scaleAt j (32 * kb))).toNat).filter (· ≠ 0xFF)).map fun (c : Nat) => (c : Int) - 127)
  else some 0

/-- R32: the anchor of a block under the block-scale source. -/
def Problem.scaleAnchor (p : Problem) (rd : Nat → Byte) (rows : List (Nat × Nat)) (cols : List Nat) : Int :=
  let s := (List.range (cdiv p.lens.k 32)).filterMap fun kb =>
    match scaleMax rd p.a (rows.map fun r => p.lineM r.1 r.2) kb, scaleMax rd p.b cols kb with
    | some x, some y => some (x + y)
    | _, _ => none
  match maxInt s with
  | some m => m + fmtT p.a.fmt p.a.mx + fmtT p.b.fmt p.b.mx - windowTop p.W
  | none => 0

/-- The elements of B column `n` that enter E_B: every in-range element, or the stored values that the walks keep (R545). -/
def Problem.columnElems (p : Problem) (rd : Nat → Byte) (n : Nat) : List Elem :=
  match p.sparse with
  | none => (List.range p.lens.k).map fun k => p.elemB rd k n
  | some s =>
    ((walkRow rd s p.b (p.extent 2) n).flatMap (·.vals)).filterMap fun v =>
      if v.1 < p.lens.k then some (p.b.value v.2 (p.scaleB rd n v.1)) else none

/-- R33, R545: the anchor of a block under the exponent pre-pass. -/
def Problem.exponentAnchor (p : Problem) (rd : Nat → Byte) (rows : List (Nat × Nat)) (cols : List Nat) : Int :=
  let ea := maxInt ((rows.flatMap fun r =>
    ((List.range p.lens.k).filter fun k => isActive rd p r.1 r.2 k).map fun k => p.elemA rd r.1 r.2 k).filterMap elemLog)
  let eb := maxInt ((cols.flatMap fun n => p.columnElems rd n).filterMap elemLog)
  match ea, eb with
  | some x, some y => x + y + 2 - windowTop p.W
  | _, _ => 0

/-- R30: the anchors of a command that are not the same in every block. -/
def Problem.blockAnchors (p : Problem) (rd : Nat → Byte) (k : GemmKind) : NMap Int :=
  if p.fast ∨ k = .take then []
  else if p.sheet.asrc = 2 then p.perBlock (p.scaleAnchor rd)
  else if p.sheet.asrc = 3 then p.perBlock (p.exponentAnchor rd)
  else []

/-- The elements of an A row. -/
def Problem.rowElems (p : Problem) (rd : Nat → Byte) (r : Nat × Nat) : List Elem :=
  (List.range p.lens.k).map fun k => p.elemA rd r.1 r.2 k

/-- R108: the take exponents of the rows, keyed by line. -/
def Problem.takeRows (p : Problem) (rd : Nat → Byte) : NMap Int :=
  p.rowsIn.foldl (fun m r => nput m (p.lineM r.1 r.2) (takeExp (p.rowElems rd r))) []

/-- R108: the take exponents of the columns. -/
def Problem.takeCols (p : Problem) (rd : Nat → Byte) : NMap Int :=
  (List.range p.lens.n).foldl (fun m n => nput m n (takeExp (p.columnElems rd n))) []

/-- R116: the below-scale elements of both operands. -/
def Problem.takeBelow (p : Problem) (rd : Nat → Byte) : Nat :=
  lsum (p.rowsIn.map fun r => let x := p.rowElems rd r; belowScale (takeSlices p) p.a.fmt (takeExp x) x) +
    lsum ((List.range p.lens.n).map fun n => let x := p.columnElems rd n; belowScale (takeSlices p) p.b.fmt (takeExp x) x)

/-! ### Checks of a compress sheet (R274) -/

/-- The last byte offset of a compress source. -/
def compressSrcEnd (c : CompressSheet) (o : Opd) : Nat :=
  if o.inner then (c.n - 1) * o.ostride + lineBytes o.fmt c.k else (c.k - 1) * o.ostride + lineBytes o.fmt c.n

/-- Address and length of the lines of elements of a compress source. -/
def compressLines (c : CompressSheet) (o : Opd) : List (Nat × Nat) :=
  (List.range (if o.inner then c.n else c.k)).map fun i => (o.base + i * o.ostride, lineBytes o.fmt (if o.inner then c.k else c.n))

/-- The panels of a compress source that hold an element. -/
def compressPanels (c : CompressSheet) (o : Opd) : List Nat :=
  if o.checkBase = 0 then []
  else ((compressLines c o).flatMap fun l =>
    let q := (l.1 - o.base) / 4096
    (List.range ((l.1 - o.base + l.2 - 1) / 4096 + 1 - q)).map (q + ·)).eraseDups

/-- Bytes of a compressed weight row at most (check 0x54). -/
def compressRowMax (c : CompressSheet) (fmt : Nat) : Nat :=
  if c.form = 0 then cdiv (c.k / 2 * fmtBits fmt) 8 else c.k / 32 * recBytes (fmtBits fmt) c.keep

/-- R274: the first check of a COMPRESS that fails. The last destination row reaches up to where a next one would begin, as every
other does (DESIGN CHOICE, log entry 142). -/
def compressCheck (c : CompressSheet) (src dst : Opd) (a : Nat) : Option Nat :=
  firstFail
    [(0x50, c.version != 4 || (c.form == 0 && c.keep != 0) || (c.form == 1 && decide (c.keep = 0 ∨ c.keep > 32))),
     (0x51, a % 128 != 0 || c.src % 64 != 0 || c.dst % 64 != 0
        || (if c.form = 0 then c.metaBase % 32 != 0 else c.metaBase % 8 != 0)
        || c.hdrBase % 16 != 0 || c.rgtBase % 256 != 0),
     (0x52, decide (src.fmt > 3) || dst.fmt != src.fmt || dst.mx != src.mx),
     (0x53, c.k == 0 || c.k % 128 != 0 || c.n == 0 || c.n % 128 != 0),
     (0x54, decide (dst.ostride < compressRowMax c src.fmt) || (c.form == 0 && decide (c.metaStride < c.k / 8))),
     (0x55, decide (compressSrcEnd c src > src.size) || decide (c.n * dst.ostride > dst.size)
        || decide ((if c.form = 0 then (c.n - 1) * c.metaStride + c.k / 8 else 8 * c.n) > c.metaSize))]

end Sys2Proof.Machine
end

