-- ==== Sys2Proof/Machine/Buffers.lean ====
section
/-!
DEFINITION. The operand region as the feeders fill it: the bytes that a tile-step reads (R168, R191, R244), the resident operand
of a run (R217, R218), the credits and the release of lines (R194, R219), and the walk of weight rows for the dense path (R247).
-/

namespace Sys2Proof.Machine

/-! ### Bytes that coordinates name -/

/-- In-range coordinates: batches, rows, columns, K positions. -/
structure Span where
  bs : List Nat
  ms : List Nat
  ns : List Nat
  ks : List Nat
  deriving DecidableEq, Repr

/-- The in-range coordinates of a command (R187). -/
def Problem.wholeSpan (p : Problem) : Span :=
  ⟨List.range p.lens.b, List.range p.lens.m, List.range p.lens.n, List.range p.lens.k⟩

/-- Whether a span of `w` bytes at `base` plus an outer and an inner offset touches the bytes from `lo` up to `hi`. -/
def sumsTouch (base w lo hi : Nat) (outer inner : List Nat) : Bool :=
  outer.any fun x => decide (base + x < hi ∧ lo < base + x + maxNat inner + w) &&
    inner.any fun y => decide (base + x + y < hi ∧ lo < base + x + y + w)

/-- What coordinate `v` of dimension `d` adds to the offset of an element (R175). -/
def Problem.coordOff (p : Problem) (x : Which) (o : Opd) (inner : Bool) (d v : Nat) : Nat :=
  let q := v % (p.lvl 0).cnt d
  p.levelOff x d v + (if inner then byteOf o.fmt q else q * o.ostride)

/-- All sums of two lists of offsets. -/
def sums (l r : List Nat) : List Nat := l.flatMap fun x => r.map (x + ·)

/-- The lines b·M + m of a span. -/
def Problem.spanLines (p : Problem) (s : Span) : List Nat := s.bs.flatMap fun b => s.ms.map fun m => p.lineM b m

/-- The distinct quotients of a list. -/
def blocksOfSize (n : Nat) (l : List Nat) : List Nat := (l.map (· / n)).eraseDups

/-- Whether a stored value, code or record of weight row `n` that a span names touches the bytes from `lo` up to `hi` (R236,
R239, R244); a span that reaches K_ACT reaches every later record, which the walks of R249 do too. -/
def Problem.touchRow (p : Problem) (rd : Nat → Byte) (s : SparseRec) (ks : List Nat) (lo hi n : Nat) : Bool :=
  if s.form = 0 then
    sumsTouch p.b.base (elemBytes p.b.fmt) lo hi [n * p.b.ostride]
      ((blocksOfSize 4 ks).flatMap fun q => [byteOf p.b.fmt (2 * q), byteOf p.b.fmt (2 * q + 1)])
  else
    match ks with
    | [] => false
    | k :: _ =>
      let fin := rowEnd rd s p.b n
      let o := (rowOffset rd s n).1
      let a := walkReach rd p.b fin (k / 32) o
      let z := walkReach rd p.b fin (if p.lens.k ≤ maxNat ks + 1 then cdiv (p.extent 2) 32 else maxNat ks / 32 + 1) o
      decide (p.b.base + a < hi ∧ lo < p.b.base + z)

/-- Whether a tensor's bytes for a span's coordinates touch the bytes from `lo` up to `hi`. -/
def Problem.touch (p : Problem) (rd : Nat → Byte) (t : Tensor) (s : Span) (lo hi : Nat) : Bool :=
  match t, p.sparse with
  | .a, _ =>
    let bo := s.bs.map (p.levelOff .a 3)
    let mo := s.ms.map (p.coordOff .a p.a p.a.inner 0)
    let ko := s.ks.map (p.coordOff .a p.a (!p.a.inner) 2)
    if p.a.inner then sumsTouch p.a.base (elemBytes p.a.fmt) lo hi (sums bo ko) mo
    else sumsTouch p.a.base (elemBytes p.a.fmt) lo hi (sums bo mo) ko
  | .b, none =>
    let ko := s.ks.map (p.coordOff .b p.b p.b.inner 2)
    let no := s.ns.map (p.coordOff .b p.b (!p.b.inner) 1)
    if p.b.inner then sumsTouch p.b.base (elemBytes p.b.fmt) lo hi no ko
    else sumsTouch p.b.base (elemBytes p.b.fmt) lo hi ko no
  | .b, some r => s.ns.any (p.touchRow rd r s.ks lo hi)
  | .scaleA, _ => p.a.mx && sumsTouch p.a.scaleBase 1 lo hi ((p.spanLines s).map (· * p.a.scaleOstride)) (blocksOfSize 32 s.ks)
  | .scaleB, _ => p.b.mx && sumsTouch p.b.scaleBase 1 lo hi (s.ns.map (· * p.b.scaleOstride)) (blocksOfSize 32 s.ks)
  | .metadata, some r =>
    if r.form = 0 then sumsTouch r.metaBase 1 lo hi (s.ns.map (· * r.metaStride)) (blocksOfSize 8 s.ks)
    else sumsTouch r.metaBase 8 lo hi (s.ns.map (8 * ·)) [0]
  | .bitmap, some r =>
    r.abmBase != 0 && sumsTouch r.abmBase 1 lo hi ((p.spanLines s).map (· * r.abmStride)) (blocksOfSize 8 s.ks)
  | _, none => false

/-! ### Lines (R168, R425) -/

/-- The descriptor that a tensor's lines belong to, where it carries panel checks. -/
def Problem.checked (p : Problem) (t : Tensor) : Option Opd :=
  match t with
  | .a => if p.a.checkBase = 0 then none else some p.a
  | .b => if p.b.checkBase = 0 then none else some p.b
  | _ => none

/-- The lines of the panel of descriptor `o` that holds a line. -/
def panelLines (o : Opd) (line : Nat) : List Nat :=
  let q := (256 * line - o.base) / 4096
  (List.range 16).map (o.base / 256 + 16 * q + ·)

/-- The units of a line that a command reads as part of a tensor, as a mask: those that hold a byte of the span, and with panel
checks every unit of a panel that holds one (R168). -/
def Problem.unitMask (p : Problem) (rd : Nat → Byte) (t : Tensor) (s : Span) (line : Nat) : Nat :=
  match p.checked t with
  | some o =>
    let a := (panelLines o line).headD 0 * 256
    if o.base ≤ 256 * line ∧ p.touch rd t s a (a + 4096) then 0xFF else 0
  | none => lsum ((List.range 8).map fun u =>
      if p.touch rd t s (256 * line + 32 * u) (256 * line + 32 * u + 32) then 2 ^ u else 0)

/-- Whether a line holds something that the command reads as part of a tensor. -/
def Problem.mayFill (p : Problem) (rd : Nat → Byte) (t : Tensor) (line : Nat) : Bool :=
  p.unitMask rd t p.wholeSpan line != 0

/-! ### What a position needs -/

/-- The coordinates that a position reads for a K-step, or a lane batch, of a context. -/
def Problem.stepSpan (p : Problem) (k : GemmKind) (c : TileCtx) (pos kstep : Nat) : Span :=
  let ms := ((List.range c.rows).map (c.org.m + ·)).filter (· < p.lens.m)
  let m := pos % 4
  if c.path = .compacted then
    ⟨[c.org.b], ms, (((c.segs.drop (128 * kstep)).take 128).map (·.row)).eraseDups, List.range p.lens.k⟩
  else
    let ks := (kSteps k p c.shape c.path).getD kstep ⟨0, 0, 0⟩
    let P := pathP (p.cls k) p.fast c.path
    ⟨[c.org.b], ms, (c.podCols.map fun x => c.org.n + c.tileCol m x).filter (· < p.lens.n),
      ((List.range (128 * P)).map (ks.k0 + memberK c.shape m (128 * P) + ·)).filter (· < ks.kEnd)⟩

/-- Whether a tile-step of a context has rows to read yet: not streamed, or in a feeder (a take's planes of a K-step are kept
until every pass of it has run, R194). -/
def Eng.stepOpen (e : Eng) (c : TileCtx) (kstep : Nat) : Bool :=
  c.unstreamed kstep || e.pods.any fun d => d.feeders.any fun f => f.step.any fun t => t.ctx == c.id && t.kstep == kstep

/-- Whether a line is still to be read by a tile-step of its run. -/
def Eng.lineNeeded (e : Eng) (rd : Nat → Byte) (b : BufLine) : Bool :=
  e.place.ctxs.any fun c => c.run == b.run && c.usesPos b.pos && !c.sweeping && (e.ctxCmd c).any fun m =>
    (List.range c.steps).any fun s => e.stepOpen c s && m.2.1.unitMask rd b.tensor (m.2.1.stepSpan m.2.2 c b.pos s) b.line != 0

/-- The operand that consecutive items of a run share (R210): A when the innermost counted dimension is N, B when it is M or
batch. -/
def Problem.shared (p : Problem) : Option Which :=
  (p.itemDigits.find? fun d => decide ((p.lvl d.2).cnt d.1 > 1)).map fun d => if d.1 = 1 then .a else .b

/-- Extent of a dimension within one slate item. -/
def Problem.itemExtent (p : Problem) (d : Nat) : Nat :=
  (p.lvl 0).cnt d * lprod ((p.innerDigits.filter fun x => x.1 == d).map fun x => (p.lvl x.2).cnt d)

/-- Bytes of a weight row in its compressed form (R236, R239). -/
def sparseRowBytes (rd : Nat → Byte) (p : Problem) (s : SparseRec) (n : Nat) : Nat :=
  if s.form = 0 then lineBytes p.b.fmt (p.extent 2 / 2) + cdiv (p.extent 2) 8 else 8 + (rowOffset rd s n).2

/-- Bytes of the shared panel of an item that starts at column `n0`, at one position: each member of a gang holds the part of its K or
column range (R217). -/
def Problem.panelBytes (p : Problem) (rd : Nat → Byte) (shape n0 : Nat) : Nat :=
  let K := p.extent 2
  let mx := fun (o : Opd) => if o.mx then cdiv K 32 else 0
  let bitmap := (p.sparse.map fun s => if s.abmBase = 0 then 0 else cdiv K 8).getD 0
  match p.shared with
  | some .a => p.itemExtent 0 * p.itemExtent 3 * (lineBytes p.a.fmt K + mx p.a + bitmap) / shapeK shape
  | some .b =>
    match p.sparse with
    | some s => lsum (((List.range (p.itemExtent 1)).map (n0 + ·)).map fun n =>
        if n < p.lens.n then sparseRowBytes rd p s n + mx p.b else 0)
    | none => p.itemExtent 1 * (lineBytes p.b.fmt K + mx p.b) / shapePods shape
  | _ => 0

/-- Whether a tensor belongs to an operand. -/
def tensorOf (t : Tensor) : Which :=
  match t with
  | .a => .a
  | .scaleA => .a
  | .bitmap => .a
  | _ => .b

/-- The first column of the item that a run works on. -/
def Eng.runCol (e : Eng) (run : Nat) (p : Problem) : Nat :=
  ((e.place.ctxs.find? fun c => c.run == run).map fun c => c.org.n / max 1 (p.itemExtent 1) * p.itemExtent 1).getD 0

/-- R217: whether a line belongs to the resident operand of its run: the shared panel, where it fits beside F_min. -/
def Eng.resident (e : Eng) (rd : Nat → Byte) (b : BufLine) : Bool :=
  match e.place.runs.find? fun r => r.id == b.run with
  | none => false
  | some r => (e.cmd? r.ch r.seq).any fun m => m.prob.any fun p => m.kind.any fun k =>
      p.shared == some (tensorOf b.tensor) && decide (p.panelBytes rd r.shape (e.runCol r.id p) + p.footprint k ≤ e.stage.operandBytes b.pos)

/-- Whether slices are still to be used by a pass of their K-step (R194). -/
def Eng.planeNeeded (e : Eng) (x : SlicePlane) : Bool :=
  e.place.ctxs.any fun c => c.run == x.run && c.usesPos x.pos && !c.sweeping && (e.ctxCmd c).any fun m =>
    (kSteps m.2.2 m.2.1 c.shape c.path).zipIdx.any fun s => decide (s.1.k0 ≤ x.k ∧ x.k < s.1.kEnd) && e.stepOpen c s.2

/-- The fill credits of a position return for the lines that no tile-step of their run reads any more; the resident operand stays
until its run ends (R217, R219). Slices are released with the last pass of their K-step (R194). -/
def Eng.releaseLines (rd : Nat → Byte) (pos : Nat) (e : Eng) : Eng :=
  { e with place := { e.place with
      bufs := e.place.bufs.filter fun b => b.pos != pos || !b.token || e.resident rd b || e.lineNeeded rd b
      planes := e.place.planes.filter fun x => x.pos != pos || e.planeNeeded x } }

/-! ### Asking for lines (R219) -/

/-- A read request for units of an operand line. -/
def Eng.askUnits (r : Run) (pos : Nat) (t : Tensor) (line mask again : Nat) (e : Eng) : Eng :=
  e.updPort (portOf (line * 256)) fun p => { p with rq := p.rq ++ [⟨0, line, mask, again, pos, r.id, t, r.ch, r.seq⟩] }

/-- The free sectors for one more line at a position. -/
def Eng.lineRoom (e : Eng) (pos : Nat) : List Nat :=
  e.stage.freeCells pos ((e.place.bufs.filter fun b => b.pos == pos).flatMap (·.cells))

/-- Whether a line of B stands in the stream buffer of a run: a compacted tile reads it and no tile of another path does (R257). -/
def Eng.streamLine (e : Eng) (rd : Nat → Byte) (run pos : Nat) (t : Tensor) (line : Nat) : Bool :=
  let cs := e.place.ctxs.filter fun c => c.run == run
  tensorOf t == .b && cs.any (fun c => c.path == .compacted) && !(cs.any fun c => c.path != .compacted && (e.ctxCmd c).any fun m =>
    (List.range c.steps).any fun s => m.2.1.unitMask rd t (m.2.1.stepSpan m.2.2 c pos s) line != 0)

/-- Whether there is room for one more line of a run: the stream buffer has a credit for a line of records (R257). -/
def Eng.streamRoom (e : Eng) (rd : Nat → Byte) (r : Run) (pos : Nat) (t : Tensor) (line : Nat) : Bool :=
  !e.streamLine rd r.id pos t line ||
    decide ((e.place.bufs.countP fun b => b.pos == pos && b.run == r.id && e.streamLine rd r.id pos b.tensor b.line) < 1024)

/-- A line asked for under a fill credit: with no free place, the credits that may return do so, and without one nothing is asked
for (R219). -/
def Eng.askLine (rd : Nat → Byte) (r : Run) (pos : Nat) (t : Tensor) (mask line : Nat) (e : Eng) : Eng :=
  let full := fun (e : Eng) => decide ((e.lineRoom pos).length < 8) || !e.streamRoom rd r pos t line
  let e := if full e then e.releaseLines rd pos else e
  if full e then e
  else
    let b : BufLine := ⟨pos, r.id, t, line, mask, [], false, 0, e.lineRoom pos⟩
    ({ e with place := { e.place with bufs := e.place.bufs ++ [b] } } : Eng).askUnits r pos t line mask 0

/-- A line read again into its place (R425, R427). -/
def Eng.reaskLine (r : Run) (pos : Nat) (t : Tensor) (tries line : Nat) (e : Eng) : Eng :=
  match e.buf? pos r.id t line with
  | none => e
  | some b =>
    (e.updBuf pos r.id t line fun b => { b with units := [], token := false, tries := tries }).askUnits r pos t line b.mask 0

/-- Whether every unit of a buffered line has arrived. -/
def BufLine.complete (b : BufLine) : Bool := (List.range 8).all fun u => !b.mask.testBit u || (nget? b.units u).isSome

/-- The bytes of a buffered line. -/
def BufLine.bytes (b : BufLine) : List Byte := (List.range 8).flatMap fun u => nget b.units u []

/-- An operand sector read or moved uncorrectably: the line that fills it is read from memory again before any row uses it
(R427, R436). -/
def Eng.refillCell (key : Nat) (e : Eng) : Eng :=
  (e.place.bufs.filter fun b => b.cells.contains key).foldl (fun e b =>
    match e.place.runs.find? fun r => r.id == b.run with
    | some r => e.reaskLine r b.pos b.tensor b.tries b.line
    | none => e) e

/-- Lines with a sector in operand slots that no longer exist leave the buffer (R152, R153). -/
def Eng.dropLostCells (slice : Nat) (e : Eng) : Eng :=
  let gone := fun (k : Nat) => keySlice k == slice &&
    decide (e.stage.withdrawn.contains slice = true ∨ 512 + e.stage.gSlots + e.stage.operandSlots slice (keyBank k) ≤ k % 2048)
  { e with place := { e.place with bufs := e.place.bufs.filter fun b => !b.cells.any gone } }

/-! ### The expansion of the dense path (R247) -/

/-- The offsets of a row's records, carried on as far as the buffered bytes reach, up to `k` more. -/
def extendWalk (has : List Nat → Bool) (rd : Nat → Byte) (b : Opd) (fin : Nat) : Nat → List Nat → List Nat
  | 0, l => l
  | k + 1, l =>
    let o := l.getLastD 0
    if has ((List.range (walkReach rd b fin 1 o - o)).map (b.base + o + ·)) then
      extendWalk has rd b fin k (l ++ [nextRecord rd b fin o])
    else l

/-- One weight row's walk carried on at a position. -/
def Eng.walkRowOn (p : Problem) (s : SparseRec) (pos run n : Nat) (e : Eng) : Eng :=
  let has := e.bufHas [pos] run
  let b := e.bufByte [pos] run
  let old := e.walkOffs pos run n
  if !has ((List.range 8).map (s.metaBase + 8 * n + ·)) then e
  else
    let l := if old.isEmpty then [(rowOffset b s n).1] else old
    let l := extendWalk has b p.b (rowEnd b s p.b n) (cdiv (p.extent 2) 32 - l.length) l
    let rest := e.place.walks.filter fun w => !(w.pos == pos && w.run == run && w.row == n)
    { e with place := { e.place with walks := ⟨pos, run, n, l⟩ :: rest } }

/-- The walks of the weight rows that a run's dense tiles use at a position, carried on. -/
def Eng.advanceWalks (p : Problem) (pos run : Nat) (e : Eng) : Eng :=
  match p.sparse with
  | none => e
  | some s =>
    if s.form = 0 then e
    else
      let cs := e.place.ctxs.filter fun c => c.run == run && c.usesPos pos && c.path == .dense
      let ns := (cs.flatMap fun c => (c.podCols.map fun x => c.org.n + c.tileCol (pos % 4) x).filter (· < p.lens.n)).eraseDups
      ns.foldl (fun e n => e.walkRowOn p s pos run n) e

end Sys2Proof.Machine
end

