-- ==== Sys2Proof/Machine/Place.lean ====
section
/-!
DEFINITION. The placement unit (06): shapes and units (R205 to R207), slates and runs (R208 to R216), gangs (R203), parts
of accumulators (R128, R129), the freezing and dropping of attempts (R146, R148), pulls (R225), reissue (R212),
relocation (R215), replays (R430, R431) and service transitions (R224, R226, R229).
-/

namespace Sys2Proof.Machine

/-! ### Attempts that end without a commit -/

/-- Updates and tokens of attempt `i` removed from the links and the gang combiners: from then on the Stage discards
every later partial of it (R146, R148). -/
def Eng.purge (i : Nat) (e : Eng) : Eng :=
  let e := e.updStage fun s => { s with
    links := (s.links.map fun l => (l.1, l.2.filter fun p => p.att != i)).filter fun l => !l.2.isEmpty }
  { e with place := { e.place with
      gangs := e.place.gangs.map fun g => { g with comb := g.comb.map fun x => (x.1, x.2.filter fun p => p.att != i) } } }

/-- An attempt freezes (R146): it leaves the list, its progress record stays with the K-step, and the K-step may be
streamed again, by a gang at a new C0. -/
def Eng.freeze (i : Nat) (e : Eng) : Eng :=
  match e.att? i with
  | none => e
  | some a =>
    let e := e.updCtx a.ctx fun c => { c with
      progress := mapIf (fun r => r.holder == some i) (fun r => { r with holder := none }) c.progress
      streamed := c.streamed.filter fun x => x != (a.comm, a.kstep) }
    let e := ((e.purge i).dropAtt i).bump 15 (b2n (a.st == .admitted))
    match e.ctx? a.ctx with
    | some c => if c.shape > 1 then e.armGang c.quad else e
    | none => e

/-- The attempts of a context become stale in mid-stream (R148, R150): each admitted one counts once; a duplicate is counted
as one (R144), since it streams no further here. -/
def Eng.staleAll (ctx : Nat) (e : Eng) : Eng :=
  (e.place.atts.filter fun a => a.ctx == ctx && a.st != .fresh).foldl (fun e a =>
    ((e.purge a.id).dropAtt a.id).bump (if a.st == .duplicate then 12 else 13) 1) e

/-- The feeders stop streaming a context. -/
def Eng.stopStream (ctx : Nat) (e : Eng) : Eng :=
  { e with pods := e.pods.map fun d => { d with
      feeders := d.feeders.map fun f => { f with step := f.step.filter fun t => t.ctx != ctx } } }

/-- A context is swept (R150): no attempt and no stream of it goes on; ZERO_SWEEP clears and frees it. -/
def Eng.sweep (ctx : Nat) (e : Eng) : Eng :=
  ((e.staleAll ctx).stopStream ctx).updCtx ctx fun c => { c with sweeping := true, run := 0, started := false, readyAt := none }

/-- Sectors cleared; a slot that gave an uncorrectable read may now be read back (R435). -/
def Eng.wipe (ks : List Nat) (e : Eng) : Eng :=
  (e.clearKeys ks).updStage (Stage.rewrote ks)

/-- Every sector of a context. -/
def TileCtx.keys (c : TileCtx) : List Nat := c.parts.flatMap (c.partKeys c.acc)

/-- ZERO_SWEEP (R150): the sectors of a swept context are cleared and the context is free (R131); the attempts of it that no
partial had yet judged are stale (R148). A context of a command that a fault has ended is swept when no attempt of it is in
flight (R434). -/
def Eng.zeroSweep (ctx : Nat) (e : Eng) : Eng :=
  match e.ctx? ctx with
  | none => e
  | some c =>
    let ended := (e.cmd? c.ch c.seq).all (·.ending) && !c.started && !(e.place.atts.any fun a => a.ctx == ctx)
    if c.sweeping ∨ ended then
      let e := (e.stopStream ctx).wipe c.keys
      let e := (e.place.atts.filter fun a => a.ctx == ctx).foldl (fun e a => (e.purge a.id).bump 13 1) e
      { e with place := { e.place with
          ctxs := e.place.ctxs.filter fun x => x.id != ctx
          atts := e.place.atts.filter fun a => a.ctx != ctx } }
    else e

/-! ### Units and shapes -/

/-- The positions of a unit. -/
def takerPositions : Taker → List Nat
  | .pos p => [p]
  | .quad q => [4 * q, 4 * q + 1, 4 * q + 2, 4 * q + 3]

/-- The unit of a context. -/
def TileCtx.taker (c : TileCtx) : Taker := if c.shape ≤ 1 then .pos c.pos else .quad c.quad

/-- Whether a position may take a run: served by a pod in service, and enabled in PLACE_POS_MASK. -/
def Eng.posOpen (e : Eng) (p : Nat) : Bool :=
  e.place.posMask.getLsbD p && (e.podAt p).any fun n => (e.pod n).svc == .inService

/-- U of R210: the number of units available to a shape: positions under P1 and H2, quads otherwise (R201). -/
def Eng.freeUnits (e : Eng) (shape : Nat) : Nat :=
  let open1 := fun p => e.served p && e.place.posMask.getLsbD p
  if shape ≤ 1 then (List.range 32).countP open1
  else (List.range 8).countP fun q => (List.range 4).all fun m => open1 (4 * q + m)

/-- U_σ of R205: the number of units available to a shape, each H2 half counted as one. -/
def Eng.units (e : Eng) (shape : Nat) : Nat := e.freeUnits shape * (if shape = 1 then 2 else 1)

/-- R185, R231: whether a slate item may run in a shape other than the named one. -/
def Problem.mayRun (p : Problem) (k : GemmKind) (shape : Nat) : Bool :=
  shape == p.sheet.shape ||
    (!p.fast && decide (k ≠ .sparse) && (p.lvl 0).cntN % shapeN shape == 0 && p.tilesFit shape &&
      (bucketList p.sheet.buckets).all fun i => (p.progs.getD (6 * shape + i) ⟨0, 0, false⟩).valid)

/-- The shapes that R205 weighs: the named one and those that PLACE_SHAPE_MASK enables, with an available unit. -/
def Eng.shapes (e : Eng) (p : Problem) (k : GemmKind) : List Nat :=
  ([p.sheet.shape] ++ (List.range 5).filter fun s =>
    s != p.sheet.shape && e.place.shapeMask.getLsbD s && p.mayRun k s).filter fun s => e.units s != 0

/-- E(σ) of R205. -/
def Eng.shapeCost (e : Eng) (p : Problem) (k : GemmKind) (shape : Nat) : Nat :=
  cdiv (p.tileCount shape) (e.units shape) * (kSteps k p shape .dense).length * max p.mb 128

/-- R205: the shape of the remaining items; `dflt` when no shape has a unit (R206). -/
def Eng.chooseShape (e : Eng) (p : Problem) (k : GemmKind) (dflt : Nat) : Nat :=
  (argMin (e.shapeCost p k) (e.shapes p k)).getD dflt

/-- Whether a slate waits under R206: no shape that it may run has an available unit. -/
def Eng.slateWaits (e : Eng) (s : Slate) : Bool :=
  !s.closed && (s.counter < s.items || !s.reissue.isEmpty) &&
    (e.cmd? s.ch s.seq).all fun m => m.prob.all fun p => m.kind.all fun k => (e.shapes p k).isEmpty

/-! ### Drawing work -/

/-- Whether a unit may run an entry of the reissue list (R213 to R215). -/
def Reissue.mayTake (r : Reissue) (u : Taker) (slateShape : Nat) : Bool :=
  match r.tied with
  | some t => t == u
  | none => match u with
    | .pos _ => decide (slateShape ≤ 1)
    | .quad _ => decide (slateShape ≥ 2)

/-- Whether a unit may draw from a slate: an entry it may run, or an undrawn item in a shape of its kind that R83 allows. -/
def Eng.canDraw (e : Eng) (u : Taker) (s : Slate) : Bool :=
  match e.cmd? s.ch s.seq with
  | some m =>
    !m.ending && !s.closed &&
      (s.reissue.any (fun r => r.mayTake u s.shape) ||
        (decide (s.counter < s.items) && (m.prob.any fun p => p.tilesFit s.shape) &&
          (match u with | .pos _ => decide (s.shape ≤ 1) | .quad _ => decide (s.shape ≥ 2))))
  | none => false

/-- R211: the leading slate for a set of units: highest class, then opened first (slates stand in the order they opened). -/
def Eng.leading (e : Eng) (us : List Taker) : Option Slate :=
  argMin (fun s => 3 - ((e.cmd? s.ch s.seq).map (·.prio)).getD 0) (e.place.slates.filter fun s => us.any fun u => e.canDraw u s)

/-- The units of a quad. -/
def quadTakers (q : Nat) : List Taker := .quad q :: (takerPositions (.quad q)).map .pos

/-- Whether quad `q` is forming a gang for a slate that still leads and from which the gang may draw (R203). -/
def Eng.forming (e : Eng) (q : Nat) : Bool :=
  match (e.gang q).forming, e.leading (quadTakers q) with
  | some x, some s => x == (s.ch, s.seq) && e.canDraw (.quad q) s
  | _, _ => false

/-- Whether quad `q` stands as a gang without a run, and no slate has anything that the gang may draw. -/
def Eng.gangVoid (e : Eng) (q : Nat) : Bool :=
  (e.gang q).formed && (e.place.runs.all fun r => r.taker != .quad q) && (e.leading [.quad q]).isNone

/-- Whether a unit is free to take a run: its positions are open, no run of it has items left, and the quad of a position
is neither a gang nor forming one. -/
def Eng.unitFree (e : Eng) (u : Taker) : Bool :=
  (takerPositions u).all e.posOpen && (e.place.runs.all fun r => r.taker != u || r.items.isEmpty) &&
    (match u with
     | .pos p => !(e.gang (p / 4)).formed && !e.forming (p / 4)
     | .quad q => (e.gang q).formed && e.place.runs.all fun r => r.taker != u)

/-- GANG_FORM (R203): the quad forms a gang for the leading slate once its four positions are served and none of them
holds an unfinished run; until then it is forming. -/
def Eng.gangForm (q : Nat) (e : Eng) : Eng :=
  match e.leading (quadTakers q) with
  | none => e
  | some s =>
    if q < 8 ∧ ¬ (e.gang q).formed ∧ e.canDraw (.quad q) s ∧ (takerPositions (.quad q)).all e.posOpen then
      if e.place.runs.all fun r => !(quadTakers q).contains r.taker then
        e.updGang q fun g => { g.unform with formed := true }
      else e.updGang q fun g => { g with forming := some (s.ch, s.seq) }
    else e

/-! ### Contexts and parts (R128 to R131) -/

/-- Whether accumulators of two contexts can meet in a bank: two different H2 halves cannot (R128). -/
def halvesClash (s1 h1 s2 h2 : Nat) : Bool := !(s1 == 1 && s2 == 1 && h1 != h2)

/-- The slot ranges of a slice that accumulators hold against a new one of a shape and half. -/
def Eng.ranges (e : Eng) (slice shape half : Nat) : List (Nat × Nat) :=
  e.place.ctxs.flatMap fun c =>
    if halvesClash c.shape c.half shape half then
      (c.parts.filter fun p => p.slice == slice).map fun p => (p.base, accDepth c.acc (p.rowHi - p.rowLo))
    else []

/-- The lowest first slot at which `depth` slots are free in the accumulator region (the slot is the engine's choice,
R128). -/
def freeBase (used : List (Nat × Nat)) (depth : Nat) : Option Nat :=
  ((0 :: used.map fun u => u.1 + u.2).filter fun b =>
    decide (b + depth ≤ 512) && used.all fun u => decide (b + depth ≤ u.1 ∨ u.1 + u.2 ≤ b)).min?

/-- The parts that a tile asks for: rows and columns, and the slices that may hold each (R129). -/
def partPlan (shape acc rows pos quad : Nat) : List (Nat × Nat × Nat × Nat × List Nat) :=
  let qs := [4 * quad, 4 * quad + 1, 4 * quad + 2, 4 * quad + 3]
  match shape with
  | 0 => [(0, rows, 0, 128, [pos])]
  | 1 => [(0, rows, 0, 64, [pos])]
  | 3 => (List.range 4).map fun m => (0, rows, 128 * m, 128, [4 * quad + m])
  | _ =>
    let band := 2097152 / (128 * accBytes acc)
    let bands := if rows ≤ band then [(0, rows)] else (List.range (cdiv rows band)).map fun i => (i * band, min rows ((i + 1) * band))
    (List.range (if shape = 4 then 2 else 1)).flatMap fun g => bands.map fun b => (b.1, b.2, 128 * g, 128, qs)

/-- The slices that may hold a P1 tile of a compacted path: the position's own, then the others of its quad (R257). -/
def compactSlices (pos : Nat) : List Nat :=
  pos :: ((List.range 4).map fun m => 4 * (pos / 4) + m).filter (· != pos)

/-- Parts placed one by one, each in the first slice with room from the quad's lowest up (which slice of the quad takes a part
is left to the placement unit: DESIGN CHOICE, log entry 127); none when one of them finds no room. -/
def Eng.placeParts (e : Eng) (acc shape half : Nat) :
    List (Nat × Nat × Nat × Nat × List Nat) → List Part → Option (List Part)
  | [], done => some done
  | (lo, hi, c0, cols, slices) :: r, done =>
    let d := accDepth acc (hi - lo)
    let room := fun s => freeBase (e.ranges s shape half ++
      (done.filter fun p => p.slice == s).map fun p => (p.base, accDepth acc (p.rowHi - p.rowLo))) d
    match slices.findSome? fun s => (room s).map fun b => (s, b) with
    | some (s, b) => e.placeParts acc shape half r (done ++ [⟨s, lo, hi, c0, cols, b, false⟩])
    | none => none

/-- The contexts that a unit holds, swept ones included. -/
def Eng.unitCtxs (e : Eng) (u : Taker) : List TileCtx := e.place.ctxs.filter fun c => c.taker == u

/-- Whether a slice may take the part of a new tile: its position is served (R228) and it is not withdrawn (R153). -/
def Eng.sliceOpen (e : Eng) (s : Nat) : Bool := e.served s && !e.stage.withdrawn.contains s

/-- Tile contexts that a unit, or an H2 half, has (C of R83). -/
def ctxLimit (shape : Nat) : Nat := if shape = 1 then 8 else 16

/-- S of R249 in use for records without SEG_MAX. -/
def Eng.segDefault (e : Eng) : Nat := e.segMax.toNat

/-- Whether tiles that an entry marks as done hold the stretch of 64 columns number `i` of the tile at `org`. -/
def stretchDone (done : List ReTile) (org : Coord) (i : Nat) : Bool :=
  done.any fun d => d.done && d.org.b == org.b && d.org.m == org.m &&
    decide (d.org.n ≤ org.n + 64 * i ∧ org.n + 64 * i < d.org.n + d.cols)

/-- The stretches of a tile at `org` that tiles of another shape have drained (R60, R215; DEDUCED, log entry 154). -/
def skipOf (done : List ReTile) (shape : Nat) (org : Coord) : List Nat :=
  (List.range (shapeN shape / 64)).filter (stretchDone done org)

/-- The K positions of K-step `s` of a context, with its pass in the high part; on the compacted path the lane batch. -/
def TileCtx.stepRange (p : Problem) (k : GemmKind) (c : TileCtx) (s : Nat) : Nat × Nat :=
  if c.path = .compacted then (s, s + 1)
  else
    let x := (kSteps k p c.shape c.path).getD s ⟨0, 0, 0⟩
    (x.pass * 2 ^ 32 + x.k0, x.pass * 2 ^ 32 + x.kEnd)

/-- How often K-step `s` of a new context had frozen before its tile was relocated (R429). -/
def Cmd.frozenBefore (m : Cmd) (p : Problem) (k : GemmKind) (c : TileCtx) (s : Nat) : Nat :=
  let r := c.stepRange p k s
  ((m.refrozen.filter fun x => x.org.b == c.org.b && x.org.m == c.org.m && (x.path == .compacted) == (c.path == .compacted) &&
    decide (x.org.n < c.org.n + shapeN c.shape ∧ c.org.n < x.org.n + x.cols ∧ x.lo < r.2 ∧ r.1 < x.hi)).map (·.count)).foldl max 0

/-- A new context with what its K-steps had frozen before a relocation (R429). -/
def Cmd.withFreezes (m : Cmd) (p : Problem) (k : GemmKind) (c : TileCtx) : TileCtx :=
  if m.refrozen = [] then c
  else { c with freezes := (List.range c.steps).foldl (fun f s => nput f s (m.frozenBefore p k c s)) [] }

/-- The freezes of a context that is relocated kept with its command (R429). -/
def Eng.keepFreezes (ctx : Nat) (e : Eng) : Eng :=
  match (e.ctx? ctx).bind fun c => (e.ctxCmd c).map fun m => (c, m) with
  | some (c, m, p, k) => e.updCmd m.ch m.seq fun m => { m with
      refrozen := m.refrozen ++ c.freezes.map fun f =>
        let r := c.stepRange p k f.1
        ⟨c.org, shapeN c.shape, c.path, r.1, r.2, f.2⟩ }
  | none => e

/-- A new context for the tile at `org` (R131, R183, R260), its parts placed; none when nothing is free. -/
def Eng.newCtx (rd : Nat → Byte) (ch seq : Nat) (p : Problem) (k : GemmKind) (u : Taker) (shape half item run : Nat)
    (done : List ReTile) (org : Coord) (e : Eng) : Option TileCtx :=
  let pos := match u with | .pos x => x | .quad q => 4 * q
  let inRows := min p.mb (p.lens.m - org.m)
  let rows := bucketFor p.sheet.buckets inRows
  let path := match k, p.sparse with
    | .sparse, some s => choosePath rd p s e.bias.toNat e.segDefault org.n inRows
    | _, _ => .dense
  let segs := match path, p.sparse with
    | .compacted, some s => segmentList rd p s e.segDefault org.b org.m org.n inRows
    | _, _ => []
  let acc := p.sheet.acc
  let mine := (e.unitCtxs u).filter fun c => shape != 1 || c.half == half
  let plan := (if path = .compacted then [(0, rows, 0, 128, compactSlices pos)] else partPlan shape acc rows pos (pos / 4)).map
    fun x => (x.1, x.2.1, x.2.2.1, x.2.2.2.1, x.2.2.2.2.filter e.sliceOpen)
  let steps := if path = .compacted then batchCount segs else (kSteps k p shape path).length
  if ctxLimit shape ≤ mine.length ∨ tilesT shape acc p.mb ≤ (mine.filter fun c => !c.sweeping).length then none
  else
    (e.placeParts acc shape half plan []).map fun parts =>
      let c : TileCtx :=
      { id := e.place.nextId, ch := ch, seq := seq, run := run, item := item, org := org, acc := acc, shape := shape
        pos := pos, half := half, rows := rows, inRows := inRows, path := path, segs := segs, parts := parts, gen := 0
        count := 0
        expect := if p.lens.k = 0 then some 0 else if path = .compacted then none else some (steps * shapePods shape)
        steps := if p.lens.k = 0 then 0 else steps, low := 0, dropped := 0, marks := [], progress := [], freezes := []
        floors := 0, streamed := [], dLoaded := false, readyAt := none, started := false
        sweeping := false, wrote := false, needReplay := none, tally := ⟨0, 0, 0, 0, 0, 0⟩, drained64 := skipOf done shape org }
      (e.cmd? ch seq).elim c fun m => m.withFreezes p k c

/-- The number of the next tile-ready token: tokens that stand are numbered in the order in which they came (R276). -/
def Eng.nextToken (e : Eng) : Nat := (e.place.ctxs.filterMap (·.readyAt)).foldl max 0 + 1

/-- The tile-ready token (R87, R190): the commit count is complete, and D is loaded where there is one. -/
def Eng.markReady (needD : Bool) (ctx : Nat) (e : Eng) : Eng :=
  e.updCtx ctx fun c =>
    if c.expect.any (fun x => decide (x ≤ c.count)) ∧ c.readyAt = none ∧ ¬ c.sweeping ∧ (¬ needD ∨ c.dLoaded) then
      { c with readyAt := some e.nextToken }
    else c

/-- Whether the tile at `org` of a shape lies in tiles that an entry marks as done. -/
def coveredBy (done : List ReTile) (shape : Nat) (org : Coord) : Bool :=
  (List.range (shapeN shape / 64)).all (stretchDone done org)

/-- Contexts assigned to the tiles of an item, one by one; none when one of them finds nothing free. Under H2 the tiles go to the
two halves in turn (which tile runs in which half is left to the placement unit: DESIGN CHOICE, log entry 128). -/
def Eng.assign (rd : Nat → Byte) (ch seq : Nat) (p : Problem) (k : GemmKind) (u : Taker) (shape item run : Nat)
    (done : List ReTile) : List (Coord × Nat) → Eng → Option Eng
  | [], e => some e
  | (org, i) :: r, e =>
    match e.newCtx rd ch seq p k u shape (if shape = 1 then i % 2 else 0) item run done org with
    | none => none
    | some c =>
      let e := { e with place := { e.place with ctxs := e.place.ctxs ++ [c], nextId := e.place.nextId + 1 } }
      e.markReady p.d.isSome c.id |>.assign rd ch seq p k u shape item run done r

/-- The next item of a run starts: new contexts for its tiles, or the contexts that a reissue entry keeps, from their
recorded floors (R213). Before that, lines that no tile-step needs any more leave the buffers: a panel that does not fit is read again
for each item (R217). SHAPE_SUBSTITUTIONS counts every start of an item in another shape, a reissue or replay too (DESIGN CHOICE, log
entry 158). -/
def Eng.startItem (rd : Nat → Byte) (r : Run) (e : Eng) : Option Eng :=
  match r.items, e.cmd? r.ch r.seq with
  | it :: rest, some m =>
    match m.prob, m.kind with
    | some p, some k =>
      let kept := it.tiles.filterMap fun t => t.ctx.map fun c => (c, t.floor)
      let fresh := if kept.isEmpty then (p.itemTiles r.shape it.item).filter fun o => !coveredBy it.tiles r.shape o else []
      let e := (takerPositions r.taker).foldl (fun e x => e.releaseLines rd x) e
      match e.assign rd r.ch r.seq p k r.taker r.shape it.item r.id it.tiles fresh.zipIdx with
      | none => none
      | some e =>
        let e := kept.foldl (fun e x => (e.updCtx x.1 fun c =>
          { c with run := r.id, floors := x.2, streamed := [] }).markReady p.d.isSome x.1) e
        let e := { e with place := { e.place with
          runs := mapIf (fun x => x.id == r.id) (fun x => { x with items := rest }) e.place.runs } }
        let e := match r.taker with
          | .quad q => e.armGang q
          | .pos _ => e
        some (e.bump 11 (b2n (r.shape != p.sheet.shape)))
    | _, _ => none
  | _, _ => none

/-- A run made of what a unit takes from a slate (R209, R210, R213), with the slate after it. -/
def Eng.take (u : Taker) (s : Slate) (p : Problem) (e : Eng) : Run × Eng :=
  let id := e.place.nextId
  let e := { e with place := { e.place with nextId := id + 1 } }
  match s.reissue.find? fun r => r.mayTake u s.shape with
  | some r =>
    let shape := if r.tied.isSome then r.shape else s.shape
    let left := s.reissue.filter fun x => !(x == r)
    (⟨id, u, s.ch, s.seq, shape, [r]⟩, e.updSlate s.ch s.seq fun s =>
      { s with reissue := left ++ s.waiting.take (64 - left.length), waiting := s.waiting.drop (64 - left.length) })
  | none =>
    let units := e.freeUnits s.shape
    let rl := p.runLen units
    let n := if rl * units ≤ s.items - s.counter then rl else 1
    let items := ((List.range n).map (s.counter + ·)).filter (· < s.items)
    (⟨id, u, s.ch, s.seq, s.shape, items.map fun i => ⟨i, [], s.shape, none⟩⟩,
      e.updSlate s.ch s.seq fun s => { s with counter := s.counter + n })

/-- R203: the forming of a gang is given up when nothing is left for the gang to draw before its first run. -/
def Eng.giveUpGang (u : Taker) (e : Eng) : Eng :=
  match u with
  | .pos p => if e.gangVoid (p / 4) then e.updGang (p / 4) Gang.unform else e
  | .quad _ => e

/-- RUN_DRAW (R209 to R213): a unit starts the next item of its run, or, being free, takes a run from the leading slate
and starts its first item. Nothing happens while the tile contexts it needs are not free (R131). -/
def Eng.runDraw (rd : Nat → Byte) (u : Taker) (e : Eng) : Eng :=
  let e := e.giveUpGang u
  match e.place.runs.find? fun r => r.taker == u && !r.items.isEmpty with
  | some r => (e.startItem rd r).getD e
  | none =>
    if e.unitFree u then
      match e.leading [u] with
      | none => e
      | some s =>
        match (e.cmd? s.ch s.seq).bind (·.prob) with
        | none => e
        | some p =>
          let (r, e2) := e.take u s p
          let e2 := { e2 with place := { e2.place with runs := e2.place.runs ++ [r] } }
          (e2.startItem rd r).getD e
    else e

/-! ### Runs that end -/

/-- Runs removed: a gang whose run it was is un-formed (R204), and its operand lines leave the buffers (R217). -/
def Eng.dropRuns (gone : Run → Bool) (e : Eng) : Eng :=
  let rs := e.place.runs.filter gone
  if rs.isEmpty then e
  else
    let e := rs.foldl (fun e r => match r.taker with
      | .quad q => e.updGang q Gang.unform
      | .pos _ => e) e
    { e with place := { e.place with
        runs := e.place.runs.filter fun r => !gone r
        bufs := e.place.bufs.filter fun b => !(rs.any fun r => r.id == b.run)
        walks := e.place.walks.filter fun w => !(rs.any fun r => r.id == w.run)
        planes := e.place.planes.filter fun x => !(rs.any fun r => r.id == x.run) } }

/-- R220: a run ends when every tile of its items has drained; a gang stays formed until then (R204). -/
def Eng.endRuns (e : Eng) : Eng :=
  e.dropRuns fun r => r.items.isEmpty && !(e.place.ctxs.any fun c => c.run == r.id)

/-! ### Reissue (R212 to R216) -/

/-- The contexts of reissue entries whose drain has not started. -/
def Eng.undrained (e : Eng) (l : List Reissue) : List Nat :=
  (l.flatMap fun r => r.tiles.filterMap (·.ctx)).filter fun i => !(e.ctx? i).any (·.started)

/-- Entries added to the reissue list of a slate; those beyond 64 wait (R216). A command that draws no further run under R229 has
their tiles swept instead. -/
def Eng.addEntries (ch seq : Nat) (l : List Reissue) (e : Eng) : Eng :=
  if (e.slate? ch seq).any (·.closed) then
    if (e.cmd? ch seq).any (·.ending) then e else (e.undrained l).foldl (fun e c => e.sweep c) e
  else
    e.updSlate ch seq fun s =>
      let all := s.reissue ++ s.waiting ++ l
      { s with reissue := all.take 64, waiting := all.drop 64 }

/-- The stretches of a tile that another shape drained, as tiles that are done. -/
def TileCtx.skipped (c : TileCtx) : List ReTile := c.drained64.map fun i => ⟨{ c.org with n := c.org.n + 64 * i }, 64, 0, none, true⟩

/-- The entry of an item that a run has started: every context with its floor, the drained tiles as done (R212). -/
def Eng.itemEntry (e : Eng) (r : Run) (item : Nat) (drained : List ReTile) : Reissue :=
  let cs := e.place.ctxs.filter fun c => c.run == r.id && c.item == item
  ⟨item, drained ++ cs.flatMap (·.skipped) ++ cs.map fun c => ⟨c.org, shapeN c.shape, c.floor, some c.id, false⟩, r.shape,
    some r.taker⟩

/-- The tiles of an item that a run has drained. -/
def Eng.drainedTiles (e : Eng) (r : Run) (item : Nat) : List ReTile :=
  match (e.cmd? r.ch r.seq).bind (·.prob) with
  | none => []
  | some p => ((p.itemTiles r.shape item).filter fun o =>
      !(e.place.ctxs.any fun c => c.ch == r.ch && c.seq == r.seq && c.item == item && c.org == o && c.shape == r.shape)).map fun o =>
        ⟨o, shapeN r.shape, 0, none, true⟩

/-- The items that a run has not started, tied to its unit as every reissued item is (R214). -/
def Run.unstarted (r : Run) : List Reissue := r.items.map fun i => { i with tied := some r.taker, shape := r.shape }

/-- The unfinished items of a run go to the reissue list; the run is over (R212). -/
def Eng.reissueRun (r : Run) (e : Eng) : Eng :=
  let started := ((e.place.ctxs.filter fun c => c.run == r.id).map (·.item)).eraseDups
  let es := started.map (fun i => e.itemEntry r i (e.drainedTiles r i)) ++ r.unstarted
  let e := e.dropRuns fun x => x.id == r.id
  let ctxs := mapIf (fun (c : TileCtx) => c.run == r.id) (fun c => { c with run := 0 }) e.place.ctxs
  (({ e with place := { e.place with ctxs := ctxs } } : Eng).addEntries r.ch r.seq es).bump 9 es.length

/-- Whether a context has a part in a withdrawn slice. -/
def Eng.ctxLost (e : Eng) (c : Nat) : Bool := (e.ctx? c).any fun x => x.parts.any fun p => e.stage.withdrawn.contains p.slice

/-- Whether a context's drain has started. -/
def Eng.draining (e : Eng) (c : Nat) : Bool := (e.ctx? c).any (·.started)

/-- A tile of a relocated item: one whose drain has started needs no more work, every other starts again. -/
def ReTile.move (busy : Nat → Bool) (t : ReTile) : ReTile := if t.ctx.any busy then { t with done := true, ctx := none } else t

/-- R215: an entry whose unit has a position left unserved, or a part of whose tiles stood in a withdrawn slice, is
relocated: its contexts are swept, but for those that a drain has begun to write (DEDUCED, log entry 34), and it runs anywhere with
every floor at 0. -/
def Eng.relocate (gone : Nat → Bool) (e : Eng) : Eng :=
  let away := fun (r : Reissue) => r.tied.any (fun t => (takerPositions t).any gone) || (r.tiles.filterMap (·.ctx)).any e.ctxLost
  let busy := e.draining
  e.place.slates.foldl (fun e s =>
    let hit := (s.reissue ++ s.waiting).filter away
    let e := hit.foldl (fun e r => ((r.tiles.filterMap (·.ctx)).filter fun c => !busy c).foldl (fun e c => (e.keepFreezes c).sweep c) e) e
    let move := fun (r : Reissue) =>
      if away r then { r with tiles := (r.tiles.map (ReTile.move busy)).filter (·.done), tied := none } else r
    (e.updSlate s.ch s.seq fun s => { s with reissue := s.reissue.map move, waiting := s.waiting.map move }).bump 10 hit.length) e

/-! ### Spares and transitions (R224 to R227) -/

/-- Whether a pod in OUT is free to take a position (R226, R428). -/
def Eng.podFree (e : Eng) (n : Nat) : Bool :=
  let d := e.pod n
  d.svc == .out && d.task == .idle && !d.faulted && d.pgood && !(e.place.trans.any fun t => t.pod == n) && decide (n < 34)

/-- Whether a test of a pod is armed. -/
def Eng.testArmed (e : Eng) (n : Nat) : Bool := e.health.screenArmed.any fun a => a.1 == n

/-- The lowest-numbered free pod for which no test is armed, or, where there is none, the one whose test is armed (which free pod
joins is left to the placement unit: DESIGN CHOICE, log entry 129). -/
def Eng.freePod (e : Eng) : Option Nat :=
  match (List.range 34).find? fun n => e.podFree n && !e.testArmed n with
  | some n => some n
  | none => (List.range 34).find? e.podFree

/-- A free pod taken for a position: a test that is only armed for it does not start. -/
def Eng.claimPod (n : Nat) (e : Eng) : Eng :=
  if e.testArmed n then { e with health := { e.health with screenArmed := none } } else e

/-- Positions that no pod serves, whose slice is not withdrawn (R153), and to which no pod is on its way. -/
def Eng.vacant (e : Eng) : List Nat :=
  (List.range 32).filter fun p => !e.served p && !e.stage.withdrawn.contains p && !(e.place.trans.any fun t => t.join == some p)

/-- R226: free pods are sent to the vacant positions, at a cue-launched transition (R222). -/
def Eng.fillPositions (e : Eng) : Eng :=
  e.vacant.foldl (fun e p =>
    match e.freePod with
    | some n =>
      let e := e.claimPod n
      { e with place := { e.place with trans := e.place.trans ++ [⟨e.cue + 32, n, some p⟩] } }
    | none => e) e

/-- R443: a position became unserved for lack of a free pod. -/
def Eng.exPods (pod : Nat) (e : Eng) : Eng :=
  { e with health := { e.health with exPods := true } }.logFault 0x50 0 pod 0 none false

/-- R215, R443: a position stays unserved for lack of a free pod: its items are relocated. -/
def Eng.leaveVacant (pod pos : Nat) (e : Eng) : Eng :=
  if e.vacant.contains pos then (e.exPods pod).relocate (· == pos) else e

/-- A command that fits no shape any more draws no further run and ends with LOADER_REJECT, detail 0x16; its started items
and drains finish, and entries that would start again are swept (R229). -/
def Eng.closeCmd (ch seq : Nat) (e : Eng) : Eng :=
  let cs := ((e.slate? ch seq).map fun s => e.undrained (s.reissue ++ s.waiting)).getD []
  let e := cs.foldl (fun e c => e.sweep c) e
  let e := { e with place := { e.place with
    runs := mapIf (fun r => r.ch == ch && r.seq == seq) (fun r => { r with items := [] }) e.place.runs } }
  let e := e.updSlate ch seq fun s => { s with closed := true, reissue := [], waiting := [] }
  e.updCmd ch seq fun c => { c with ending := c.ending || !c.opened
                                    res := { c.res with status := statusMax c.res.status 0x10
                                                        detail := if c.res.status = 0 then 0x16 else c.res.detail } }

/-- R229: the served set has changed; every command in progress is checked again under R156, and its slate gets its shape anew. A
command whose slate has not opened opens none when it fits no more. -/
def Eng.refit (e : Eng) : Eng :=
  e.chan.cmds.foldl (fun e m =>
    match m.prob, m.kind with
    | some p, some k =>
      let may := ([p.sheet.shape] ++ (List.range 5).filter fun x => e.place.shapeMask.getLsbD x && p.mayRun k x)
      if m.phase ≠ .running ∨ m.ending ∨ (e.slate? m.ch m.seq).any (·.closed) ∨ (m.opened ∧ (e.slate? m.ch m.seq).isNone) then e
      else if may.any fun x => e.shapeFits (p.footprint k) x then
        e.updSlate m.ch m.seq fun s => { s with shape := e.chooseShape p k s.shape }
      else e.closeCmd m.ch m.seq
    | _, _ => e) e

/-- Whether attempt `i` has left its pods: no row, partial, stream or lane batch of it remains there (R225). -/
def Eng.leftPods (e : Eng) (i : Nat) : Bool :=
  e.pods.all fun d =>
    (d.rows.all fun r => r.att != i) && (d.cols.all fun c => c.2.tree.all fun p => p.att != i) &&
      (d.feeders.all fun f => f.step.all fun t => t.att != i) && (d.batches.all fun b => b.att != i)

/-- A pod's array emptied. -/
def Pod.clear (d : Pod) : Pod :=
  { d with cols := [], feeders := [⟨none, none, none⟩, ⟨none, none, none⟩], rows := [], nextSeq := 0, batches := [] }

/-- R224: draining pods whose started items have passed their last read-modify-write leave at a transition. -/
def Eng.armLeaving (e : Eng) : Eng :=
  (List.range 34).foldl (fun e n =>
    let d := e.pod n
    match d.svc, d.lpos with
    | .draining, some p =>
      let busy := e.place.runs.any fun r => (takerPositions r.taker).contains p &&
        (!r.items.isEmpty || e.place.ctxs.any fun c => c.run == r.id && c.readyAt.isNone)
      if busy ∨ e.place.trans.any fun t => t.pod == n then e
      else { e with place := { e.place with trans := e.place.trans ++ [⟨e.cue + 32, n, none⟩] } }
    | _, _ => e) e

/-- R225: a pod is pulled in this cycle: it leaves its position, its attempts freeze unless their last token has left the
pods, its items go on the reissue list, and a free pod is sent to the position, or the items are relocated. A pod that was on its
way to a position leaves it to another. -/
def Eng.pull (pod : Nat) (e : Eng) : Eng :=
  let bound := (e.place.trans.filter fun t => t.pod == pod).filterMap (·.join)
  let e := { e with place := { e.place with trans := e.place.trans.filter fun t => t.pod != pod } }
  let e := e.updPod pod fun d => { d with why := none }
  match (e.pod pod).lpos with
  | none => bound.foldl (fun e p => e.leaveVacant pod p) (e.updPod pod Pod.clear).fillPositions
  | some pos =>
    let rs := e.place.runs.filter fun r => (takerPositions r.taker).contains pos
    let cs := e.place.ctxs.filter fun c => c.usesPos pos
    let atts := e.place.atts.filter fun a => cs.any (fun c => c.id == a.ctx) && !e.leftPods a.id
    let e := atts.foldl (fun e a => e.freeze a.id) e
    let e := cs.foldl (fun e c => e.stopStream c.id) e
    let e := rs.foldl (fun e r => e.reissueRun r) e
    let e := e.updPod pod fun d => { d.clear with svc := .out, lpos := none }
    (((e.updGang (pos / 4) Gang.unform).fillPositions.leaveVacant pod pos).refit).endRuns.armLeaving

/-- A pod enters a position in service. -/
def Eng.enterPos (pod pos : Nat) (e : Eng) : Eng :=
  e.updPod pod fun d => { d.clear with svc := .inService, lpos := some pos, why := none }

/-- Whether a test of a pod is armed or in progress, or a pod is on its way to one. -/
def Eng.screening (e : Eng) : Bool :=
  e.health.screenArmed.isSome || e.pods.any fun d => d.svc == .screenTest || (d.svc == .draining && d.why == some .screen)

/-- R227, R440: whether a pod may be rotated out: a free spare can take its position, or SCREEN_NO_SPARE permits it and the
spares-exhausted condition is acknowledged or absent. -/
def Eng.sparesAllow (e : Eng) : Bool :=
  e.freePod.isSome || (e.health.screenNoSpare && (!e.health.exPods && !e.health.exBanks || e.health.acked))

/-- R439: the pod in OUT that a test may start on: the one asked for, ahead of every other, which waits for its rotation while that
is allowed; one rotated out for a test that has not started; a pod pulled for a fault; one not tested since the last round. -/
def Eng.screenChoice (e : Eng) : Option Nat :=
  let out := (List.range 34).filter fun n => (e.pod n).svc == .out && (e.pod n).task == .idle && !(e.place.trans.any fun t => t.pod == n)
  let order := ((out.find? fun n => (e.pod n).why == some .screen).orElse fun _ => out.find? fun n => (e.pod n).faulted).orElse fun _ =>
    out.find? fun n => !(e.pod n).tested
  match e.health.screenNow with
  | some n => if out.contains n then some n else if (e.pod n).svc = .inService ∧ e.sparesAllow then none else order
  | none => order

/-- The health unit arms the start of a test at a cue value (R222, R439), one test at a time and not under the droop mask. -/
def Eng.armScreen (e : Eng) : Eng :=
  if e.screening || e.droop then e
  else
    match e.screenChoice with
    | some n =>
      { e with health := { e.health with screenArmed := some (n, e.cue + 32) } }
    | none => e

/-- SERVICE_TRANSITION (R226): at its cue value an armed transition takes place. -/
def Eng.serviceTransition (pod : Nat) (e : Eng) : Eng :=
  match e.place.trans.find? fun t => t.pod == pod && t.cue == e.cue with
  | none => e
  | some t =>
    let e := { e with place := { e.place with trans := e.place.trans.filter fun x => x.pod != pod } }
    match t.join with
    | some p =>
      if e.podFree pod ∧ ¬ e.served p ∧ ¬ e.stage.withdrawn.contains p then (((e.claimPod pod).enterPos pod p).refit).armScreen
      else (e.fillPositions.leaveVacant pod p).armScreen
    | none =>
      let p := (e.pod pod).lpos.getD 0
      let spare := e.freePod
      let why := (e.pod pod).why
      let e := e.updPod pod fun d => { d.clear with svc := .out, lpos := none }
      let e := match spare with
        | some n => (e.claimPod n).enterPos n p
        | none => (e.exPods pod).relocate (· == p)
      let e := if e.served p ∨ e.place.runs.any fun r => r.taker == .quad (p / 4) then e else e.updGang (p / 4) Gang.unform
      let e := match why with
        | some .screen => { e with health := { e.health with screenArmed := some (pod, e.cue + 64) } }
        | some .update => e.updPod pod fun d => { d with task := .loading }
        | none => e
      e.refit.armScreen

/-- Items taken and not started go back with every floor at 0 (R224). -/
def Eng.returnItems (pos : Nat) (e : Eng) : Eng :=
  let rs := e.place.runs.filter fun r => (takerPositions r.taker).contains pos && !r.items.isEmpty
  let e := rs.foldl (fun e r => (e.addEntries r.ch r.seq r.unstarted).bump 9 r.items.length) e
  { e with place := { e.place with
      runs := mapIf (fun r => (takerPositions r.taker).contains pos) (fun r => { r with items := [] }) e.place.runs } }

/-- The pod that a periodic test rotates out: the next in service after the last one rotated, in ascending number, the lowest
after the highest (R439). -/
def Eng.nextScreen (e : Eng) : Option Nat :=
  let l := (List.range 34).filter fun n => (e.pod n).svc == .inService
  match l.find? fun n => e.health.screenLast.all fun x => decide (x < n) with
  | some n => some n
  | none => l.head?

/-- Whether the health unit asks to rotate pod `pod` now (R439, R445). -/
def Eng.rotationDue (e : Eng) (pod : Nat) (why : RotateFor) : Bool :=
  match why with
  | .screen => !e.screening && (e.health.screenNow == some pod || (e.health.screenNow.isNone && e.health.screenDue && e.nextScreen == some pod))
  | .update => e.health.updBusy && e.health.updQueue.head? == some pod && !(e.pods.any fun d => d.task == .loading)

/-- POD_ROTATION_REQUEST (R224, R227, R440, R445): one pod at a time is rotated out, while a free spare can take its position, or
while SCREEN_NO_SPARE permits it and the spares-exhausted condition is acknowledged or absent. A pod in OUT loads a new
built-in set without leaving a position. -/
def Eng.podRotation (pod : Nat) (why : RotateFor) (e : Eng) : Eng :=
  let d := e.pod pod
  let rotating := e.pods.any fun x => x.why.isSome
  let margin : Bool := match why with
    | .screen => !(e.health.exPods && !e.health.acked)
    | .update => true
  let room := e.place.slates.all fun s => decide (s.reissue.length < 64)
  if !e.rotationDue pod why then e
  else if d.svc = .inService ∧ ¬ rotating ∧ e.sparesAllow ∧ margin ∧ room then
    let e := e.updPod pod fun d => { d with svc := .draining, why := some why }
    let e := match why with
      | .screen =>
        let wrap := e.health.screenLast.any fun x => decide (pod ≤ x)
        let fresh := e.pods.map fun (x : Pod) => { x with tested := false }
        let e := if wrap then { e with pods := fresh } else e
        if e.health.screenNow = some pod then { e with health := { e.health with screenTurn := none } }
        else { e with health := { e.health with screenDue := false, screenLast := some pod, screenTurn := some pod } }
      | .update => e
    ((e.returnItems (d.lpos.getD 0)).endRuns).armLeaving
  else if why = .update ∧ d.svc = .out ∧ d.task = .idle ∧ ¬ e.place.trans.any fun t => t.pod == pod then
    (e.claimPod pod).updPod pod fun d => { d with task := .loading }
  else e

/-! ### Replays (R430, R431) -/

/-- How often a tile has replayed in its command, whatever shape it ran in: the most often that a stretch of 64 of its columns
has. -/
def Cmd.replaysOf (m : Cmd) (c : TileCtx) : Nat :=
  ((List.range (shapeN c.shape / 64)).map fun i => m.replays.countP fun r =>
    r.1.b == c.org.b && r.1.m == c.org.m && decide (r.1.n ≤ c.org.n + 64 * i ∧ c.org.n + 64 * i < r.1.n + r.2)).foldl max 0

/-- R430: whether a tile may be replayed. -/
def Eng.canReplay (e : Eng) (c : TileCtx) : Bool :=
  ((e.cmd? c.ch c.seq).all fun m => decide (m.replaysOf c < e.health.replay.toNat)) &&
    !(c.wrote && (e.ctxCmd c).any fun m => m.2.1.d.any fun d =>
      m.2.1.addrD d c.org.b c.org.m c.org.n == m.2.1.addrC c.org.b c.org.m c.org.n)

/-- A hand-off that is stopped: cut short by an ABORT beat when its header has been sent, otherwise not sent (R503). -/
def HandOff.stop (h : HandOff) : Option HandOff :=
  if h.sent = 0 then none
  else if h.abort then some h
  else some { h with ctx := 0, beats := [List.replicate 256 0], abort := true }

/-- A drain stops working on a context (R431, R503). -/
def Eng.stopDrain (ctx : Nat) (e : Eng) : Eng :=
  let cut := fun (h : HandOff) => if h.ctx == ctx then h.stop else some h
  { e with drain := { e.drain with
      units := e.drain.units.map fun (u : DrainUnit) => { u with
        job := u.job.filter fun j => j.ctx != ctx
        hand := u.hand.filterMap cut } } }

/-- A fault of a tile that asks for a replay: noted for TILE_REPLAY, or the command ends with the status at once; the log
entry says which (R427, R430, R437). -/
def Eng.wantReplay (ctx st code unit index sub : Nat) (e : Eng) : Eng :=
  match e.ctx? ctx with
  | none => e.logFault code unit index sub none true
  | some c =>
    if e.canReplay c then
      (e.updCtx ctx fun c => { c with needReplay := some (statusMax (c.needReplay.getD 0) st) }).logFault code unit index sub (some c.ch) true
    else
      let e := (e.stopDrain ctx).updCtx ctx fun c => { c with started := false, readyAt := none }
      (e.endCmd c.ch c.seq st 0).logFault code unit index sub (some c.ch) false

/-- The entry for the item of a replayed tile: floor 0 for the tile, every other tile of the item at its number of K-steps (R431). -/
def Eng.replayItem (e : Eng) (c : TileCtx) : Reissue :=
  let others := match e.ctxCmd c with
    | some (_, p, k) => ((p.itemTiles c.shape c.item).filter (· != c.org)).map fun o =>
        (⟨o, shapeN c.shape, (kSteps k p c.shape c.path).length, none, true⟩ : ReTile)
    | none => []
  ⟨c.item, ⟨c.org, shapeN c.shape, 0, some c.id, false⟩ :: c.skipped ++ others, c.shape, some c.taker⟩

/-- Step 3 of R431: an entry is made; a tile whose item stands in the list already has its floor set to 0 there. -/
def Eng.replayEntry (c : TileCtx) (e : Eng) : Eng :=
  let own := fun (t : ReTile) => t.ctx == some c.id && !t.done
  let zero := mapIf (fun (r : Reissue) => r.tiles.any own) fun r => { r with tiles := mapIf own (fun t => { t with floor := 0 }) r.tiles }
  if (e.slate? c.ch c.seq).any fun s => (s.reissue ++ s.waiting).any fun r => r.tiles.any own then
    e.updSlate c.ch c.seq fun s => { s with reissue := zero s.reissue, waiting := zero s.waiting }
  else e.addEntries c.ch c.seq [e.replayItem c]

/-- TILE_REPLAY (R431): the drain stops, the context is emptied under R148, and a reissue entry with floor 0 is made; or,
where R430 forbids it, the command ends (R434). -/
def Eng.tileReplay (ctx : Nat) (e : Eng) : Eng :=
  match e.ctx? ctx with
  | none => e
  | some c =>
    match c.needReplay with
    | none => e
    | some st =>
      if c.sweeping then e
      else if e.canReplay c ∧ ¬ ((e.cmd? c.ch c.seq).any (·.ending)) then
        let e := ((e.stopDrain ctx).staleAll ctx).stopStream ctx
        let e := e.wipe c.keys
        let e := e.updCtx ctx fun c => { c with
          gen := c.gen + 1, progress := [], marks := [], floors := 0, streamed := [], count := 0, low := 0, dropped := 0
          dLoaded := false, readyAt := none, started := false, needReplay := none, run := 0
          expect := if c.path = .compacted ∧ c.steps ≠ 0 then none else c.expect, tally := ⟨0, 0, 0, 0, 0, 0⟩
          parts := c.parts.map fun p => { p with drained := false } }
        let e := e.updCmd c.ch c.seq fun m => { m with res := { m.res with replayed := true }, replays := (c.org, shapeN c.shape) :: m.replays }
        let e := (e.replayEntry c).bump 47 1
        let e := match e.cmd? c.ch c.seq with | some m => e.bumpSet m.reelSet 5 1 | none => e
        let e := e.relocate fun p => e.vacant.contains p || e.stage.withdrawn.contains p
        e.endRuns.armLeaving
      else (e.stopDrain ctx).endCmd c.ch c.seq st 0 |>.updCtx ctx fun c =>
        { c with started := false, readyAt := none, needReplay := none }

/-- TILE_REPLAY, with a parity error found in the context, a commit mark or a progress record (R427): it asks for the replay. -/
def Eng.tileReplayF (ctx : Nat) (parity : Bool) (e : Eng) : Eng :=
  match e.ctx? ctx with
  | some c =>
    if parity && !c.sweeping then
      ((e.bump 45 1).wantReplay ctx 0x22 0x14 1 c.home 0).tileReplay ctx
    else e.tileReplay ctx
  | none => e

end Sys2Proof.Machine
end

