-- ==== Sys2Proof/Machine/Ports.lean ====
section
/-!
DEFINITION. Packets on fabric ports and Splice links: units and their code (R484 to R488, R496), virtual channels
(R404, R405), sending, the capability exchange (R492), and the assembly of received units into packets (R491).
-/

namespace Sys2Proof.Machine

/-! ### Packets and units -/

/-- `n` lists of 32 bytes from a byte string, the last padded with zero bytes. -/
def chunks32 : Nat → List Byte → List (List Byte)
  | 0, _ => []
  | n + 1, l => (l.take 32 ++ List.replicate (32 - (l.take 32).length) 0) :: chunks32 n (l.drop 32)

/-- The units of a packet (R486). -/
def Packet.units (p : Packet) : List (List Byte) :=
  unitOf (leBytes 32 p.hdr.toNat) :: (chunks32 (cdiv p.data.length 32) p.data).map unitOf

/-- The packet that a list of received units holds: the header unit and the data units, with the numbers of the data units
that no decoding repairs (R421). None when the header itself cannot be read. -/
def Packet.ofUnits (us : List (List Byte)) : Option Packet :=
  match us.map rsDecode with
  | [] => none
  | .bad :: _ => none
  | h :: r =>
    let hd := PktHdr.ofNat (leNat h.bytes)
    let data := r.flatMap fun c => match c with | .bad => List.replicate 32 (0 : Byte) | c => c.bytes
    some ⟨hd, data.take hd.pbytes, r.zipIdx.filterMap fun x => match x.1 with | .bad => some x.2 | _ => none⟩

/-- The engine's identity and whether it has one. -/
def LinkSt.ident (l : LinkSt) : Nat := fld l.engineId.toNat 0 16

/-- VALID of ENGINE_ID. -/
def LinkSt.identValid (l : LinkSt) : Bool := l.engineId.getLsbD 16

/-- The flits of a packet on a fabric port: up to four units each. -/
def fabricFlits (vc : Nat) (us : List (List Byte)) : List Flit :=
  let n := cdiv us.length 4
  (List.range n).map fun i => ⟨vc, i == 0, i + 1 == n, (us.drop (4 * i)).take 4⟩

/-! ### Arbitration (R405) -/

/-- Weight of a VC, and cap of VC2. -/
def LinkSt.weight (l : LinkSt) (vc : Nat) : Nat := (l.weights.getD vc 1).toNat

/-- A flit of VC `vc` noted among the last 256 of a port. -/
def Arb.note (a : Arb) (vc : Nat) : Arb := { a with recent := (vc :: a.recent).take 256 }

/-- The VC that sends next among those that are ready, with the arbitration state after it; `ws` are the weights. -/
def Arb.pick (a : Arb) (ws : List (BitVec 8)) (ready : Nat → Bool) : Option (Nat × Arb) :=
  let w := fun v => (ws.getD v 1).toNat
  if ready 2 ∧ a.recent.count 2 < w 2 then some (2, a.note 2)
  else
    match [0, 1, 3].find? fun v => ready v && decide (0 < a.left.getD v 0) with
    | some v => some (v, { a.note v with left := lset a.left v (· - 1) })
    | none =>
      match [0, 1, 3].find? ready with
      | some v => some (v, { a.note v with left := lset [w 0, w 1, 0, w 3] v (· - 1) })
      | none => none

/-! ### Fabric ports -/

/-- Flits sent from a fabric port's queues while it is UP and credits last (R484, R405). -/
def FPort.pump (ws : List (BitVec 8)) : Nat → FPort → FPort
  | 0, p => p
  | n + 1, p =>
    if p.st ≠ 2 then p
    else
      match p.arb.pick ws fun v => !(p.txq.getD v []).isEmpty && decide (0 < p.credits.getD v 0) with
      | none => p
      | some (v, a) =>
        match p.txq.getD v [] with
        | [] => p
        | f :: r => FPort.pump ws n { p with
            arb := a, credits := lset p.credits v (· - 1), txq := lset p.txq v fun _ => r
            gone := lset p.gone v (· + 1), sent := p.sent ++ [f] }

/-- Fabric port `j` changed, and its flits sent. -/
def Eng.updFPort (j : Nat) (f : FPort → FPort) (e : Eng) : Eng :=
  let go := fun (p : FPort) =>
    let p := f p
    FPort.pump e.link.weights (lsum (p.txq.map List.length) + 1) p
  let sent0 := ((e.link.fports[j]?).map fun p => p.sent.length).getD 0
  let e := { e with link := { e.link with fports := e.link.fports.modify j go } }
  e.bump 56 (((e.link.fports[j]?).map fun p => p.sent.length).getD 0 - sent0)

/-! ### Splice flits (R496 to R499) -/

/-- The 16 header bytes of a Splice flit. -/
def spliceHeader (l : SLink) (f : Option SFlit) : List Byte :=
  let d := f.getD ⟨0, 0, [], 0, 0, 0⟩
  leBytes 16 (b2n f.isSome + d.vc % 4 * 2 ^ 4 + b2n l.accepted * 2 ^ 6 + b2n l.nak * 2 ^ 7 + d.seq % 4096 * 2 ^ 8
    + (if l.accepted then (l.exp + 4095) % 4096 else 0) * 2 ^ 20 + d.units.length % 16 * 2 ^ 32 + d.sop % 256 * 2 ^ 36
    + d.eop % 256 * 2 ^ 44 + (l.owed.getD 0 0) % 256 * 2 ^ 64 + (l.owed.getD 1 0) % 256 * 2 ^ 72
    + (l.owed.getD 2 0) % 256 * 2 ^ 80 + (l.owed.getD 3 0) % 256 * 2 ^ 88)

/-- The 320 bytes of a Splice flit (R496). -/
def spliceBytes320 (l : SLink) (f : Option SFlit) : List Byte :=
  let us := (f.map (·.units)).getD []
  let b := spliceHeader l f ++ us.flatten ++ List.replicate (300 - 36 * us.length) (0 : Byte)
  b ++ leBytes 4 (crc32c b)

/-- A flit leaves a link: it carries the acknowledgement, a NAK that is due, and the credits owed. -/
def SLink.emit (f : Option SFlit) (l : SLink) : SLink :=
  { l with sent := l.sent ++ [spliceBytes320 l f], nak := false, nakSent := l.nakSent || l.nak, owed := [0, 0, 0, 0] }

/-- The next DATA flit of VC `v`: up to eight units (R496). -/
def SLink.nextFlit (l : SLink) (v : Nat) : SFlit :=
  let us := (l.txq.getD v []).take 8
  let mask := fun (f : List Byte × Bool × Bool → Bool) => lsum (us.zipIdx.map fun x => if f x.1 then 2 ^ x.2 else 0)
  ⟨l.seq, v, us.map (·.1), mask (·.2.1), mask (·.2.2), 0⟩

/-- The CAPS that waits, sent as one DATA flit without credit once the replay buffer has room (R492, R497). -/
def SLink.sendCaps (l : SLink) : SLink :=
  match l.caps with
  | none => l
  | some us =>
    if (l.st ≠ 2 ∧ l.st ≠ 3) ∨ l.buf.length ≥ 512 then l
    else
      let f : SFlit := ⟨l.seq, 3, us, 1, 2, 0⟩
      { l with caps := none, seq := (l.seq + 1) % 4096, buf := l.buf ++ [f], arb := l.arb.note 3 }.emit (some f)

/-- DATA flits sent while the link is UP, no CAPS waits, credits last and the replay buffer has room (R497). -/
def SLink.pump (ws : List (BitVec 8)) : Nat → SLink → SLink
  | 0, l => l
  | n + 1, l =>
    if l.st ≠ 3 ∨ l.buf.length ≥ 512 ∨ l.caps.isSome then l
    else
      match l.arb.pick ws fun v => !(l.txq.getD v []).isEmpty && decide (0 < l.credits.getD v 0) with
      | none => l
      | some (v, a) =>
        let f := l.nextFlit v
        SLink.pump ws n ({ l with
          arb := a, credits := lset l.credits v (· - 1), txq := lset l.txq v (fun q => q.drop 8)
          gone := lset l.gone v (· + f.units.length), seq := (l.seq + 1) % 4096, buf := l.buf ++ [f] }.emit (some f))

/-- Splice link `n` changed, and its DATA flits sent. -/
def Eng.updSLink (n : Nat) (f : SLink → SLink) (e : Eng) : Eng :=
  let go := fun (l : SLink) =>
    let l := (f l).sendCaps
    SLink.pump e.link.weights (lsum (l.txq.map List.length) + 1) l
  let before := ((e.link.slinks[n]?).map fun l => (f l).sent.length).getD 0
  let e := { e with link := { e.link with slinks := e.link.slinks.modify n go } }
  e.bump 62 (((e.link.slinks[n]?).map fun l => l.sent.length).getD 0 - before)

/-! ### Sending packets -/

/-- A packet put on its way: into the engine's own inbox by loopback, or into the queue of its VC. -/
def Eng.sendPacket (via : Via) (p : Packet) (e : Eng) : Eng :=
  match via with
  | .loopback => { e with link := { e.link with inbox := e.link.inbox ++ [⟨.loopback, p⟩] } }
  | .fabric j => e.updFPort j fun f => { f with txq := lset f.txq p.hdr.vc fun q => q ++ fabricFlits p.hdr.vc p.units }
  | .splice n => e.updSLink n fun l =>
      let us := p.units
      { l with txq := lset l.txq p.hdr.vc fun q => q ++ us.zipIdx.map fun u => (u.1, u.2 == 0, u.2 + 1 == us.length) }

/-- What has left a route on a VC, and what waits there. By loopback nothing waits. -/
def LinkSt.passed (l : LinkSt) (vc : Nat) : Via → Nat × Nat
  | .loopback => (0, 0)
  | .fabric j => ((l.fports[j]?).map fun p => (p.gone.getD vc 0, (p.txq.getD vc []).length)).getD (0, 0)
  | .splice n => ((l.slinks[n]?).map fun p => (p.gone.getD vc 0, (p.txq.getD vc []).length)).getD (0, 0)

/-- The leaving of what was put last on a route. -/
def Eng.leaving (e : Eng) (vc : Nat) (via : Via) : Leaving := (via, (e.link.passed vc via).1 + (e.link.passed vc via).2)

/-- Whether packets of a VC have left. -/
def Eng.left (e : Eng) (vc : Nat) (ls : List Leaving) : Bool := ls.all fun x => decide (x.2 ≤ (e.link.passed vc x.1).1)

/-- R350: the route to an engine. -/
def Eng.route (e : Eng) (target : Nat) : Option Via :=
  if e.link.identValid ∧ target = e.link.ident then some .loopback
  else
    match (List.range 4).find? fun n => (e.link.slinks[n]?).any fun l => l.idv && l.pid == target with
    | some n => some (.splice n)
    | none =>
      let bits := (List.range 8).filter fun j => e.link.fabricMask.getLsbD j
      if bits.isEmpty then none else (bits[target % bits.length]?).map .fabric

/-- The first received packet from `via` that meets a condition. -/
def Eng.inFirst (e : Eng) (via : Via) (f : Packet → Bool) : Option Packet :=
  (e.link.inbox.find? fun x => x.via == via && f x.pkt).map (·.pkt)

/-- That packet taken out of the inbox. -/
def Eng.inDrop (via : Via) (p : Packet) (e : Eng) : Eng :=
  { e with link := { e.link with inbox := e.link.inbox.erase ⟨via, p⟩ } }

/-! ### The capability exchange (R492, R493) -/

/-- The CAPS packet of a port whose receive buffer holds `buf` flits per VC. -/
def Eng.capsPacket (e : Eng) (buf : Nat) : Packet :=
  let d := leBytes 32 (4 + b2n e.link.identValid * 2 ^ 9 + (if e.link.identValid then e.link.ident else 0) * 2 ^ 16
    + buf * 2 ^ 32 + buf * 2 ^ 40 + buf * 2 ^ 48 + buf * 2 ^ 56)
  { hdr := { PktHdr.ofNat 0 with src := e.link.ident, vc := 3, cls := 4, first := true, last := true, pbytes := 32 }
    data := d, bad := [] }

/-- A fabric port sends its CAPS, without credit, and then waits for the partner's. -/
def Eng.capsFabric (j : Nat) (e : Eng) : Eng :=
  let fs := fabricFlits 3 (e.capsPacket 64).units
  let e := { e with link := { e.link with fports := e.link.fports.modify j fun p => { p with
    st := 1, sent := p.sent ++ fs, arb := fs.foldl (fun (a : Arb) _ => a.note 3) p.arb } } }
  e.bump 56 fs.length

/-- A Splice link sends its CAPS, and stands in state `st`. -/
def Eng.capsSplice (st n : Nat) (e : Eng) : Eng :=
  let us := (e.capsPacket 128).units
  e.updSLink n fun l => { l with st := st, caps := some us }

/-- The buffered flits sent again, in order; they count among the last flits of the port (R405). -/
def SLink.resend (l : SLink) : SLink :=
  { l.buf.foldl (fun (l : SLink) f => { l with arb := l.arb.note f.vc }.emit (some f)) l with
    buf := l.buf.map fun (f : SFlit) => { f with resends := f.resends + 1 } }

/-- A retrain begins: sequence numbers and the replay buffer survive it (R500). -/
def SLink.retrain (l : SLink) : SLink :=
  { l with st := 4, re := true, buf := l.buf.map fun (f : SFlit) => { f with resends := 0 } }

/-- The buffered flits from the oldest on are sent again (R499); a flit that has been sent again 16 times makes the engine
retrain the link (R500). -/
def Eng.spliceResend (n : Nat) (e : Eng) : Eng :=
  match e.link.slinks[n]? with
  | none => e
  | some l =>
    let put := fun (x : SLink) => { e with link := { e.link with slinks := e.link.slinks.modify n fun _ => x } }
    if l.buf.any fun f => decide (16 ≤ f.resends) then (put l.retrain).bump 66 1
    else ((put l.resend).bump 62 l.buf.length).bump 65 l.buf.length

/-! ### Receiving units -/

/-- Whether a port shell keeps a received packet (R491); no packet is for an engine without identity (R348). -/
def Eng.keepsPacket (e : Eng) (p : Packet) : Bool :=
  decide (p.hdr.cls ≤ 4) && decide (p.hdr.pbytes ≤ 2048) && (p.hdr.cls == 4 || (e.link.identValid && p.hdr.dest == e.link.ident))

/-- A packet discarded (R491), and counted at a fabric port (R519; log entry 116). -/
def Eng.discardPacket (via : Via) (e : Eng) : Eng :=
  match via with
  | .fabric _ => e.bump 59 1
  | _ => e

/-- A complete packet delivered to the inbox, or discarded and counted (R491). A packet whose header unit is
uncorrectable names no engine and no operation and is discarded with the others. -/
def Eng.deliver (via : Via) (us : List (List Byte)) (e : Eng) : Eng :=
  match Packet.ofUnits us with
  | some p =>
    if e.keepsPacket p then { e with link := { e.link with inbox := e.link.inbox ++ [⟨via, p⟩] } } else e.discardPacket via
  | none => e.discardPacket via

/-- Uncorrectable units of a list counted and logged (R437: code 0x23; unit 3 fabric port, 4 Splice link), corrected ones
counted. -/
def Eng.countUnits (unit index : Nat) (us : List (List Byte)) (e : Eng) : Eng :=
  let bad := (us.filter fun u => rsDecode u == .bad).length
  let fixed := (us.filter fun u => match rsDecode u with | .corrected _ => true | _ => false).length
  let e := (e.bump 39 fixed).bump 40 bad
  let e := if unit = 3 then e.bump 58 bad else e
  (List.range bad).foldl (fun e _ => e.logFault 0x23 unit index 0 none false) e

end Sys2Proof.Machine
end

