-- ==== Sys2Proof/Machine/Remote.lean ====
section
/-!
DEFINITION. Remote operations, accumulate windows and the trigger table (10): the staging that windows and collectives hold
(R123, R152, R154), packed words (R361, R362), the origin's side (R350, R356 to R360, R375), the target's side (R353 to
R357, R377), windows (R364 to R368) and triggers (R369 to R374).
-/

namespace Sys2Proof.Machine

/-! ### Staging -/

/-- Place of a staging sector: slice, bank, slot counted from 512. -/
def stagePlace (g slice bank slot : Nat) : Nat := (slice * 128 + bank) * g + slot

/-- The runs of staging that do not exist: those of withdrawn slices and those that folds gave up (R152, R154). -/
def Stage.goneRuns (s : Stage) : List (Nat × Nat) :=
  let g := s.gSlots
  s.withdrawn.map (fun sl => (stagePlace g sl 0 0, 128 * g)) ++
    (if g ≤ 512 then []
     else (s.folds.filter fun f => !s.withdrawn.contains f.1).map fun f => (stagePlace g f.1 f.2 (1024 - g), 2 * g - 1024))

/-- 0x3400.04 STAGING_AVAILABLE. -/
def Stage.stagingAvailable (s : Stage) : Nat :=
  s.gSlots * 131072 - 32 * lsum (s.goneRuns.map (·.2))

/-- The gaps of [lo, fin) left by runs in ascending order. -/
def gapsOf (fin : Nat) : Nat → List (Nat × Nat) → List (Nat × Nat)
  | lo, [] => if lo < fin then [(lo, fin - lo)] else []
  | lo, (a, n) :: r => (if lo < a then [(lo, a - lo)] else []) ++ gapsOf fin (max lo (a + n)) r

/-- Up to `n` sectors taken from gaps, lowest first, with the sectors left over. -/
def takeGaps : Nat → List (Nat × Nat) → List (Option Nat × Nat) × Nat
  | n, [] => ([], n)
  | n, (a, k) :: r =>
    if n = 0 then ([], 0)
    else
      let (l, m) := takeGaps (n - min n k) r
      ((some a, min n k) :: l, m)

/-- The runs of staging in use. -/
def usedRuns (uses : List StageUse) : List (Nat × Nat) :=
  uses.flatMap fun u => u.runs.filterMap fun r => r.1.map fun a => (a, r.2)

/-- The gaps of free staging. -/
def Eng.freeGaps (e : Eng) (uses : List StageUse) : List (Nat × Nat) :=
  gapsOf (4096 * e.stage.gSlots) 0 ((e.stage.goneRuns ++ usedRuns uses).mergeSort fun a b => decide (a.1 ≤ b.1))

/-- Up to `n` sectors of free staging, the lowest places first, with the sectors that found no room (which free sectors a window or a
collective takes is the engine's: DESIGN CHOICE, log entry 137). -/
def Eng.freeStaging (e : Eng) (uses : List StageUse) (n : Nat) : List (Option Nat × Nat) × Nat := takeGaps n (e.freeGaps uses)

/-- The parts of gaps that lie in [lo, hi). -/
def clipGaps (lo hi : Nat) (gs : List (Nat × Nat)) : List (Nat × Nat) :=
  gs.filterMap fun g => if max lo g.1 < min hi (g.1 + g.2) then some (max lo g.1, min hi (g.1 + g.2) - max lo g.1) else none

/-- Up to `share` sectors of each slice, with the sectors left over; `size` are the staging sectors of a slice. -/
def spreadGaps (share size : Nat) (gs : List (Nat × Nat)) : List Nat → Nat → List (Option Nat × Nat) × Nat
  | [], n => ([], n)
  | sl :: r, n =>
    let (l, m) := takeGaps (min share n) (clipGaps (size * sl) (size * sl + size) gs)
    let (l', n') := spreadGaps share size gs r (n - (min share n - m))
    (l ++ l', n')

/-- `n` sectors of free staging spread across the slices not withdrawn (R365): an equal share of each, the lowest places first, and
what finds no room there in the lowest places left (how the bytes are spread is the engine's: DESIGN CHOICE, log entry 137). -/
def Eng.spread (e : Eng) (u : StageUser) (n : Nat) : List (Option Nat × Nat) :=
  let ss := (List.range 32).filter fun sl => !e.stage.withdrawn.contains sl
  let (l, m) := spreadGaps (cdiv n ss.length) (128 * e.stage.gSlots) (e.freeGaps e.remote.uses) ss n
  l ++ (e.freeStaging (e.remote.uses ++ [⟨u, l⟩]) m).1

/-- Bytes of staging that windows and collectives hold; lost sectors of an open window still count (R364). -/
def Eng.stagingUsed (e : Eng) : Nat := 32 * lsum (e.remote.uses.map fun u => lsum (u.runs.map (·.2)))

/-- Staging bytes allotted to a user; none when the free staging is short. -/
def Eng.allot (u : StageUser) (bytes : Nat) (e : Eng) : Option Eng :=
  if e.stage.stagingAvailable < e.stagingUsed + bytes then none
  else some { e with remote := { e.remote with uses := e.remote.uses ++ [⟨u, e.spread u (cdiv bytes 32)⟩] } }

/-- The staging of a user released. -/
def Eng.release (u : StageUser) (e : Eng) : Eng :=
  { e with remote := { e.remote with uses := e.remote.uses.filter fun x => x.user != u } }

/-- The sector of a use that stands at staging place `a`, counted in the order of its data. -/
def findPlace (a : Nat) : List (Option Nat × Nat) → Nat → Option Nat
  | [], _ => none
  | (some b, n) :: r, i => if b ≤ a ∧ a < b + n then some (i + (a - b)) else findPlace a r (i + n)
  | (none, n) :: r, i => findPlace a r (i + n)

/-- The place of sector `k` of a use. -/
def placeOf : Nat → List (Option Nat × Nat) → Option Nat
  | _, [] => none
  | k, (p, n) :: r => if k < n then p.map (· + k) else placeOf (k - n) r

/-- Slice, bank and slot of some sectors of a user's staging. -/
def Eng.stageSlots (e : Eng) (u : StageUser) (ks : List Nat) : List StageSlot :=
  let g := e.stage.gSlots
  match e.remote.uses.find? fun x => x.user == u with
  | some x => ks.filterMap fun k => (placeOf k x.runs).map fun p => (p / g / 128, p / g % 128, 512 + p % g)
  | none => []

/-- The staging of a user written whole: slots of it that gave an uncorrectable read have been rewritten (R435). -/
def Eng.rewroteStaging (u : StageUser) (e : Eng) : Eng :=
  let g := e.stage.gSlots
  let mine := fun (k : Nat) => e.remote.uses.any fun x => x.user == u && decide (512 ≤ k % 2048 ∧ k % 2048 < 512 + g) &&
    (findPlace (stagePlace g (keySlice k) (keyBank k) (k % 2048 - 512)) x.runs 0).isSome
  e.updStage fun s => s.rewrote (s.suspect.filter mine)

/-! ### Updates of staging (R127, R138 to R141) -/

/-- Words grouped into the updates of the sectors they lie in; `sector` gives the sector of a word within a user's staging. A word
whose sector is lost makes no update. -/
def Eng.stageUpds (e : Eng) (u : StageUser) (part : StagePart) (sector : Nat → Nat) (ws : List (Nat × ZWord)) : List StageUpd :=
  ((ws.map fun w => sector w.1).eraseDups).flatMap fun k =>
    (e.stageSlots u [k]).map fun s => ⟨part, s, ws.filter fun w => sector w.1 == k⟩

/-- An update of staging enters the conflict queue of its bank under a crossbar credit (R138, R140); none where there is no
credit. -/
def Eng.queueStage (u : StageUpd) (e : Eng) : Option Eng :=
  let b := e.stage.physBank u.slot.1 u.slot.2.1
  if (e.stage.bank u.slot.1 b).xbar = 0 then none
  else some (e.updBank u.slot.1 b fun q => { q with
    xbar := q.xbar - 1, q := q.q ++ [⟨true, sectorKey u.slot.1 u.slot.2.1 u.slot.2.2, [], some u⟩] })

/-- The head of a bank queue issues: it leaves the queue and its credit is owed (R138, R140). -/
def Bank.issue (q : Bank) : Bank :=
  match q.q with
  | [] => q
  | u :: r => { q with q := r, owedXbar := q.owedXbar + b2n u.xbar, owedLink := q.owedLink + b2n (!u.xbar) }

/-- Updates of one stream enter their queues in order: those that issue in their arrival cycle, since their queue was empty (R138),
and from the first without a credit on those that are held (R141). -/
def Eng.enterAll : List StageUpd → Eng → List StageUpd × List StageUpd × Eng
  | [], e => ([], [], e)
  | u :: r, e =>
    match e.queueStage u with
    | none => ([], u :: r, e)
    | some e1 =>
      let b := e.stage.physBank u.slot.1 u.slot.2.1
      if (e.stage.bank u.slot.1 b).q.isEmpty then
        let (now, held, e2) := Eng.enterAll r (e1.updBank u.slot.1 b Bank.issue)
        (u :: now, held, e2)
      else Eng.enterAll r e1

/-- Updates sent on a stream (R141): they stand behind those that it holds already. The updates that issue at once are returned. -/
def Eng.sendUpdates (src : Stream) (us : List StageUpd) (e : Eng) : List StageUpd × Eng :=
  if (e.stage.xlink src).isEmpty then
    let (now, held, e) := e.enterAll us
    (now, e.updStage fun s => s.setXlink src held)
  else ([], e.updStage fun s => s.setXlink src (s.xlink src ++ us))

/-- The updates of staging that wait on a stream or in a bank queue. -/
def Stage.pendingUpds (s : Stage) : List StageUpd :=
  s.xlinks.flatMap (·.2) ++ s.banks.flatMap fun b => b.2.q.filterMap (·.staging)

/-- Updates that no longer have anything to add to are dropped; those in a queue still issue. -/
def Eng.dropUpdates (out : StagePart → Bool) (e : Eng) : Eng :=
  let void := fun (u : BankUpd) => if u.staging.any (fun x => out x.part) then { u with staging := none } else u
  e.updStage fun s => { s with
    xlinks := (s.xlinks.map fun l => (l.1, l.2.filter fun u => !out u.part)).filter fun l => !l.2.isEmpty
    banks := s.banks.map fun b => (b.1, { b.2 with q := b.2.q.map void }) }

/-! ### Triggers (R369 to R374) -/

/-- A trigger entry. -/
def Eng.trig (e : Eng) (i : Nat) : Trig := nget e.remote.trigs i Trig.zero

/-- A trigger entry changed; an entry of all zeros is not listed. -/
def Eng.updTrig (i : Nat) (f : Trig → Trig) (e : Eng) : Eng :=
  let t := f (e.trig i)
  { e with remote := { e.remote with
      trigs := if t = Trig.zero then ndel e.remote.trigs i else nput e.remote.trigs i t } }

/-- R370: an increment reaches a counter. -/
def Eng.trigAdd (i : Nat) (v : Nat) (e : Eng) : Eng :=
  e.updTrig i fun t => { t with count := t.count + BitVec.ofNat 64 v }

/-- R373: a status passes to an entry and onward along NEXT, stopping at an entry that holds one. -/
def Eng.trigPass : Nat → Nat → Nat → Nat → Nat → Eng → Eng
  | 0, _, _, _, _, e => e
  | n + 1, i, st, dt, member, e =>
    let t := e.trig i
    if t.status ≠ 0 then e
    else
      let e := e.updTrig i fun t => { t with status := st, detail := dt, member := member }
      if t.nextEn then Eng.trigPass n t.next st dt member e else e

/-- R373: a status is written into entry `i`, and passes along its NEXT. -/
def Eng.trigFail (i st dt member : Nat) (e : Eng) : Eng :=
  let t := e.trig i
  let e := e.updTrig i fun t => { t with status := st, detail := dt, member := member }
  if t.nextEn then e.trigPass 4096 t.next st dt member else e

/-! ### Packed words (R361, R362) -/

/-- L of R361: the least number of low bytes whose sign extension is the word. -/
def packLen (e : Nat) (v : Nat) : Nat :=
  ((List.range e).map (· + 1)).find? (fun l => unsext (8 * e) (sext (8 * l) v) == v % 2 ^ (8 * e)) |>.getD e

/-- A word of `e` bytes packed. -/
def packWord (e : Nat) (z : ZWord) : List Byte :=
  let l := packLen e z.val.toNat
  BitVec.ofNat 8 l :: leBytes l z.val.toNat ++ z.sides

/-- One step of unpacking: the word and the bytes left; none when it cannot be delimited. -/
def unpackOne (e : Nat) (bs : List Byte) : Option (ZWord × List Byte) :=
  match bs with
  | [] => none
  | h :: r =>
    let l := h.toNat
    if l = 0 ∨ e < l ∨ r.length < l + 2 then none
    else
      let v := unsext (8 * e) (sext (8 * l) (leNat (r.take l)))
      some (ZWord.ofParts v ((r.getD l 0).toNat) ((r.getD (l + 1) 0).toNat), r.drop (l + 2))

/-- The words of one packet in order (R362), whose data units `bad` cannot be read: none for a word that such a unit holds a byte
of. It ends at a word that cannot be delimited, which is true, and at a LEN that cannot be read (R377). `o` is the offset reached. -/
def unpackBad (e : Nat) (bad : List Nat) : Nat → Nat → List Byte → List (Option ZWord) × Bool
  | 0, _, bs => ([], !bs.isEmpty)
  | n + 1, o, bs =>
    if bs.isEmpty ∨ bad.contains (o / 32) then ([], false)
    else
      match unpackOne e bs with
      | none => ([], true)
      | some (z, r) =>
        let m := bs.length - r.length
        let (l, f) := unpackBad e bad n (o + m) r
        ((if bad.any (touches o m) then none else some z) :: l, f)

/-- The words of one packet without a bad unit, and whether all of it could be delimited (R362). -/
def unpack (e : Nat) (n : Nat) (bs : List Byte) : List ZWord × Bool :=
  let (l, f) := unpackBad e [] n 0 bs
  (l.filterMap id, !f)

/-- Packed words gathered into packets of at most `lim` bytes of whole words, each with the number of its first word. -/
def packPackets (lim e : Nat) : List ZWord → Nat → Nat → List Byte → List (Nat × List Byte)
  | [], first, _, acc => if acc.isEmpty then [] else [(first, acc)]
  | z :: r, first, i, acc =>
    let w := packWord e z
    if acc.length + w.length > lim then (first, acc) :: packPackets lim e r i (i + 1) w
    else packPackets lim e r first (i + 1) (acc ++ w)

/-- Bytes of a word of a window type. -/
def winWord (type : Nat) : Nat := if type = 3 then 32 else 16

/-! ### The origin (R350, R356 to R360, R375) -/

/-- R354 and checks 0xC0 to 0xC5 of the origin; `action` tells whether a trigger entry issues it. -/
def Eng.originCheck (e : Eng) (a : RemoteArgs) (action : Bool) : Option Nat :=
  let known := decide (0x10 ≤ a.opcode ∧ a.opcode ≤ 0x14)
  let put := a.opcode == 0x10
  let get := a.opcode == 0x11
  let addx := a.opcode == 0x12
  let fadd := a.opcode == 0x13
  let sig := a.opcode == 0x14
  let unused := (if addx then decide (a.kind > 1) else a.kind != 0)
    || ((put || get || addx) && a.operand != 0)
    || (fadd && a.length != 0)
    || (sig && (a.length != 0 || a.loc != 0 || a.offset != 0))
  let w := if a.kind = 1 then 32 else 16
  let span := if get then a.length + a.length / 8 else if addx then a.length * (w + 2) else if put then a.length
    else if fadd then 8 else 0
  firstFail
    [(0xC0, !e.link.identValid),
     (0xC1, unused || (action && !known)),
     (0xC2, ((put || get || addx) && (a.length == 0 || a.loc % 32 != 0 || a.offset % 32 != 0))
        || ((put || get) && a.length % 32 != 0) || (fadd && (a.loc % 8 != 0 || a.offset % 8 != 0))),
     (0xC3, sig && decide (a.window > 4095)),
     (0xC4, (e.route a.target).isNone),
     (0xC5, decide (a.loc + span > 2 ^ 64))]

/-- The header of an OP packet. -/
def opHeader (src ptag : Nat) (a : RemoteArgs) (first last : Bool) (offset pbytes : Nat) : PktHdr :=
  { dest := a.target, src := src, vc := 0, cls := 0, opcode := a.opcode, kind := a.kind, first := first, last := last
    ptag := ptag, window := a.window, offset := offset, total := a.length, pbytes := pbytes }

/-- The ranges of `n` bytes at `a` that can be read, in whole units of 32 bytes, as offset and length, in pieces of at most
2,048 bytes. -/
def dataPieces (bad : List BadUnit) (a n : Nat) : List (Nat × Nat) :=
  (goodRuns (fun i => (hits bad (a + 32 * i) 32).isNone) (cdiv n 32)).flatMap fun r =>
    let len := min (32 * r.2) (n - 32 * r.1)
    (List.range (cdiv len 2048)).map fun i => (32 * r.1 + 2048 * i, min 2048 (len - 2048 * i))

/-- Address and length of the local data of an operation. -/
def RemoteArgs.localReads (a : RemoteArgs) : List (Nat × Nat) :=
  let w := if a.kind = 1 then 32 else 16
  if a.opcode = 0x10 then [(a.loc, a.length)] else if a.opcode = 0x12 then [(a.loc, a.length * (w + 2))] else []

/-- The pieces of an operation whose first packet carries its OFFSET: it has no data where the first unit cannot be read (DESIGN
CHOICE, log entry 138). -/
def leadPiece (offset : Nat) (ps : List (Nat × List Byte)) : List (Nat × List Byte) :=
  if ps.isEmpty || ps.head?.any (fun p => p.1 == offset) then ps else (offset, []) :: ps

/-- The packets of an operation (R487) as (first window byte, data); what cannot be read is left out (R377). -/
def opPieces (rd : Nat → Byte) (bad : List BadUnit) (a : RemoteArgs) : List (Nat × List Byte) :=
  if a.opcode = 0x10 then
    leadPiece a.offset ((dataPieces bad a.loc a.length).map fun x => (a.offset + x.1, rdBytes rd (a.loc + x.1) x.2))
  else if a.opcode = 0x12 then
    let w := if a.kind = 1 then 32 else 16
    let side := a.loc + a.length * w
    leadPiece a.offset
      ((goodRuns (fun i => (hits bad (a.loc + w * i) w).isNone && (hits bad (side + 2 * i) 2).isNone) a.length).flatMap fun r =>
        let ws := (List.range r.2).map fun i => rdZ rd (8 * w) (a.loc + w * (r.1 + i)) (side + 2 * (r.1 + i))
        (packPackets 2048 w ws r.1 r.1 []).map fun x => (a.offset + w * x.1, x.2))
  else if a.opcode = 0x13 ∨ a.opcode = 0x14 then [(a.offset, leBytes 8 a.operand)]
  else [(a.offset, [])]

/-- Operations and actions in flight. -/
def Eng.inFlight (e : Eng) : Nat := e.remote.ops.length

/-- The owner of an operation's writes at its origin. -/
def RemOp.owner (o : RemOp) : Owner :=
  match o.by_ with
  | .cmd ch seq => .cmd ch seq
  | .trig _ => .remote 65536 o.ptag

/-- TRIG of a command record with TRIG_EN 1 (R321). -/
def Cmd.trigOf (c : Cmd) : Option Nat := if bit c.raw 172 then some (Machine.fld c.raw 160 12) else none

/-- An operation has ended at its origin with a result (R358, R373): increments or statuses pass, and a command's result is
final. NEXT and NEXT_EN of an action are those of its entry at that moment (DESIGN CHOICE, log entry 165). -/
def Eng.finishOp (o : RemOp) (e : Eng) : Eng :=
  let e := { e with remote := { e.remote with ops := e.remote.ops.filter fun x => x.ptag != o.ptag } }
  let r := o.res
  let done := fun (i : Nat) (e : Eng) => if r.status < 0x10 then e.trigAdd i 1 else e.trigFail i r.status r.detail r.member
  if o.dead then e
  else
    match o.by_ with
    | .trig i =>
      if r.status < 0x10 then (if (e.trig i).nextEn then e.trigAdd (e.trig i).next 1 else e)
      else e.trigFail i r.status r.detail r.member
    | .cmd ch seq =>
      match e.cmd? ch seq with
      | none => e
      | some c =>
        let e := match c.trigOf with | some i => done i e | none => e
        e.updCmd ch seq fun c => { c with phase := .final, res := { r with status := statusMax c.res.status r.status } }

/-- The header of a packet as its first unit holds it. -/
def unitHdr (u : List Byte) : PktHdr := PktHdr.ofNat (leNat (u.take 32))

/-- The header that a waiting flit begins with. -/
def flitHead (f : Flit) : Option PktHdr := if f.sop then some (unitHdr (f.units.headD [])) else none

/-- The header that a waiting unit of a Splice link is. -/
def spliceHead (u : List Byte × Bool × Bool) : Option PktHdr := if u.2.1 then some (unitHdr u.1) else none

/-- Whether a header begins operation `ptag` of this engine. -/
def PktHdr.begins (ptag : Nat) (h : PktHdr) : Bool := h.cls == 0 && h.first && h.ptag == ptag

/-- Whether the first flit of operation `ptag` still waits on a route. -/
def LinkSt.firstWaits (l : LinkSt) (ptag : Nat) : Via → Bool
  | .loopback => false
  | .fabric j => (l.fports[j]?).any fun p => (p.txq.getD 0 []).any fun f => (flitHead f).any (PktHdr.begins ptag)
  | .splice n => (l.slinks[n]?).any fun p => (p.txq.getD 0 []).any fun u => (spliceHead u).any (PktHdr.begins ptag)

/-- Whether an operation has not sent its first flit. -/
def Eng.unsentOp (e : Eng) (o : RemOp) : Bool := !o.held.isEmpty || e.link.firstWaits o.ptag o.via

/-- A queue without the packets whose header `out` names; `cut` tells whether the packet it begins within is one. -/
def dropPackets {α : Type} (head : α → Option PktHdr) (out : PktHdr → Bool) : Bool → List α → List α
  | _, [] => []
  | cut, x :: r =>
    let cut := match head x with | some h => out h | none => cut
    if cut then dropPackets head out cut r else x :: dropPackets head out cut r

/-- The waiting packets of an operation taken off its route. -/
def LinkSt.withdraw (ptag : Nat) (via : Via) (l : LinkSt) : LinkSt :=
  let out := fun (h : PktHdr) => h.cls == 0 && h.ptag == ptag
  match via with
  | .loopback => l
  | .fabric j => { l with fports := l.fports.modify j fun p => { p with txq := lset p.txq 0 (dropPackets flitHead out false) } }
  | .splice n => { l with slinks := l.slinks.modify n fun p => { p with txq := lset p.txq 0 (dropPackets spliceHead out false) } }

/-- Whether two operations are of one channel or of one trigger entry (R356). -/
def Issuer.same : Issuer → Issuer → Bool
  | .cmd c _, .cmd d _ => c == d
  | .trig i, .trig j => i == j
  | _, _ => false

/-- Whether an earlier operation of the same channel or entry has not sent its first flit (R356). -/
def Eng.opWaits (e : Eng) (o : RemOp) : Bool :=
  (e.remote.ops.takeWhile fun x => x.ptag != o.ptag).any fun x => x.by_.same o.by_ && e.unsentOp x

/-- An operation of the origin changed. -/
def Eng.updOp (ptag : Nat) (f : RemOp → RemOp) (e : Eng) : Eng :=
  { e with remote := { e.remote with ops := mapIf (fun o => o.ptag == ptag) f e.remote.ops } }

/-- The packets of operations whose turn has come put on their route (R350, R356). -/
def Eng.pumpOps (e : Eng) : Eng :=
  e.remote.ops.foldl (fun e o =>
    if o.held.isEmpty ∨ e.opWaits o then e
    else o.held.foldl (fun e p => e.sendPacket o.via p) (e.updOp o.ptag fun o => { o with held := [] })) e

/-- The tag of the next operation: from the number issued so far on, the first that none in flight holds (DESIGN CHOICE, log entry
139). -/
def RemoteSt.nextTag (r : RemoteSt) : Nat :=
  (((List.range (r.ops.length + 1)).map fun i => (r.tag + i) % 2 ^ 16).find? fun t => !(r.ops.any fun o => o.ptag == t)).getD 0

/-- An operation that passed its checks is issued (R350, R356, R487). One of whose data no unit can be read ends at once; one with
some of it unreadable carries SECTOR_UNCORRECTABLE (R377). -/
def Eng.issueOp (rd : Nat → Byte) (bad : List BadUnit) (by_ : Issuer) (a : RemoteArgs) (e : Eng) : Eng :=
  match e.route a.target with
  | none => e
  | some via =>
    let ch := match by_ with | .cmd c _ => some c | .trig _ => none
    let e := a.localReads.foldl (fun e r => e.noteRead bad ch r.1 r.2) e
    let st := if a.localReads.any fun r => (hits bad r.1 r.2).isSome then 0x21 else 0
    let ptag := e.remote.nextTag
    let ps := opPieces rd bad a
    let held := ps.zipIdx.map fun x =>
      ⟨opHeader e.link.ident ptag a (x.2 == 0) (x.2 + 1 == ps.length) x.1.1 x.1.2.length, x.1.2, []⟩
    let op : RemOp := ⟨ptag, by_, a, via, Result.ofStatus st 0, false, false, held⟩
    if ps.isEmpty then e.finishOp op
    else
      (Eng.pumpOps { e with remote := { e.remote with ops := e.remote.ops ++ [op], tag := (ptag + 1) % 2 ^ 16 } }).bump 26 1

/-- Operations whose final RESP has arrived and whose returned data has been accepted complete (R358). -/
def Eng.settleOps (e : Eng) : Eng :=
  ((e.remote.ops.filter fun o => o.answered && (o.dead || !e.owes o.owner)).foldl (fun e o => e.finishOp o) e).pumpOps

/-- A channel reset ends operations (R345, R378): one whose first flit has not been sent is withdrawn; the others are performed, and
what returns is discarded. -/
def Eng.killOps (f : RemOp → Bool) (e : Eng) : Eng :=
  Eng.pumpOps ((e.remote.ops.filter f).foldl (fun e o =>
    if e.unsentOp o then
      { e with
        link := e.link.withdraw o.ptag o.via
        remote := { e.remote with ops := e.remote.ops.filter fun x => x.ptag != o.ptag } }
    else e.updOp o.ptag fun o => { o with dead := true }) e)

/-- R376: a lost peer ends the operations in flight to it with MEMBER_LOST, below what R333 puts above it. -/
def Eng.loseOps (peer : Nat) (e : Eng) : Eng :=
  Eng.pumpOps ((e.remote.ops.filter fun o => o.args.target == peer).foldl (fun e o =>
    let st := statusMax o.res.status 0x33
    let e := if e.unsentOp o then { e with link := e.link.withdraw o.ptag o.via } else e
    e.finishOp { o with res := if st = 0x33 then { Result.ofStatus 0x33 0 with member := peer } else o.res }) e)

/-- RESP_ARRIVAL (R358, R362, R377): the next RESP packet from a port is taken; the final one completes the operation once
its data has been accepted. The second byte of WINDOW carries the window type (DESIGN CHOICE, log entry 31). -/
def Eng.respArrival (via : Via) (e : Eng) : Eng :=
  match e.inFirst via fun p => p.hdr.cls == 1 with
  | none => e
  | some p =>
    let e := e.inDrop via p
    match e.remote.ops.find? fun o => o.ptag == p.hdr.ptag && o.args.target == p.hdr.src && !o.answered with
    | none => e
    | some o =>
      let unit := match via with | .splice _ => 4 | _ => 3
      let index := match via with | .fabric j => j | .splice n => n | .loopback => 0
      let worse := fun (st : Nat) (e : Eng) => e.updOp o.ptag fun o => { o with res := { o.res with status := statusMax o.res.status st } }
      let type := p.hdr.window / 256
      let e :=
        if o.dead ∨ p.data.isEmpty then e
        else if o.args.opcode = 0x13 then
          if p.bad.isEmpty then e.write o.owner (placeBytes o.args.loc (p.data.take 8)) else worse 0x21 e
        else if o.args.opcode = 0x11 ∧ (type = 2 ∨ type = 3) then
          let w := winWord type
          let (ws, cut) := unpackBad w p.bad p.data.length 0 p.data
          let i0 := (p.hdr.offset - o.args.offset) / w
          let e := e.bump 29 p.data.length
          let e := ws.zipIdx.foldl (fun e z =>
            match z.1 with
            | none => e
            | some x =>
              if x.residueFault then (worse 0x22 e).bump 45 1 |>.logFault 0x15 unit index 0 none false
              else e.write o.owner (placeBytes (o.args.loc + w * (i0 + z.2)) (x.plane (8 * w)) ++
                placeBytes (o.args.loc + o.args.length + 2 * (i0 + z.2)) x.sides)) e
          let e := if !p.bad.isEmpty then worse 0x21 e else e
          if cut then (worse 0x22 e).logFault 0x15 unit index 0 none false else e
        else
          let ws := (p.data.zipIdx.filter fun b => !p.bad.contains (b.2 / 32)).map fun b =>
            (o.args.loc + (p.hdr.offset - o.args.offset) + b.2, b.1)
          let e := e.write o.owner ws
          if p.bad.isEmpty then e else worse 0x21 e
      let e := if p.hdr.last then e.updOp o.ptag fun o => { o with
          answered := true
          res :=
            let st := statusMax o.res.status p.hdr.kind
            { o.res with status := st, detail := if st = o.res.status then o.res.detail else p.hdr.window % 256 } } else e
      e.settleOps

/-! ### The target (R353 to R357, R375, R377) -/

/-- An open accumulate window. -/
def Eng.win? (e : Eng) (w : Nat) : Option AccWin := e.remote.wins.find? fun x => x.num == w

/-- An accumulate window changed. -/
def Eng.updWin (w : Nat) (f : AccWin → AccWin) (e : Eng) : Eng :=
  { e with remote := { e.remote with wins := mapIf (fun x => x.num == w) f e.remote.wins } }

/-- The Window Table entry of window `w`. -/
def Eng.winEntry (e : Eng) (rd : Nat → Byte) (w : Nat) : WinEntry := WinEntry.ofNat (rdRec rd (e.remote.winBase.toNat + 32 * w) 32)

/-- The entry by which an operation on window `w` is performed: an open accumulate window keeps its own (R353, R364). -/
def Eng.windowOf (e : Eng) (rd : Nat → Byte) (w : Nat) : WinEntry :=
  match e.win? w with
  | some a => if a.opened then a.entry else e.winEntry rd w
  | none => e.winEntry rd w

/-- Checks 0xC8 to 0xCB of the target. -/
def Eng.targetCheck (e : Eng) (rd : Nat → Byte) (h : PktHdr) : Option Nat :=
  if h.opcode = 0x14 then none
  else
    let n := e.windowOf rd h.window
    let won := e.win? h.window
    let acc := n.type == 2 || n.type == 3
    let isOpen := won.any (·.opened)
    let w := winWord n.type
    let admits := match h.opcode with
      | 0x10 => n.type == 1 && n.wr
      | 0x11 => (n.type == 1 && n.rd) || (acc && isOpen && n.rd)
      | 0x12 => acc && isOpen && ((h.kind == 0 && n.type == 2) || (h.kind == 1 && n.type == 3))
      | 0x13 => n.type == 1 && n.atom
      | _ => false
    let span := match h.opcode with | 0x12 => h.total * w | 0x13 => 8 | _ => h.total
    firstFail
      [(0xC8, e.remote.winBase == 0 || decide (e.remote.winCount.toNat ≤ h.window) || decide (n.type = 0 ∨ n.type > 3)),
       (0xC9, !admits),
       (0xCA, decide (h.offset + span > n.size)),
       (0xCB, acc && won.any (·.closing))]

/-- A RESP packet of an operation. -/
def Eng.respPacket (e : Eng) (t : TgtOp) (offset : Nat) (data : List Byte) (type : Nat) (last : Bool) : Packet :=
  { hdr := { PktHdr.ofNat 0 with
      dest := t.origin, src := e.link.ident, vc := 0, cls := 1, opcode := t.opcode, kind := if last then t.status else 0
      last := last, ptag := t.ptag, window := (if last then t.detail else 0) + 256 * type, offset := offset, pbytes := data.length }
    data := data, bad := [] }

/-- Whether an ADDX has words that have not committed (R357). -/
def Eng.adding (e : Eng) (origin ptag : Nat) : Bool :=
  e.stage.pendingUpds.any fun u => match u.part with
    | .addx _ o t => o == origin && t == ptag
    | .up _ _ _ _ => false

/-- Operations whose every byte is in place answer and leave (R357, R488). -/
def Eng.settleTgts (e : Eng) : Eng :=
  (e.remote.tgts.filter fun t =>
    t.last && t.waits.isEmpty && !e.owes (.remote t.origin t.ptag) && !e.adding t.origin t.ptag).foldl (fun e t =>
    let e := { e with remote := { e.remote with tgts := e.remote.tgts.erase t } }
    let e := if t.rejected then e else e.bump 27 1
    e.sendPacket t.via (e.respPacket t 0 [] 0 true)) e

/-- An arriving operation changed. -/
def Eng.updTgt (origin ptag : Nat) (f : TgtOp → TgtOp) (e : Eng) : Eng :=
  { e with remote := { e.remote with tgts := mapIf (fun t => t.origin == origin && t.ptag == ptag) f e.remote.tgts } }

/-- A word added into an accumulate window (R44, R45): a lost slot takes none. -/
def AccWin.add (a : AccWin) (i : Nat) (z : ZWord) : AccWin :=
  if a.lost.contains i then a else { a with words := lset a.words i fun x => zAdd (8 * winWord a.entry.type) x z }

/-- The status of an operation at the target raised. -/
def Eng.worseTgt (origin ptag st : Nat) (e : Eng) : Eng :=
  e.updTgt origin ptag fun t => { t with status := statusMax t.status st }

/-- An update of an ADDX issues at its bank (R133, R135): the words of the sector are added in one operation, none of them where the
adder fails its check (R46). On a window that has become faulted the operation ends with its status (R436). -/
def Eng.addWindow (fault : Bool) (slot : StageSlot) (w origin ptag : Nat) (ws : List (Nat × ZWord)) (e : Eng) : Eng :=
  match e.win? w with
  | none => e
  | some a =>
    let e := match a.faulted with | some st => e.worseTgt origin ptag st | none => e
    let live := ws.filter fun z => !a.lost.contains z.1
    if fault && !live.isEmpty then ((e.worseTgt origin ptag 0x22).bump 45 1).logFault 0x12 1 slot.1 slot.2.1 none false
    else (e.updWin w fun a => live.foldl (fun a z => a.add z.1 z.2) a).bump 28 live.length

/-- The words of a packet that enter a window: those that can be read and pass R23, from word `i0` on (R362, R377). -/
def goodWords (i0 : Nat) (ws : List (Option ZWord)) : List (Nat × ZWord) :=
  (ws.zipIdx.filterMap fun z => z.1.map fun x => (i0 + z.2, x)).filter fun z => !z.2.residueFault

/-- The updates of a packet of an ADDX. -/
def Eng.packetUpds (e : Eng) (p : Packet) : List StageUpd :=
  match e.win? p.hdr.window with
  | none => []
  | some a =>
    if p.hdr.opcode != 0x12 then []
    else
      let w := winWord a.entry.type
      e.stageUpds (.window p.hdr.window) (.addx p.hdr.window p.hdr.src p.hdr.ptag) (fun i => i * w / 32)
        (goodWords (p.hdr.offset / w) (unpackBad w p.bad p.data.length 0 p.data).1)

/-- The updates of a packet sent to their banks; those that issue at once are added, and the first of them meets the fault (R46,
R138). -/
def Eng.addPacket (fault : Bool) (via : Via) (p : Packet) (e : Eng) : Eng :=
  let (now, e) := e.sendUpdates (.xbar via) (e.packetUpds p)
  now.zipIdx.foldl (fun e u => e.addWindow (fault && u.2 == 0) u.1.slot p.hdr.window p.hdr.src p.hdr.ptag u.1.words) e

/-- The effect of one packet of an admitted operation at the target. Units that cannot be read are left out (R377). On a
faulted window the operation ends with the fault's status, and the words that are not lost take part as usual (R436). -/
def Eng.performPacket (rd : Nat → Byte) (bad : List BadUnit) (fault : Bool) (t : TgtOp) (p : Packet) (e : Eng) : Eng :=
  let h := p.hdr
  let n := t.entry
  let own := Owner.remote t.origin t.ptag
  let worse := Eng.worseTgt t.origin t.ptag
  let unit := match t.via with | .splice _ => 4 | _ => 3
  let index := match t.via with | .fabric j => j | .splice k => k | .loopback => 0
  match h.opcode with
  | 0x10 =>
    let ws := (p.data.zipIdx.filter fun b => !p.bad.contains (b.2 / 32)).map fun b => (n.base + h.offset + b.2, b.1)
    let e := e.write own ws
    if p.bad.isEmpty then e else worse 0x21 e
  | 0x11 =>
    if n.type = 1 then
      let a := n.base + h.offset
      let e := e.noteRead bad none a h.total
      let e := if (hits bad a h.total).isSome then worse 0x21 e else e
      (dataPieces bad a h.total).foldl (fun e x =>
        e.sendPacket t.via (e.respPacket t (h.offset + x.1) (rdBytes rd (a + x.1) x.2) 1 false)) e
    else
      match e.win? h.window with
      | none => e
      | some a =>
        let e := match a.faulted with | some st => worse st e | none => e
        let w := winWord n.type
        let i0 := h.offset / w
        (goodRuns (fun i => !a.lost.contains (i0 + i)) (h.total / w)).foldl (fun e r =>
          (packPackets 2048 w ((a.words.drop (i0 + r.1)).take r.2) 0 0 []).foldl (fun e x =>
            e.sendPacket t.via (e.respPacket t (h.offset + w * (r.1 + x.1)) x.2 n.type false)) e) e
  | 0x12 =>
    match e.win? h.window with
    | none => e
    | some a =>
      let e := match a.faulted with | some st => worse st e | none => e
      let w := winWord n.type
      let (ws, cut) := unpackBad w p.bad p.data.length 0 p.data
      let failed := ws.countP fun x => x.any (·.residueFault)
      let e := ((e.addPacket fault t.via p).bump 29 p.data.length).bump 45 failed
      let e := (List.range failed).foldl (fun e _ => (worse 0x22 e).logFault 0x15 unit index 0 none false) e
      let e := if p.bad.isEmpty then e else worse 0x21 e
      if cut then (worse 0x22 e).logFault 0x15 unit index 0 none false else e
  | 0x13 =>
    let a := n.base + h.offset
    let (ok, e) := if p.bad.isEmpty then e.readMem bad none [(a, 8)] else (false, e)
    if ok then
      let old := rdNat rd a 8
      (e.sendPacket t.via (e.respPacket t h.offset (leBytes 8 old) 0 false)).writeNat own a 8 ((old + leNat (p.data.take 8)) % 2 ^ 64)
    else worse 0x21 e
  | _ => if p.bad.isEmpty then e.trigAdd h.window (leNat (p.data.take 8)) else worse 0x21 e

/-- Whether the target reads the Window Table entry of an operation (R353): there is one, and the window is not open. -/
def Eng.readsEntry (e : Eng) (h : PktHdr) : Bool :=
  h.opcode != 0x14 && e.remote.winBase != 0 && decide (h.window < e.remote.winCount.toNat) && !(e.win? h.window).any (·.opened)

/-- The staging slots of an accumulate window that a packet reads: those of the words of a GET, and those of an ADDX whose updates
issue at once. -/
def Eng.packetSlots (e : Eng) (via : Via) (p : Packet) : List StageSlot :=
  match e.win? p.hdr.window with
  | none => []
  | some a =>
    let w := winWord a.entry.type
    if p.hdr.opcode = 0x11 then
      e.stageSlots (.window p.hdr.window) (((List.range (p.hdr.total / w)).map fun i => (p.hdr.offset / w + i) * w / 32).eraseDups)
    else (e.sendUpdates (.xbar via) (e.packetUpds p)).1.map (·.slot)

/-- Whether an operation may start (R357): a GET, FADD or SIGNAL when every earlier operation of its origin has been performed, any
other when every earlier one has started. -/
def Eng.tgtMayStart (e : Eng) (t : TgtOp) : Bool :=
  let earlier := (e.remote.tgts.takeWhile fun x => !(x.origin == t.origin && x.ptag == t.ptag)).filter fun x => x.origin == t.origin
  if t.opcode == 0x11 || t.opcode == 0x13 || t.opcode == 0x14 then earlier.isEmpty else earlier.all (·.started)

/-- The operation from a port whose next packet waits at the target and may be performed, with that packet. -/
def Eng.tgtNext (e : Eng) (via : Via) : Option (TgtOp × Packet) :=
  e.remote.tgts.findSome? fun t => (t.waits.head?).bind fun p =>
    if t.via == via && (t.started || e.tgtMayStart t) then some (t, p) else none

/-- A packet of an operation performed at the target. -/
def Eng.performNow (rd : Nat → Byte) (bad : List BadUnit) (fault : Bool) (t : TgtOp) (p : Packet) (e : Eng) : Eng :=
  (e.updTgt t.origin t.ptag fun t => { t with started := true }).performPacket rd bad fault t p

/-- The next OP packet from a port taken (R353, R357, R375). At the first, the entry is read and the checks run; an entry that cannot
be read ends the operation. A packet that may not be performed yet waits. -/
def Eng.takeOp (rd : Nat → Byte) (bad : List BadUnit) (fault : Bool) (via : Via) (p : Packet) (e : Eng) : Eng :=
  let h := p.hdr
  let e := e.inDrop via p
  if h.first then
    let (ok, e) := if e.readsEntry h then e.readMem bad none [(e.remote.winBase.toNat + 32 * h.window, 32)] else (true, e)
    let c := if ok then e.targetCheck rd h else none
    let st := if !ok then 0x21 else if c.isSome then 0x10 else 0
    let t : TgtOp := ⟨h.src, h.ptag, via, h.opcode, h.window, st != 0, h.last, st, c.getD 0, e.windowOf rd h.window, st != 0, []⟩
    let e := { e with remote := { e.remote with tgts := e.remote.tgts ++ [t] } }
    if st != 0 then e
    else if e.tgtMayStart t then e.performNow rd bad fault t p
    else e.updTgt h.src h.ptag fun t => { t with waits := [p] }
  else
    match e.remote.tgts.find? fun t => t.origin == h.src && t.ptag == h.ptag with
    | none => e
    | some t =>
      let e := e.updTgt h.src h.ptag fun t => { t with last := h.last }
      if t.rejected then e
      else if t.started && t.waits.isEmpty then e.performNow rd bad fault t p
      else e.updTgt h.src h.ptag fun t => { t with waits := t.waits ++ [p] }

/-- REMOTE_OP_ARRIVAL (R353, R357, R375): an operation of the port that waits goes on; where none can, the next OP packet from the
port is taken. -/
def Eng.remoteOpArrival (rd : Nat → Byte) (bad : List BadUnit) (fault : Bool) (via : Via) (e : Eng) : Eng :=
  match e.tgtNext via with
  | some (t, p) => ((e.updTgt t.origin t.ptag fun t => { t with waits := t.waits.drop 1 }).performNow rd bad fault t p).settleTgts
  | none =>
    match e.inFirst via fun p => p.hdr.cls == 0 with
    | none => e
    | some p => (e.takeOp rd bad fault via p).settleTgts

/-- The staging slots that the arrival of an operation's packet reads. -/
def Eng.arrivalSlots (e : Eng) (via : Via) : List StageSlot :=
  match e.tgtNext via with
  | some (_, p) => e.packetSlots via p
  | none => ((e.inFirst via fun p => p.hdr.cls == 0).map (e.packetSlots via)).getD []

/-! ### Accumulate windows (R364 to R366) -/

/-- A write to ACC_WINDOW_OPEN; none where R364 refuses it. -/
def Eng.openWindow (rd : Nat → Byte) (w : Nat) (e : Eng) : Option Eng :=
  let n := e.winEntry rd w
  if e.remote.winCount.toNat ≤ w ∨ ¬ (n.type = 2 ∨ n.type = 3) ∨ (e.win? w).isSome ∨ 64 ≤ e.remote.wins.length
      ∨ e.remote.winBusy.isSome then none
  else
    ((e.noteTook [(e.remote.winBase.toNat + 32 * w, 32)]).allot (.window w) n.size).map fun e => { e with remote := { e.remote with
      wins := e.remote.wins ++ [⟨w, n, [], false, false, none, []⟩], winBusy := some (true, w), winLast := w
      winFailed := false, winFaulted := false } }

/-- ACC_WINDOW_OPENED (R365): the entry is read once more and the home words are placed. A window that meets both a word that fails
R23 and a unit that cannot be read takes the status of the word (DESIGN CHOICE, log entry 166). -/
def Eng.windowOpened (rd : Nat → Byte) (bad : List BadUnit) (e : Eng) : Eng :=
  match e.remote.winBusy with
  | some (true, w) =>
    match e.win? w with
    | none => e
    | some a =>
      let wb := winWord a.entry.type
      let n := a.entry.size / wb
      let e := { e with remote := { e.remote with winBusy := none } }
      let (ok, e) := e.readMem bad none [(e.remote.winBase.toNat + 32 * w, 32)]
      if !ok then
        let e := e.release (.window w)
        { e with remote := { e.remote with winFailed := true, wins := e.remote.wins.filter fun x => x.num != w } }
      else
        let e := (e.noteRead bad none a.entry.base (wb * n)).noteRead bad none a.entry.sideBase (2 * n)
        let gone := fun i => (hits bad (a.entry.base + wb * i) wb).isSome || (hits bad (a.entry.sideBase + 2 * i) 2).isSome
        let ws := (List.range n).map fun i => rdZ rd (8 * wb) (a.entry.base + wb * i) (a.entry.sideBase + 2 * i)
        let fail := (List.range n).filter fun i => !gone i && (ws.getD i ZWord.zero).residueFault
        let lost := (List.range n).filter fun i => gone i || fail.contains i
        let st := if lost = [] then none else some (if fail = [] then 0x21 else 0x22)
        let e := e.updWin w fun a => { a with
          opened := true, faulted := st, lost := lost
          words := ws.zipIdx.map fun z => if lost.contains z.2 then ZWord.zero else z.1 }
        let e := ({ e with remote := { e.remote with winFaulted := st.isSome } }).rewroteStaging (.window w)
        fail.foldl (fun e i => (e.bump 45 1).logFault 0x15 2 (portOf (a.entry.base + wb * i)) 0 none false) e
  | _ => e

/-- A write to ACC_WINDOW_CLOSE; none where R366 refuses it. -/
def Eng.closeWindow (w : Nat) (e : Eng) : Option Eng :=
  match e.win? w with
  | none => none
  | some a =>
    if e.remote.winBusy.isSome ∨ ¬ a.opened then none
    else
      let e := e.updWin w fun a => { a with closing := true }
      some { e with remote := { e.remote with
        winBusy := some (false, w), winLast := w, winFailed := false, winFaulted := a.faulted.isSome } }

/-- Whether an admitted operation on a window has not been performed. -/
def Eng.windowInUse (e : Eng) (w : Nat) : Bool :=
  e.remote.tgts.any fun t => !t.rejected && t.window == w && (t.opcode == 0x11 || t.opcode == 0x12)

/-- The staging slots that the close in progress reads. -/
def Eng.closeSlots (e : Eng) : List StageSlot :=
  match e.remote.winBusy with
  | some (false, w) =>
    if e.windowInUse w then [] else ((e.win? w).map fun a => e.stageSlots (.window w) (List.range (cdiv a.entry.size 32))).getD []
  | _ => []

/-- ACC_WINDOW_CLOSED (R366, R436): once every admitted operation on the window has been performed, every word but the lost
ones is written home and the staging is free. -/
def Eng.windowClosed (e : Eng) : Eng :=
  match e.remote.winBusy with
  | some (false, w) =>
    match e.win? w with
    | none => e
    | some a =>
      if e.windowInUse w then e
      else
        let wb := winWord a.entry.type
        let ws := a.words.zipIdx.flatMap fun z =>
          if a.lost.contains z.2 then []
          else placeBytes (a.entry.base + wb * z.2) (z.1.plane (8 * wb)) ++ placeBytes (a.entry.sideBase + 2 * z.2) z.1.sides
        let e := (e.write (.home w) ws).release (.window w)
        { e with remote := { e.remote with
          winBusy := none, winFaulted := a.faulted.isSome, wins := e.remote.wins.filter fun x => x.num != w } }
  | _ => e

/-- A staging slot of a window is lost (R436): its words are, and the window is faulted. -/
def Eng.loseWords (w sector : Nat) (e : Eng) : Eng :=
  let e := e.updWin w fun a =>
    let per := 32 / winWord a.entry.type
    { a with
      faulted := match a.faulted with | some s => some s | none => some 0x21
      lost := a.lost ++ ((List.range per).map (sector * per + ·)).filter fun i => !a.lost.contains i }
  if e.remote.winLast = w then { e with remote := { e.remote with winFaulted := true } } else e

/-! ### Firing (R371, R372) -/

/-- Whether an entry fires. -/
def Trig.fires (t : Trig) : Bool := t.armed && t.status == 0 && decide (t.thresh.toNat ≤ t.count.toNat)

/-- The entry after a firing. -/
def Trig.advance (t : Trig) : Trig :=
  if t.period = 0 then { t with armed := false } else { t with thresh := t.thresh + BitVec.ofNat 64 t.period }

/-- TRIGGER_FIRE (R371) of an entry without a launch: the action is handed on. -/
def Eng.fire (i : Nat) (e : Eng) : Eng :=
  let t := e.trig i
  if i < 4096 ∧ t.fires then
    let e := (e.updTrig i Trig.advance).bump 30 1
    if t.aop = 0 then e else { e with remote := { e.remote with fired := e.remote.fired ++ [(i, t.args)] } }
  else e

/-- TRIGGER_ACTION_ISSUE (R360, R372): the oldest fired action is checked and issued; it waits while 256 operations are in
flight. -/
def Eng.actionIssue (rd : Nat → Byte) (bad : List BadUnit) (e : Eng) : Eng :=
  match e.remote.fired with
  | [] => e
  | (i, a) :: r =>
    if 256 ≤ e.inFlight then e
    else
      let e := { e with remote := { e.remote with fired := r } }
      match e.originCheck a true with
      | some d => e.trigFail i 0x10 d 0
      | none => e.issueOp rd bad (.trig i) a

end Sys2Proof.Machine
end

