-- ==== Sys2Proof/Machine/Trees.lean ====
section
/-!
DEFINITION. Groups of collectives (11): the double binary trees of a level (R389), the levels of a group (R388), the
checks of a collective record (R381, R382, R385) and its signature (R406).
-/

namespace Sys2Proof.Machine

/-! ### Double binary trees (R389) -/

/-- pos(t, r, n) of R389. -/
def treePos (t r n : Nat) : Nat := if t = 0 then r + 1 else if n % 2 = 0 then n - r else (r + 1) % n + 1

/-- root(n) of R389, a position. -/
def treeRoot (n : Nat) : Nat := if n = 0 then 0 else 2 ^ Nat.log2 n

/-- children(v, n) of R389. -/
def treeChildren (v n : Nat) : List Nat :=
  let b := lowbit v
  if b ≤ 1 then []
  else (v - b / 2) :: (((List.range (Nat.log2 b)).map fun i => v + b / 2 ^ (i + 1)).find? fun x => decide (x ≤ n)).toList

/-- The member of a level at a position of tree `t`. -/
def levelAt (t : Nat) (l : List Nat) (v : Nat) : Option Nat :=
  ((List.range l.length).find? fun r => treePos t r l.length == v).bind fun r => l[r]?

/-- The root of tree `t` of a level. -/
def levelRoot (t : Nat) (l : List Nat) : Option Nat := levelAt t l (treeRoot l.length)

/-- The children of a member in tree `t` of a level. -/
def levelChildren (t : Nat) (l : List Nat) (me : Nat) : List Nat :=
  if l.contains me then (treeChildren (treePos t (l.idxOf me) l.length) l.length).filterMap (levelAt t l) else []

/-- The parent of a member in tree `t` of a level. -/
def levelParent (t : Nat) (l : List Nat) (me : Nat) : Option Nat := l.find? fun u => (levelChildren t l u).contains me

/-! ### Levels (R388) -/

/-- The members of one package (node [15:5] and package [4:2] of the identity), in list order. -/
def Group.package (g : Group) (p : Nat) : List Nat := g.members.filter fun m => m / 4 == p

/-- The tree-t roots of the packages of a node, ranked by package. -/
def Group.node (g : Group) (t n : Nat) : List Nat := (List.range 8).filterMap fun p => levelRoot t (g.package (8 * n + p))

/-- The tree-t roots of the nodes, ranked by node. -/
def Group.machine (g : Group) (t : Nat) : List Nat :=
  (((g.members.map (· / 32)).eraseDups).mergeSort fun a b => decide (a ≤ b)).filterMap fun n => levelRoot t (g.node t n)

/-- The members of the level of `me`, ranked; empty where `me` has no place in that level. -/
def Group.level (g : Group) (me l t : Nat) : List Nat :=
  let x :=
    if g.hier then
      if l = 0 then g.package (me / 4) else if l = 1 then g.node t (me / 32) else if l = 2 then g.machine t else []
    else if l = 0 then g.members else []
  if x.contains me then x else []

/-- The top root of tree `t`; that of tree 0 is the deciding root. -/
def Group.topRoot (g : Group) (t : Nat) : Nat :=
  (levelRoot t (if g.hier then g.machine t else g.members)).getD 65536

/-- The highest level of a group. -/
def Group.topLevel (g : Group) : Nat := if g.hier then 2 else 0

/-- The levels that `me` has a place in, in tree `t`. -/
def Group.levels (g : Group) (me t : Nat) : List Nat := (List.range 3).filter fun l => !(g.level me l t).isEmpty

/-- The parent of `me` in tree `t`, with its level: `me` has one at its highest level at most. -/
def Group.parent (g : Group) (me t : Nat) : Option (Nat × Nat) :=
  (List.range 3).findSome? fun l => (levelParent t (g.level me l t) me).map fun u => (l, u)

/-- The children of `me` in tree `t`, with their levels. -/
def Group.children (g : Group) (me t : Nat) : List (Nat × Nat) :=
  (List.range 3).flatMap fun l => (levelChildren t (g.level me l t) me).map fun u => (l, u)

/-- The children of `me` in tree `t` at one level. -/
def Group.kids (g : Group) (me t l : Nat) : List Nat := levelChildren t (g.level me l t) me

/-- The members that `me` meets by one hop (R394). -/
def CollRec.hops (r : CollRec) (g : Group) (me : Nat) : List Nat :=
  if r.op = 3 ∨ r.op = 4 then
    let root := g.members.getD r.root 65536
    let tops := [g.topRoot 0, g.topRoot 1]
    ((if me = root then tops else []) ++ (if tops.contains me then [root] else [])).filter (· != me)
  else []

/-- Level and tree in which `me` meets a neighbour: the first tree where it has a hop to it, or the tree of the top root that it
meets by one hop (R396, R407). -/
def CollRec.meets (r : CollRec) (g : Group) (me n : Nat) : Nat × Nat :=
  let at_ := fun (t : Nat) => ((g.parent me t).toList ++ g.children me t).find? fun x => x.2 == n
  match (at_ 0).map (·.1), (at_ 1).map (·.1) with
  | some l, _ => (l, 0)
  | none, some l => (l, 1)
  | none, none => (if r.op = 4 then 0 else g.topLevel, if g.topRoot 0 = n ∨ g.topRoot 0 = me then 0 else 1)

/-- Every neighbour of `me` in a collective, one-hop partners included (R407). -/
def CollRec.neighbours (r : CollRec) (g : Group) (me : Nat) : List Nat :=
  (((List.range 2).flatMap fun t => (g.parent me t).toList.map (·.2) ++ (g.children me t).map (·.2)) ++ r.hops g me).eraseDups

/-! ### Records (R381, R382, R385, R390, R391, R406) -/

/-- Zohus types. -/
def CollRec.isZ (r : CollRec) : Bool := r.type == 1 || r.type == 2

/-- Float types. -/
def CollRec.isFloat (r : CollRec) : Bool := decide (3 ≤ r.type ∧ r.type ≤ 6)

/-- Format code of a float type. -/
def CollRec.fmt (r : CollRec) : Nat := if r.type = 3 then 5 else if r.type = 4 then 4 else if r.type = 5 then 6 else 7

/-- W of the sums. -/
def CollRec.W (r : CollRec) : Nat := if r.acc = 1 then 256 else 128

/-- Bytes of one input element. -/
def CollRec.inBytes (r : CollRec) : Nat :=
  if r.isZ then r.W / 8 else if r.isFloat then fmtBits r.fmt / 8 else if r.type = 7 then 8 else 1

/-- Whether the output holds Zohus words (R400). -/
def CollRec.outZ (r : CollRec) : Bool := r.isZ || (r.isFloat && r.zout)

/-- Bytes of one output element. -/
def CollRec.outBytes (r : CollRec) : Nat := if r.outZ then r.W / 8 else r.inBytes

/-- Whether the collective moves chunks. -/
def CollRec.bulk (r : CollRec) : Bool := decide (3 ≤ r.op)

/-- Whether the collective sums up a tree. -/
def CollRec.sums (r : CollRec) : Bool := decide (4 ≤ r.op)

/-- Whether the record's ANCHOR is used. -/
def CollRec.usesAnchor (r : CollRec) : Bool := r.isZ || (r.isFloat && r.aexpl)

/-- The rows of R382. -/
def CollRec.rowOk (r : CollRec) : Bool :=
  let c := r.count
  match r.op with
  | 1 => r.type == 0 && r.subop == 0 && c == 0
  | 2 =>
    (r.type == 1 && r.subop == 0 && decide (1 ≤ c ∧ c ≤ 4)) ||
      (r.type == 7 && decide (r.subop = 1 ∨ r.subop = 2) && decide (1 ≤ c ∧ c ≤ 8)) ||
      (r.type == 8 && decide (r.subop = 3 ∨ r.subop = 4) && decide (8 ≤ c ∧ c ≤ 64) && c % 8 == 0)
  | 3 => r.type == 0 && r.subop == 0 && c % 32 == 0 && decide (32 ≤ c)
  | _ => decide (1 ≤ r.type ∧ r.type ≤ 6) && r.subop == 0 && decide (1 ≤ c)

/-- Whether this member reads SRC. -/
def CollRec.reads (r : CollRec) (isRoot : Bool) : Bool := r.op != 1 && (r.op != 3 || isRoot)

/-- Whether this member writes DST. -/
def CollRec.writes (r : CollRec) (isRoot : Bool) : Bool :=
  r.op == 2 || r.op == 5 || (r.op == 3 && !isRoot) || (r.op == 4 && isRoot)

/-- v of R406: the chunk exponent with 15 replaced. -/
def CollRec.chunkExp (r : CollRec) (dflt : Nat) : Nat := if r.chunkLog = 15 then dflt else r.chunkLog

/-- The staging need of R391. -/
def CollRec.staging (r : CollRec) (hier : Bool) (dflt : Nat) : Nat :=
  if r.bulk then 16 * (if hier then 3 else 1) * (16384 * 2 ^ r.chunkExp dflt) else 0

/-- R406: the signature. -/
def CollRec.signature (r : CollRec) (dflt : Nat) : Nat :=
  let an := if r.isFloat && !r.aexpl then 0 else unsext 12 r.anchor
  let h := mix (r.op * 2 ^ 56 ||| r.subop * 2 ^ 52 ||| r.type * 2 ^ 48 ||| r.root * 2 ^ 32 ||| r.group)
  let h := mix (h ^^^ r.count)
  mix (h ^^^ (r.seq * 2 ^ 32 ||| r.rmode * 2 ^ 24 ||| r.chunkExp dflt * 2 ^ 20 ||| b2n r.aexpl * 2 ^ 14
    ||| b2n r.zout * 2 ^ 13 ||| r.acc * 2 ^ 12 ||| an))

/-! ### The group cache (R386, R387) -/

/-- The group read from its entry and list; none where the entry breaks the checks of reason 4. -/
def Eng.readGroup (e : Eng) (rd : Nat → Byte) (n : Nat) : Option Group :=
  let r := rdRec rd (e.coll.groupBase.toNat + 16 * n) 16
  let m := fld r 0 17
  let l := fld r 64 64
  if m = 0 ∨ 65536 < m ∨ l = 0 ∨ l % 32 ≠ 0 ∨ fld r 18 46 ≠ 0 then none
  else some ⟨n, bit r 17, (List.range m).map fun i => rdNat rd (l + 2 * i) 2⟩

/-- A group from the cache or from memory. -/
def Eng.group? (e : Eng) (rd : Nat → Byte) (n : Nat) : Option Group :=
  match e.coll.cache.find? fun g => g.num == n with
  | some g => some g
  | none => if e.coll.groupCount.toNat ≤ n then none else e.readGroup rd n

/-- Whether a group has a collective in progress or waiting. -/
def Eng.groupBusy (e : Eng) (n : Nat) : Bool :=
  e.coll.colls.any (fun c => c.group.num == n) || e.coll.waiting.any fun w => w.2.group == n

/-- The memory that the caching of a group reads (R387): its entry and its member list. -/
def Eng.groupReads (e : Eng) (rd : Nat → Byte) (n : Nat) : List (Nat × Nat) :=
  if e.coll.groupCount.toNat ≤ n then []
  else
    let a := e.coll.groupBase.toNat + 16 * n
    let r := rdRec rd a 16
    (a, 16) :: (if (e.readGroup rd n).isSome then [(fld r 64 64, 2 * fld r 0 17)] else [])

/-- The cache with a group used last (R387): the least recently used group without a collective leaves a full cache; one that no
group can leave stays as it is. -/
def Eng.cacheGroup (rd : Nat → Byte) (n : Nat) (e : Eng) : Eng :=
  match e.group? rd n with
  | none => e
  | some g =>
    let rest := e.coll.cache.filter fun x => x.num != n
    let e := if e.coll.cache.any fun x => x.num == n then e else e.noteTook (e.groupReads rd n)
    let keep := fun (l : List Group) => { e with coll := { e.coll with cache := g :: l } }
    if rest.length < 64 then keep rest
    else match rest.reverse.find? fun x => !e.groupBusy x.num with
      | some x => keep (rest.filter fun y => y.num != x.num)
      | none => e

/-- A group that a message names, cached where it is not (R387), once its reads can be made (R476, R479). -/
def Eng.cacheNamed (rd : Nat → Byte) (n : Nat) (e : Eng) : Eng :=
  if e.coll.cache.any (fun x => x.num == n) || e.holdsBack (e.groupReads rd n) then e else e.cacheGroup rd n

/-- R385: the first reason that refuses a launch, with whether an abort request is sent. -/
def Eng.refusal (e : Eng) (rd : Nat → Byte) (r : CollRec) : Option (Nat × Bool) :=
  let me := e.link.ident
  let g := e.group? rd r.group
  let ms := (g.map (·.members)).getD []
  let isRoot := ms[r.root]? == some me
  let src := r.reads isRoot && (r.src == 0 || (r.isZ && r.srcSide == 0))
  let dst := r.writes isRoot && (r.dst == 0 || (r.outZ && r.dstSide == 0))
  let bad : List (Nat × Bool × Bool) :=
    [(1, r.version != 4 || decide (r.op = 0 ∨ 5 < r.op ∨ 4 < r.subop ∨ 8 < r.type ∨ 3 < r.rmode
        ∨ (8 < r.chunkLog ∧ r.chunkLog < 15)) || r.reserved, true),
     (2, !r.rowOk || (r.isZ && r.acc != (if r.type = 2 then 1 else 0)) || (!r.usesAnchor && r.anchor != 0), true),
     (3, [r.src, r.srcSide, r.dst, r.dstSide, r.result].any (· % 32 != 0) || src || dst, true),
     (4, decide (e.coll.groupCount.toNat ≤ r.group) || g.isNone || ms.count me != 1, false),
     (5, decide (ms.length ≤ r.root), true),
     (6, !e.link.identValid || (g.any fun g => (r.neighbours g me).any fun n => (e.route n).isNone), false),
     (7, g.any fun g => decide (e.stage.stagingAvailable < r.staging g.hier e.coll.chunkDefault.toNat), true)]
  (bad.find? (·.2.1)).map fun x => (x.1, x.2.2)

end Sys2Proof.Machine
end

