-- ==== Sys2Proof/Machine/Coll.lean ====
section
/-!
DEFINITION. Collectives at work (11): messages, abort requests and ends (R407 to R412), the exact reduction (R397 to R401),
the flow of chunks under credits (R390 to R395), the short path (R402), the ending rounds (R409, R415), launches (R380 to
R385), heartbeats and losses (R416, R417). A collective in progress is named by its group, of which at most one is.
-/

namespace Sys2Proof.Machine

/-! ### Lookup and messages -/

/-- The collective in progress of a group. -/
def Eng.coll? (e : Eng) (g : Nat) : Option Coll := e.coll.colls.find? fun c => c.group.num == g

/-- A collective changed. -/
def Eng.updColl (g : Nat) (f : Coll → Coll) (e : Eng) : Eng :=
  { e with coll := { e.coll with colls := mapIf (fun c => c.group.num == g) f e.coll.colls } }

/-- Whether `me` is the member of rank ROOT. -/
def Coll.isRoot (c : Coll) (me : Nat) : Bool := c.group.members[c.rcd.root]? == some me

/-- Identity of the member of rank ROOT. -/
def Coll.rootId (c : Coll) : Nat := c.group.members.getD c.rcd.root 65536

/-- The header of a message (R396). -/
def Coll.header (c : Coll) (me kind level tree : Nat) : CollHdr where
  kind := kind
  op := c.rcd.op
  type := c.rcd.type
  level := level
  tree := tree
  late := false
  group := c.group.num
  sender := me
  named := 0
  seq := c.rcd.seq
  index := 0
  elems := 0
  status := 0
  signature := c.sig

/-- A collective message put on its route: chunks on VC1, everything else on VC2 (R404). It restarts the count of R414; HEARTBEAT
and ECHO belong to no collective. -/
def Eng.collSend (dest : Nat) (h : CollHdr) (offset : Nat) (first last : Bool) (payload : List Byte) (e : Eng) : Eng :=
  match e.route dest with
  | none => e
  | some via =>
    let chunk := h.kind == 2 || h.kind == 3
    let d := leBytes 32 h.toNat ++ payload
    let p : Packet :=
      { hdr := { PktHdr.ofNat 0 with
          dest := dest, src := e.link.ident, vc := if chunk then 1 else 2, cls := 2, first := first, last := last
          offset := offset, pbytes := d.length }
        data := d, bad := [] }
    let e := (e.sendPacket via p).bump 38 (if chunk then d.length else 0)
    if h.kind < 12 then e.updColl h.group fun c => { c with since := e.cue } else e

/-- The leaving of the chunk packets sent last to a neighbour, noted with those of other routes. -/
def Eng.noteLeaving (e : Eng) (dest : Nat) (ls : List Leaving) : List Leaving :=
  match e.route dest with
  | none => ls
  | some via => ls.filter (fun x => x.1 != via) ++ [e.leaving 1 via]

/-- A message in one packet. -/
def Eng.collTell (dest : Nat) (h : CollHdr) (payload : List Byte) (e : Eng) : Eng := e.collSend dest h 0 true true payload

/-- One message to each child of tree 0. -/
def Eng.collDownAll (c : Coll) (f : CollHdr → CollHdr) (payload : List Byte) (e : Eng) : Eng :=
  (c.group.children e.link.ident 0).foldl (fun e x => e.collTell x.2 (f (c.header e.link.ident 0 x.1 0)) payload) e

/-! ### The end of a collective (R410 to R412) -/

/-- The bytes of DST and DST_SIDE that this member writes. -/
def Coll.dstBytes (c : Coll) (me : Nat) : List Nat :=
  if c.rcd.writes (c.isRoot me) then
    (List.range (c.rcd.count * c.rcd.outBytes)).map (c.rcd.dst + ·) ++
      (if c.rcd.outZ then (List.range (2 * c.rcd.count)).map (c.rcd.dstSide + ·) else [])
  else []

/-- Whether an end leaves DST complete: the first two rows of R410. -/
def endComplete (st : Nat) : Bool := decide (st < 0x10) || st == 0x32

/-- The result record of R411 as a number. -/
def collResult (st named slowest seq : Nat) (late : Bool) (r : Report) : Nat :=
  st % 256 + b2n late * 2 ^ 8 + named % 65536 * 2 ^ 16 + slowest % 65536 * 2 ^ 32 + sat32 r.low * 2 ^ 64
    + sat32 r.ranged * 2 ^ 96 + sat32 r.nonfin * 2 ^ 128 + seq % 2 ^ 32 * 2 ^ 160

/-- The result record written where RESULT is non-zero, and then DONE (R411), for a member whose part ends. -/
def Eng.collNotify (rcd : CollRec) (st named slowest : Nat) (late : Bool) (r : Report) (e : Eng) : Eng :=
  let e := if rcd.result = 0 then e
    else e.writeNat (.coll rcd.group 0) rcd.result 32 (collResult st named slowest rcd.seq late r)
  let e := if endComplete st then e.trigAdd rcd.done 1 else e.trigFail rcd.done st 0 named
  e.bump (if endComplete st then 32 else 33) 1

/-- The end of a collective remembered, so that its late messages are dropped; `relay` tells that an OUTCOME is still to be
forwarded (DEDUCED, log entry 32), `joined` whose JOIN has been received. -/
def Eng.noteEnded (g seq : Nat) (relay : Bool) (joined : List Nat) (e : Eng) : Eng :=
  { e with coll := { e.coll with
      ended := ⟨g, seq, relay, joined⟩ :: e.coll.ended.filter fun x => !(x.group == g && (x.seq == seq || !x.relay)) } }

/-- Whether an update of staging is of a collective of a group. -/
def StagePart.ofColl (g : Nat) : StagePart → Bool
  | .up x _ _ _ => x == g
  | .addx _ _ _ => false

/-- A collective of this member leaves: what it has not added is dropped. -/
def Eng.collForget (g seq : Nat) (joined : List Nat) (e : Eng) : Eng :=
  Eng.noteEnded g seq false joined
    ({ e with coll := { e.coll with colls := e.coll.colls.filter fun c => c.group.num != g } }.dropUpdates (StagePart.ofColl g))

/-- A member's part ends (R410, R411): the contents of DST are undefined unless the end is complete; counts and the slowest
member stand only in a complete end. -/
def Eng.collEnd (g st named : Nat) (late : Bool) (r : Report) (e : Eng) : Eng :=
  match e.coll? g with
  | none => e
  | some c =>
    let ok := endComplete st
    let r : Report := if ok then r else ⟨0, 0, 0, 0, 0⟩
    let e := if ok then e else e.freeBytes (c.dstBytes e.link.ident)
    let e := (e.release (.coll g)).collForget g c.rcd.seq c.joined
    let e := e.collNotify c.rcd st named r.slowest late r
    e.bump 35 (b2n (ok && c.rcd.bulk && r.slowest == e.link.ident))

/-- The 16 payload bytes of a REPORT or an OUTCOME. -/
def Report.bytes (r : Report) : List Byte :=
  leBytes 4 (sat32 r.low) ++ leBytes 4 (sat32 r.ranged) ++ leBytes 4 (sat32 r.nonfin) ++ leBytes 4 r.slowest

/-- The report that 16 payload bytes hold. -/
def Report.ofBytes (src : Nat) (b : List Byte) : Report :=
  ⟨src, leNat (b.take 4), leNat ((b.drop 4).take 4), leNat ((b.drop 8).take 4), leNat ((b.drop 12).take 4)⟩

/-- An OUTCOME sent to the children of tree 0, and this member's own end by it (R409, R410). -/
def Eng.collOutcome (c : Coll) (st named : Nat) (late : Bool) (r : Report) (e : Eng) : Eng :=
  let e := e.collDownAll c (fun h => { h with kind := 10, status := st, named := named, late := late }) r.bytes
  e.collEnd c.group.num (if late then statusMax st 0x32 else st) named late r

/-! ### Abort requests (R408, R409) -/

/-- NAMED of the outcome of an abort request (R409): `src` made the request, `named` is the member it names. -/
def Coll.abortNamed (c : Coll) (st named src : Nat) (sigs : List Byte) : Nat :=
  if st = 0x31 then 0
  else if st = 0x30 then
    if leNat ((sigs.drop 8).take 8) ≠ c.sig then named else if leNat (sigs.take 8) ≠ c.sig then src else named
  else src

/-- An abort request arises at, or reaches, this member (R408): the deciding root decides, or notes a late one; any other
member forwards one and stops sending chunks. The header's SENDER stays the requester's (DEDUCED, log entry 33). -/
def Eng.abortReq (g st named src : Nat) (sigs : List Byte) (e : Eng) : Eng :=
  match e.coll? g with
  | none => e
  | some c =>
    if !c.rcd.bulk && c.shortSent then e
    else
      match c.group.parent e.link.ident 0 with
      | some (l, u) =>
        if c.aborted then e.bump 37 1
        else
          let h := { c.header e.link.ident 9 l 0 with status := st, named := named, sender := src }
          (e.collTell u h sigs).updColl g fun c => { c with aborted := true }
      | none =>
        if c.committed then (if c.late then e.bump 37 1 else e.updColl g fun c => { c with late := true })
        else e.collOutcome c st (c.abortNamed st named src sigs) false ⟨0, 0, 0, 0, 0⟩

/-- An abort request of this member: a fault names the requester. -/
def Eng.abortSelf (g st : Nat) (e : Eng) : Eng :=
  e.abortReq g st (if st = 0x31 then 0 else e.link.ident) e.link.ident []

/-- A residue fault in a received packed word or in the words read (R362, R46): logged, and the abort request of R408. -/
def Eng.collResidue (g unit index n : Nat) (e : Eng) : Eng :=
  if n = 0 then e else ((e.bump 45 n).logFault 0x15 unit index 0 none false).abortSelf g 0x22

/-! ### Exact reduction (R397 to R400) -/

/-- Elements of a chunk. -/
def Coll.wc (c : Coll) : Nat := 16384 * 2 ^ c.chunkLog / (if c.rcd.type = 0 then 1 else c.rcd.W / 8)

/-- C of R390. -/
def Coll.chunks (c : Coll) : Nat := if c.rcd.bulk then cdiv c.rcd.count c.wc else 0

/-- Elements of chunk `i`. -/
def Coll.len (c : Coll) (i : Nat) : Nat := min c.wc (c.rcd.count - i * c.wc)

/-- Element `j` of a float SRC. -/
def CollRec.elem (r : CollRec) (rd : Nat → Byte) (j : Nat) : Elem :=
  decodeElem r.fmt (rdNat rd (r.src + r.inBytes * j) r.inBytes)

/-- R397, R399: the word of element `j`, and whether it is a low miss. -/
def CollRec.word (r : CollRec) (rd : Nat → Byte) (anchor : Int) (j : Nat) : ZWord × Bool :=
  if r.isZ then (rdZ rd r.W (r.src + r.W / 8 * j) (r.srcSide + 2 * j), false)
  else
    match r.elem rd j with
    | .nan => (ZWord.ofInt r.W 0 3 false, false)
    | .inf s => (ZWord.ofInt r.W 0 (if s then 2 else 1) false, false)
    | .fin n x =>
      let q := placeProduct r.W anchor (.fin n x)
      (ZWord.ofInt r.W q.p 0 q.high, q.low)

/-- R398: this member's contribution to the exponent phase. -/
def CollRec.topExp (r : CollRec) (rd : Nat → Byte) : Int :=
  (maxInt ((List.range r.count).filterMap fun j => elemLog (r.elem rd j))).getD (-(2 ^ 63 : Int))

/-- R398: the anchor from the group's exponent. -/
def CollRec.expAnchor (r : CollRec) (E : Int) : Int := if E = -(2 ^ 63 : Int) then 0 else E + 17 - windowTop r.W

/-- R400: the output bits of a sum. -/
def CollRec.outBits (r : CollRec) (anchor : Int) (z : ZWord) : Nat :=
  match classifyWord r.W anchor z with
  | .special s => specialBits r.fmt s
  | .num n x => if n = 0 then 0 else roundTo r.fmt r.rmode 0 (decide (n < 0)) n.natAbs x

/-- Range-faulted and non-finite sums of a list (R400). -/
def CollRec.sumCounts (r : CollRec) (anchor : Int) (zs : List ZWord) : Nat × Nat :=
  (zs.countP fun z => match classifyWord r.W anchor z with | .special (.range _) => true | _ => false,
    zs.countP fun z => match classifyWord r.W anchor z with | .special .nan => true | .special (.inf _) => true | _ => false)

/-- Bytes cut into pieces of at most 2,016 bytes from an offset. -/
def bytePieces : Nat → Nat → List Byte → List (Nat × List Byte)
  | 0, _, _ => []
  | n + 1, o, b => if b.isEmpty then [] else (o, b.take 2016) :: bytePieces n (o + 2016) (b.drop 2016)

/-- The pieces of words `lo` onward of a chunk's output; `fin` tells that they end the chunk. -/
def CollRec.outPieces (r : CollRec) (anchor : Int) (lo : Nat) (zs : List ZWord) (fin : Bool) : List Piece :=
  let l := if r.outZ then (packPackets 2016 (r.W / 8) zs 0 0 []).map fun x => ((lo + x.1) * (r.W / 8), x.2)
    else bytePieces zs.length (lo * r.outBytes) (zs.flatMap fun z => leBytes r.outBytes (r.outBits anchor z))
  l.zipIdx.map fun x => (x.1.1, x.1.2, fin && x.2 + 1 == l.length)

/-- The writes of a piece of chunk `i` at DST, and the words of it that fail their residue. -/
def Coll.pieceWrites (c : Coll) (i : Nat) (p : Piece) : List (Nat × Byte) × Nat :=
  let r := c.rcd
  if r.outZ then
    let w := r.W / 8
    let (zs, ok) := unpack w p.2.1.length p.2.1
    let at0 := i * c.wc + p.1 / w
    ((zs.zipIdx.filter fun z => !z.1.residueFault).flatMap fun z =>
        placeBytes (r.dst + w * (at0 + z.2)) (z.1.plane r.W) ++ placeBytes (r.dstSide + 2 * (at0 + z.2)) z.1.sides,
      (zs.filter (·.residueFault)).length + b2n (!ok))
  else (placeBytes (r.dst + i * c.wc * r.outBytes + p.1) p.2.1, 0)

/-! ### The flow of chunks (R390 to R395) -/

/-- Whether the slot of chunk `i` is free among chunks in use (R391). -/
def slotFree (used : List Nat) (i : Nat) : Bool := !(used.any fun j => j % 2 == i % 2 && j / 2 % 4 == i / 2 % 4)

/-- A credit used. -/
def Coll.useCredit (k : CollCredit) (c : Coll) : Coll := { c with credits := c.credits.erase k }

/-- The words of chunk `i` that this member reads. -/
def Coll.ownWords (c : Coll) (rd : Nat → Byte) (i : Nat) : List (ZWord × Bool) :=
  (List.range (c.len i)).map fun j => c.rcd.word rd c.anchor (i * c.wc + j)

/-- The memory that chunk `i` of SRC lies in. -/
def Coll.chunkReads (c : Coll) (i : Nat) : List (Nat × Nat) :=
  let r := c.rcd
  let j := i * c.wc
  if r.isZ then [(r.src + r.W / 8 * j, r.W / 8 * c.len i), (r.srcSide + 2 * j, 2 * c.len i)]
  else [(r.src + r.inBytes * j, r.inBytes * c.len i)]

/-- Chunk `i` of the member's own elements read into its up slots (R392): level 0 holds them, higher levels wait for the
level below. -/
def Eng.collLoad (rd : Nat → Byte) (c : Coll) (t i : Nat) (e : Eng) : Eng :=
  let g := c.group.num
  let e := e.countLines (c.chunkReads i)
  let ws := c.ownWords rd i
  let bad := ws.countP (·.1.residueFault)
  if bad ≠ 0 then e.collResidue g 2 (portOf (c.rcd.src + i * c.wc * c.rcd.inBytes)) bad
  else
    let slots : List UpSlot := (c.group.levels e.link.ident t).map fun l =>
      ⟨l, t, i, if l = 0 then ws.map (·.1) else List.replicate (c.len i) ZWord.zero,
        if l = 0 then [(65536, c.len i)] else [], 0, [], []⟩
    e.updColl g fun c => { c with
      ups := c.ups ++ slots, loaded := lset c.loaded t (· + 2), low := c.low + ws.countP (·.2) }

/-- Chunk `i` of a BROADCAST leaves its source (R394): into the top root's down slot, by one hop or at home. -/
def Eng.collSource (rd : Nat → Byte) (c : Coll) (t i : Nat) (e : Eng) : Eng :=
  let g := c.group.num
  let me := e.link.ident
  let top := c.group.topRoot t
  let l := c.group.topLevel
  let bs := rdBytes rd (c.rcd.src + i * c.wc) (c.len i)
  let ps := bytePieces bs.length 0 bs
  let pieces : List Piece := ps.zipIdx.map fun x => (x.1.1, x.1.2, x.2 + 1 == ps.length)
  if top = me then
    if slotFree c.open_ i then
      (e.countLines (c.chunkReads i)).updColl g fun c => { c with
        downs := c.downs ++ [⟨l, t, i, pieces, [], 0, []⟩], open_ := i :: c.open_, loaded := lset c.loaded t (· + 2) }
    else e
  else if c.credits.contains (top, l, t, i) then
    let e := pieces.foldl (fun e p =>
      e.collSend top { c.header me 3 l t with index := i, elems := c.len i } p.1 (p.1 == 0) p.2.2 p.2.1)
      (e.countLines (c.chunkReads i))
    let out := e.noteLeaving top c.out
    e.updColl g fun c => { c.useCredit (top, l, t, i) with loaded := lset c.loaded t (· + 2), out := out }
  else e

/-- The member's own data of both trees; a chunk waits while its reads cannot be made (R476, R479). -/
def Eng.collOwn (rd : Nat → Byte) (g : Nat) (e : Eng) : Eng :=
  (List.range 2).foldl (fun e t =>
    match e.coll? g with
    | none => e
    | some c =>
      let i := c.loaded.getD t 0
      if c.aborted ∨ c.chunks ≤ i ∨ e.holdsBack (c.chunkReads i) then e
      else if c.rcd.sums then (if slotFree (c.ups.map (·.chunk)) i then e.collLoad rd c t i else e)
      else if c.isRoot e.link.ident then e.collSource rd c t i
      else e) e

/-- A credit sent for chunk `i` of a tree. -/
def Eng.collCredit (c : Coll) (dest l t i : Nat) (e : Eng) : Eng :=
  e.collTell dest { c.header e.link.ident 1 l t with index := i } []

/-- Credits for up chunks, to the children that have joined (R392, R407). -/
def Eng.collUpGrants (g : Nat) (e : Eng) : Eng :=
  match e.coll? g with
  | none => e
  | some c =>
    if c.aborted then e
    else c.ups.foldl (fun e s =>
      let ks := (c.group.kids e.link.ident s.tree s.level).filter fun k => c.joined.contains k && !s.granted.contains k
      let e := ks.foldl (fun e k => e.collCredit c k s.level s.tree s.chunk) e
      let add := fun (x : UpSlot) => { x with granted := x.granted ++ ks }
      e.updColl g fun c => { c with ups := mapIf (fun x => x.level == s.level && x.chunk == s.chunk) add c.ups }) e

/-- The sender of this member's down chunks of tree `t`, with the level. -/
def Coll.downFrom (c : Coll) (me t : Nat) : Option (Nat × Nat) :=
  let top := c.group.topRoot t
  if c.rcd.op = 4 then (if c.isRoot me && top != me then some (0, top) else none)
  else if c.rcd.op = 3 && top == me then (if c.isRoot me then none else some (c.group.topLevel, c.rootId))
  else c.group.parent me t

/-- Credits for down chunks (R392). -/
def Eng.collDownGrants (g : Nat) (e : Eng) : Eng :=
  (List.range 2).foldl (fun e t =>
    match e.coll? g with
    | none => e
    | some c =>
      let i := c.granted.getD t 0
      match c.downFrom e.link.ident t with
      | none => e
      | some (l, u) =>
        if c.aborted ∨ c.chunks ≤ i ∨ !c.joined.contains u ∨ !slotFree c.open_ i then e
        else (e.collCredit c u l t i).updColl g fun c => { c with
          open_ := i :: c.open_, granted := lset c.granted t (· + 2) }) e

/-- Words of an up slot that every contributor has sent. -/
def UpSlot.ready (s : UpSlot) (kids : List Nat) : Nat :=
  (kids.map fun k => ((s.got.find? fun x => x.1 == k).map (·.2)).getD 0).foldl min
    (((s.got.find? fun x => x.1 == 65536).map (·.2)).getD 0)

/-- Words added into an up slot (R45). -/
def UpSlot.addWords (W : Nat) (ws : List (Nat × ZWord)) (s : UpSlot) : UpSlot :=
  { s with words := ws.foldl (fun l w => lset l w.1 fun x => zAdd W x w.2) s.words }

/-- `n` more words of a contributor have arrived for an up slot. -/
def UpSlot.take (src n : Nat) (s : UpSlot) : UpSlot :=
  { s with got := (src, ((s.got.find? fun x => x.1 == src).map (·.2)).getD 0 + n) :: s.got.filter fun x => x.1 != src }

/-- An up slot changed. -/
def Coll.updUp (level chunk : Nat) (f : UpSlot → UpSlot) (c : Coll) : Coll :=
  { c with ups := mapIf (fun x => x.level == level && x.chunk == chunk) f c.ups }

/-- Up slots whose chunk has left are free (R392); `left` tells whether packets have left their ports. -/
def Coll.freeUps (left : List Leaving → Bool) (c : Coll) : Coll :=
  { c with ups := c.ups.filter fun s => decide (s.sent < c.len s.chunk) || !left s.out }

/-- Pieces of a down chunk that a member forms or receives. -/
def Coll.addPieces (level t chunk : Nat) (ps : List Piece) (c : Coll) : Coll :=
  if c.downs.any fun d => d.level == level && d.chunk == chunk then
    { c with downs := mapIf (fun d => d.level == level && d.chunk == chunk) (fun d => { d with pieces := d.pieces ++ ps }) c.downs }
  else { c with downs := c.downs ++ [⟨level, t, chunk, ps, [], 0, []⟩] }

/-- Number of an up or down slot in a collective's staging: 4 up and 4 down slots for each tree at each level, in this order (which
sectors a slot takes is the engine's: DESIGN CHOICE, log entry 136). -/
def slotNumber (level tree chunk : Nat) (down : Bool) : Nat := (level * 2 + tree) * 8 + 4 * b2n down + chunk / 2 % 4

/-- Bytes of a slot: B_c of R390. -/
def Coll.slotBytes (c : Coll) : Nat := 16384 * 2 ^ c.chunkLog

/-- The updates that add words of a contributor, from word `lo` on, into an up slot. -/
def Eng.upUpds (e : Eng) (c : Coll) (level tree chunk src lo : Nat) (zs : List ZWord) : List StageUpd :=
  e.stageUpds (.coll c.group.num) (.up c.group.num level chunk src)
    (fun i => (slotNumber level tree chunk false * c.slotBytes + c.rcd.W / 8 * i) / 32) (zs.zipIdx.map fun z => (lo + z.2, z.1))

/-- The lowest word of an up slot that an update has not yet added. -/
def Eng.pendingUp (e : Eng) (g level chunk : Nat) : Option Nat :=
  (e.stage.pendingUpds.flatMap fun u => match u.part with
    | .up x l i _ => if x == g && l == level && i == chunk then u.words.map (·.1) else []
    | .addx _ _ _ => []).min?

/-- Words of an up slot that every contributor has added (R393). -/
def Eng.upReady (e : Eng) (c : Coll) (s : UpSlot) : Nat :=
  let n := s.ready (c.group.kids e.link.ident s.tree s.level)
  min n ((e.pendingUp c.group.num s.level s.chunk).getD n)

/-- An update of an up slot issues at its bank (R133, R393): its words are added; an adder that fails its check gives the abort request
of R408 (R46). -/
def Eng.addUp (fault : Bool) (g level chunk : Nat) (ws : List (Nat × ZWord)) (e : Eng) : Eng :=
  match e.coll? g with
  | none => e
  | some c => if fault then e.collResidue g 6 0 1 else e.updColl g (Coll.updUp level chunk (UpSlot.addWords c.rcd.W ws))

/-- An update of staging issues at its bank. -/
def Eng.addStaging (fault : Bool) (u : StageUpd) (e : Eng) : Eng :=
  match u.part with
  | .addx w origin ptag => e.addWindow fault u.slot w origin ptag u.words
  | .up g level chunk _ => e.addUp fault g level chunk u.words

/-- The words of an up slot that are complete leave it (R393, R394): to the parent under its credit, as updates of the slot of the
next level, or, at the top root, as output. -/
def Eng.collRise (c : Coll) (s : UpSlot) (e : Eng) : Eng :=
  let g := c.group.num
  let me := e.link.ident
  let n := e.upReady c s
  let zs := (s.words.take n).drop s.sent
  let fin := n == c.len s.chunk
  let sent := fun (dest : Option Nat) (f : Coll → Coll) (e : Eng) =>
    let out := match dest with | some u => e.noteLeaving u s.out | none => s.out
    e.updColl g fun c => ((f c).updUp s.level s.chunk fun s => { s with sent := n, out := out }).freeUps (e.left 1)
  if zs.isEmpty then e
  else
    match levelParent s.tree (c.group.level me s.level s.tree) me with
    | some u =>
      let k : CollCredit := (u, s.level, s.tree, s.chunk)
      if c.credits.contains k then
        let ps := packPackets 2016 (c.rcd.W / 8) zs 0 0 []
        let e := ps.zipIdx.foldl (fun e x =>
          e.collSend u { c.header me 2 s.level s.tree with index := s.chunk, elems := c.len s.chunk }
            ((s.sent + x.1.1) * (c.rcd.W / 8)) (s.sent + x.1.1 == 0) (fin && x.2 + 1 == ps.length) x.1.2) e
        sent (some u) (fun c => if fin then c.useCredit k else c) e
      else e
    | none =>
      if s.level < c.group.topLevel then
        let us := e.upUpds c (s.level + 1) s.tree s.chunk 65536 s.sent zs
        sent none (Coll.updUp (s.level + 1) s.chunk (UpSlot.take 65536 zs.length))
          (e.updStage fun x => x.setXlink .coll (x.xlink .coll ++ us))
      else
        let count := fun (c : Coll) =>
          let q := c.rcd.sumCounts c.anchor zs
          { c with ranged := c.ranged + q.1, nonfin := c.nonfin + q.2 }
        let ps := c.rcd.outPieces c.anchor s.sent zs fin
        if c.rcd.op = 4 ∧ !c.isRoot me then
          let k : CollCredit := (c.rootId, 0, s.tree, s.chunk)
          if c.credits.contains k then
            let e := ps.foldl (fun e p =>
              e.collSend c.rootId { c.header me 3 0 s.tree with index := s.chunk, elems := c.len s.chunk } p.1
                (s.sent == 0 && p.1 == 0) p.2.2 p.2.1) e
            sent (some c.rootId) (fun c => count (if fin then c.useCredit k else c)) e
          else e
        else if c.open_.contains s.chunk ∨ slotFree c.open_ s.chunk then
          sent none (fun c =>
            let c := count (c.addPieces (if c.rcd.op = 4 then 0 else c.group.topLevel) s.tree s.chunk ps)
            { c with open_ := if c.open_.contains s.chunk then c.open_ else s.chunk :: c.open_ }) e
        else e

/-- Every up slot; those whose packets have left their ports are free. -/
def Eng.collUps (g : Nat) (e : Eng) : Eng :=
  let e := e.updColl g (Coll.freeUps (e.left 1))
  match e.coll? g with
  | none => e
  | some c => c.ups.foldl (fun e s =>
    match e.coll? g with
    | none => e
    | some c =>
      match c.ups.find? fun x => x.level == s.level && x.chunk == s.chunk with
      | some s => if c.aborted then e else e.collRise c s
      | none => e) e

/-- The children to which a down chunk goes at its level. -/
def Coll.downKids (c : Coll) (me : Nat) (d : DownSlot) : List Nat :=
  if c.rcd.op = 4 then [] else c.group.kids me d.tree d.level

/-- Pieces that a child has been sent. -/
def DownSlot.sentTo (d : DownSlot) (k : Nat) : Nat := ((d.fwd.find? fun x => x.1 == k).map (·.2)).getD 0

/-- A down slot changed. -/
def Coll.updDown (level chunk : Nat) (f : DownSlot → DownSlot) (c : Coll) : Coll :=
  { c with downs := mapIf (fun d => d.level == level && d.chunk == chunk) f c.downs }

/-- The pieces of a down slot sent to one child under its credit (R392, R393). -/
def Eng.collForward (c : Coll) (d : DownSlot) (k : Nat) (e : Eng) : Eng :=
  let me := e.link.ident
  let cr : CollCredit := (k, d.level, d.tree, d.chunk)
  let ps := d.pieces.drop (d.sentTo k)
  if ps.isEmpty ∨ !c.credits.contains cr then e
  else
    let e := ps.foldl (fun e p =>
      e.collSend k { c.header me 3 d.level d.tree with index := d.chunk, elems := c.len d.chunk } p.1 (p.1 == 0) p.2.2 p.2.1) e
    let out := e.noteLeaving k d.out
    e.updColl c.group.num fun c =>
      let c := if ps.any (·.2.2) then c.useCredit cr else c
      c.updDown d.level d.chunk fun d => { d with fwd := (k, d.pieces.length) :: d.fwd.filter (fun x => x.1 != k), out := out }

/-- A chunk whose writes have all been made waits for its PROG increment (R395). -/
def Eng.owesProg (c : Coll) (chunk : Nat) (e : Eng) : Eng :=
  if c.rcd.progEn then { e with coll := { e.coll with progs := e.coll.progs ++ [(c.group.num, chunk, c.rcd.prog)] } } else e

/-- The pieces of a down slot passed to the level below, or written at DST (R395). -/
def Eng.collPass (c : Coll) (d : DownSlot) (e : Eng) : Eng :=
  let g := c.group.num
  let ps := d.pieces.drop d.passed
  let mark := fun (c : Coll) => c.updDown d.level d.chunk fun d => { d with passed := d.pieces.length }
  if ps.isEmpty then e
  else if d.level = 0 ∨ c.rcd.op = 4 then
    if c.rcd.writes (c.isRoot e.link.ident) then
      let ws := ps.map (c.pieceWrites d.chunk)
      let e := (e.write (.coll g d.chunk) (ws.flatMap (·.1))).updColl g mark
      let e := if ps.any (·.2.2) then e.owesProg c d.chunk else e
      e.collResidue g 6 0 (lsum (ws.map (·.2)))
    else e.updColl g mark
  else if slotFree ((c.downs.filter fun x => x.level + 1 == d.level && x.chunk != d.chunk).map (·.chunk)) d.chunk then
    e.updColl g fun c => mark (c.addPieces (d.level - 1) d.tree d.chunk ps)
  else e

/-- A down slot whose chunk has gone everywhere is free; at level 0 the chunk is done (R392, R395). `left` tells whether packets
have left their ports. -/
def Coll.freeDown (me : Nat) (left : List Leaving → Bool) (d : DownSlot) (c : Coll) : Coll :=
  match c.downs.find? fun x => x.level == d.level && x.chunk == d.chunk with
  | none => c
  | some d =>
    let n := d.pieces.length
    if (d.pieces.any (·.2.2)) && d.passed == n && left d.out && (c.downKids me d).all fun k => d.sentTo k == n then
      let c := { c with downs := c.downs.filter fun x => !(x.level == d.level && x.chunk == d.chunk) }
      if d.level = 0 ∨ c.rcd.op = 4 then
        { c with open_ := c.open_.filter (· != d.chunk), finished := c.finished + 1 }
      else c
    else c

/-- Every down slot. -/
def Eng.collDowns (g : Nat) (e : Eng) : Eng :=
  match e.coll? g with
  | none => e
  | some c => c.downs.foldl (fun e d0 =>
    match e.coll? g with
    | none => e
    | some c =>
      match c.downs.find? fun x => x.level == d0.level && x.chunk == d0.chunk with
      | none => e
      | some d =>
        if c.aborted then e
        else
          let e := (c.downKids e.link.ident d).foldl (fun e k =>
            match e.coll? g with
            | some c => (c.downs.find? fun x => x.level == d.level && x.chunk == d.chunk).elim e fun d => e.collForward c d k
            | none => e) e
          let e := match e.coll? g with | some c => e.collPass c d | none => e
          e.updColl g (Coll.freeDown e.link.ident (e.left 1) d)) e

/-! ### The short path (R402) -/

/-- The payload of a list of words: 64 data bytes and 8 side bytes. -/
def wordsPayload (zs : List ZWord) : List Byte :=
  let d := zs.flatMap (·.plane 128)
  let s := zs.flatMap (·.sides)
  d ++ List.replicate (64 - d.length) 0 ++ s ++ List.replicate (8 - s.length) 0

/-- The words of a payload. -/
def payloadWords (n : Nat) (b : List Byte) : List ZWord :=
  (List.range n).map fun i => ZWord.ofParts (leNat ((b.drop (16 * i)).take 16)) (b.getD (64 + 2 * i) 0).toNat (b.getD (65 + 2 * i) 0).toNat

/-- Bytes padded to a SHORT payload. -/
def padPayload (b : List Byte) : List Byte := b ++ List.replicate (72 - b.length) 0

/-- This member's payload (R398, R402). -/
def CollRec.shortOwn (r : CollRec) (rd : Nat → Byte) (expo : Bool) : List Byte :=
  if expo then padPayload (leBytes 8 (unsext 64 (r.topExp rd)))
  else if r.op ≠ 2 then padPayload []
  else if r.isZ then wordsPayload ((List.range r.count).map fun j => rdZ rd 128 (r.src + 16 * j) (r.srcSide + 2 * j))
  else padPayload (rdBytes rd r.src (r.count * r.inBytes))

/-- Two payloads combined (R402). -/
def CollRec.shortCombine (r : CollRec) (expo : Bool) (a b : List Byte) : List Byte :=
  if expo ∨ (r.op = 2 ∧ (r.subop = 1 ∨ r.subop = 2)) then
    padPayload ((List.range 8).flatMap fun i =>
      let x := leNat ((a.drop (8 * i)).take 8)
      let y := leNat ((b.drop (8 * i)).take 8)
      let keep := if expo ∨ r.subop = 1 then decide (sext 64 y ≤ sext 64 x) else decide (sext 64 x ≤ sext 64 y)
      leBytes 8 (if keep then x else y))
  else if r.op = 2 ∧ r.isZ then
    wordsPayload (List.zipWith (zAdd 128) (payloadWords r.count a) (payloadWords r.count b))
  else if r.op = 2 then List.zipWith (fun x y => if r.subop = 3 then x &&& y else x ||| y) a b
  else a

/-- Words of a SHORT payload that fail their residue. -/
def CollRec.shortBad (r : CollRec) (expo : Bool) (b : List Byte) : Nat :=
  if !expo && r.op == 2 && r.isZ then (payloadWords r.count b).countP (·.residueFault) else 0

/-- The writes of a SHORT result at DST. -/
def CollRec.shortWrites (r : CollRec) (b : List Byte) : List (Nat × Byte) :=
  placeBytes r.dst (b.take (r.count * r.outBytes)) ++
    (if r.isZ then placeBytes r.dstSide ((b.drop 64).take (2 * r.count)) else [])

/-- A SHORT result at this member: passed down tree 0; the exponent phase ends, or the collective does (R398, R402). Where a word of
it fails its check (R23), nothing is written and the member ends with the fault, naming itself (DESIGN CHOICE, log entry 140). -/
def Eng.shortDone (c : Coll) (b : List Byte) (e : Eng) : Eng :=
  let g := c.group.num
  let e := e.collDownAll c (fun h => { h with kind := 5, elems := if c.expo then 1 else c.rcd.count }) b
  if c.expo then e.updColl g fun c => { c with expo := false, anchor := c.rcd.expAnchor (sext 64 (leNat (b.take 8))) }
  else
    let n := c.rcd.shortBad false b
    if n = 0 then
      (if c.rcd.op = 2 then e.write (.coll g 0) (c.rcd.shortWrites b) else e).collEnd g 0 0 false ⟨0, 0, 0, 0, 0⟩
    else ((e.bump 45 n).logFault 0x15 6 0 0 none false).collEnd g 0x22 e.link.ident false ⟨0, 0, 0, 0, 0⟩

/-- The member's SHORT_UP once every child's has arrived; the deciding root forms the result. -/
def Eng.shortRise (g : Nat) (e : Eng) : Eng :=
  match e.coll? g with
  | none => e
  | some c =>
    match c.own with
    | none => e
    | some b =>
      let kids := (c.group.children e.link.ident 0).map (·.2)
      if c.aborted ∨ c.shortSent ∨ (c.rcd.bulk ∧ !c.expo) ∨ !(kids.all fun k => c.shorts.any fun s => s.1 == k) then e
      else
        let b := c.shorts.foldl (fun a s => c.rcd.shortCombine c.expo a s.2) b
        let e := e.updColl g fun c => { c with shortSent := true }
        match c.group.parent e.link.ident 0 with
        | some (l, u) => e.collTell u { c.header e.link.ident 4 l 0 with elems := if c.expo then 1 else c.rcd.count } b
        | none => e.shortDone c b

/-! ### The ending rounds (R409, R415) -/

/-- Whether any write of a collective has not been accepted. -/
def Eng.owesColl (e : Eng) (g : Nat) : Bool :=
  let mine : Owner → Bool := fun o => match o with | .coll x _ => x == g | _ => false
  e.mports.any fun p => p.wr.any (fun w => mine w.owner) || p.unsent.any (fun w => mine w.1)

/-- Chunks that this member takes down. -/
def Coll.expected (c : Coll) (me : Nat) : Nat := if c.rcd.op = 4 ∧ !c.isRoot me then 0 else c.chunks

/-- Whether the member's own chunk work has ended; `left` tells whether packets have left their ports. -/
def Coll.workEnded (c : Coll) (me : Nat) (left : List Leaving → Bool) : Bool :=
  let own := c.loaded.all fun i => decide (c.chunks ≤ i)
  (own || (!c.rcd.sums && !c.isRoot me)) && c.ups.isEmpty && c.downs.isEmpty && left c.out && c.finished == c.expected me

/-- Counter PROG raised for chunks whose writes have been accepted (R395). -/
def Eng.collProg (e : Eng) : Eng :=
  let done := fun (x : Nat × Nat × Nat) => !e.owes (.coll x.1 x.2.1)
  (e.coll.progs.filter done).foldl (fun e x => e.trigAdd x.2.2 1)
    { e with coll := { e.coll with progs := e.coll.progs.filter fun x => !done x } }

/-- The counts of a member's subtree with its slowest member (R415). -/
def Coll.total (c : Coll) (me : Nat) : Report :=
  { src := me
    low := c.low + lsum (c.reports.map (·.low))
    ranged := c.ranged + lsum (c.reports.map (·.ranged))
    nonfin := c.nonfin + lsum (c.reports.map (·.nonfin))
    slowest := if c.ownLast then me else (c.reports.getLast?.map (·.slowest)).getD me }

/-- The arithmetic status of R57 from three counts. -/
def Report.status (r : Report) : Nat :=
  finalStatus { Result.ofStatus 0 0 with count := r.low, rangeCount := r.ranged, nonfinite := r.nonfin }

/-- REPORT, COMMIT, COMMIT_ACK and OUTCOME, each when its condition holds. -/
def Eng.collRounds (g : Nat) (e : Eng) : Eng :=
  match e.coll? g with
  | none => e
  | some c =>
    let me := e.link.ident
    let kids := (c.group.children me 0).map (·.2)
    let allIn := kids.all fun k => c.reports.any fun r => r.src == k
    let allAck := kids.all c.acks.contains
    let ended := c.workEnded me (e.left 1) && !e.owesColl g && !(e.coll.progs.any fun x => x.1 == g)
    if !c.rcd.bulk ∨ c.expo ∨ (c.aborted ∧ !c.committed) then e
    else if !c.reported then
      if !ended then e
      else if !allIn then e.updColl g fun c => { c with ownLast := false }
      else
        let t := c.total me
        match c.group.parent me 0 with
        | some (l, u) =>
          (e.collTell u { c.header me 6 l 0 with named := t.slowest } t.bytes).updColl g fun c => { c with reported := true }
        | none =>
          (e.collDownAll c (fun h => { h with kind := 7 }) []).updColl g fun c => { c with reported := true, committed := true }
    else if c.committed ∧ allAck ∧ !c.acked then
      match c.group.parent me 0 with
      | some (l, u) => (e.collTell u (c.header me 8 l 0) []).updColl g fun c => { c with acked := true }
      | none =>
        let t := c.total me
        e.collOutcome c t.status 0 c.late t
    else e

/-- One round of everything a collective can do by itself. -/
def Eng.collStep (rd : Nat → Byte) (g : Nat) (e : Eng) : Eng :=
  match e.coll? g with
  | none => e
  | some c =>
    let e := if c.expo ∨ !c.rcd.bulk then e.shortRise g
      else (((((e.collOwn rd g).collUpGrants g).collUps g).collDowns g).collDownGrants g).collProg
    e.collRounds g

/-- `n` rounds over every collective in progress. -/
def Eng.collRun (rd : Nat → Byte) : Nat → Eng → Eng
  | 0, e => e
  | n + 1, e => Eng.collRun rd n (e.coll.colls.foldl (fun e c => e.collStep rd c.group.num) e)

/-- Every collective goes on as far as it can. -/
def Eng.collSettle (rd : Nat → Byte) (e : Eng) : Eng :=
  (e.collRun rd (if e.coll.colls.isEmpty then 0 else 16 + 8 * lsum (e.coll.colls.map Coll.chunks))).collProg

/-- What goes on when flits have left a port: operations whose turn has come (R356), and collectives (R392). -/
def Eng.afterSend (rd : Nat → Byte) (e : Eng) : Eng := e.pumpOps.collSettle rd

/-! ### Launches (R380, R383, R385) -/

/-- The context of a launch. -/
def Coll.launch (rd : Nat → Byte) (num : Nat) (r : CollRec) (g : Group) (dflt now : Nat) : Coll :=
  let expo := r.sums && r.isFloat && !r.aexpl
  { num := num, rcd := r, sig := r.signature dflt, chunkLog := r.chunkExp dflt, group := g, anchor := r.anchor
    expo := expo, own := if expo ∨ !r.bulk then some (r.shortOwn rd expo) else none, shorts := [], shortSent := false
    joined := [], credits := [], ups := [], downs := [], loaded := [0, 1], granted := [0, 1], open_ := [], out := [], finished := 0
    low := 0, ranged := 0, nonfin := 0, reports := [], reported := false, ownLast := true, committed := false
    acks := [], acked := false, aborted := false, late := false, since := now }

/-- A launch is refused (R385): noted, the abort request sent where the table says so, and the collective ends here. -/
def Eng.collRefuse (rd : Nat → Byte) (num : Nat) (r : CollRec) (reason : Nat) (abort : Bool) (e : Eng) : Eng :=
  let e := { e with coll := { e.coll with lastRefusal := BitVec.ofNat 32 (num * 65536 + reason) } }
  let me := e.link.ident
  let (relay, e) : Bool × Eng := match e.group? rd r.group with
    | some g =>
      let c := Coll.launch rd num { r with op := 1 } g e.coll.chunkDefault.toNat e.cue
      let c := { c with rcd := r, sig := r.signature e.coll.chunkDefault.toNat }
      if abort && g.members.count me == 1 && e.link.identValid then
        match g.parent me 0 with
        | some (l, u) => (true, e.collTell u { c.header me 9 l 0 with status := 0x31 } [])
        | none => (false, e.collDownAll c (fun h => { h with kind := 10, status := 0x31 }) (Report.bytes ⟨0, 0, 0, 0, 0⟩))
      else (false, e)
    | none => (false, e)
  (e.noteEnded r.group r.seq relay []).collNotify r 0x31 0 0 false ⟨0, 0, 0, 0, 0⟩

/-- R380: a launch entry fires: the record is read, and the launch is refused or waits. -/
def Eng.collLaunch (rd : Nat → Byte) (num : Nat) (e : Eng) : Eng :=
  let r := CollRec.ofNat (rdRec rd (e.coll.tableBase.toNat + 128 * num) 128)
  if r.version = 0 then e
  else
    let e := ((e.noteTook [(e.coll.tableBase.toNat + 128 * num, 128)]).bump 31 1).cacheGroup rd r.group
    match e.refusal rd r with
    | some (n, a) => e.collRefuse rd num r n a
    | none => { e with coll := { e.coll with waiting := e.coll.waiting ++ [(num, r)] } }

/-- The memory that a member reads as its source (R384, R396). -/
def Coll.srcRanges (c : Coll) (me : Nat) : List (Nat × Nat) :=
  let r := c.rcd
  if !r.reads (c.isRoot me) then []
  else if r.isZ then [(r.src, r.W / 8 * r.count), (r.srcSide, 2 * r.count)]
  else [(r.src, r.inBytes * r.count)]

/-- COLL_START (R383): the launch that has waited longest takes a context once one is free, its group has no other
collective in progress and the staging suffices. It is checked again before it does. Units of its source that cannot be
obtained (`bad`) end it (R408, R437); they are named when it starts, whichever chunk reads them. -/
def Eng.collStart (rd : Nat → Byte) (bad : List BadUnit) (e : Eng) : Eng :=
  match e.coll.waiting with
  | [] => e
  | (num, r) :: rest =>
    let e1 := { e with coll := { e.coll with waiting := rest } }
    match e.refusal rd r with
    | some (n, a) => e1.collRefuse rd num r n a
    | none =>
      match e.group? rd r.group with
      | none => e
      | some g =>
        if 16 ≤ e.coll.colls.length ∨ (e.coll? r.group).isSome then e
        else
          match (if r.bulk then e1.allot (.coll r.group) (r.staging g.hier e.coll.chunkDefault.toNat) else some e1) with
          | none => e
          | some e =>
            let e := (e.cacheGroup rd r.group).rewroteStaging (.coll r.group)
            let c := Coll.launch rd num r g e.coll.chunkDefault.toNat e.cue
            let e := { e with coll := { e.coll with
              colls := e.coll.colls ++ [c], ended := e.coll.ended.filter fun x => !(x.group == r.group && x.seq == r.seq) } }
            let e := e.collResidue r.group 2 (portOf r.src) (r.shortBad c.expo (c.own.getD []))
            let e := (r.neighbours g e.link.ident).foldl (fun e n =>
              let m := r.meets g e.link.ident n
              e.collTell n (c.header e.link.ident 0 m.1 m.2) []) e
            let (ok, e) := e.readMem bad none (c.srcRanges e.link.ident)
            (if ok then e else e.abortSelf r.group 0x21).collSettle rd

/-! ### Messages that arrive -/

/-- The collective header of a packet. -/
def Packet.coll (p : Packet) : CollHdr := CollHdr.ofNat (leNat (p.data.take 32))

/-- Whether a message announces, or follows, the next launch of a record at its sender: a second JOIN of a sender in `joined`, that
waits, is of it; an abort request's SENDER is its requester, so that any such JOIN counts (R403; DEDUCED, log entry 32). -/
def Eng.relaunch (e : Eng) (joined : List Nat) (h : CollHdr) : Bool :=
  e.link.inbox.any fun i => i.pkt.hdr.cls == 2 && !i.pkt.bad.contains 0 && i.pkt.coll.kind == 0 && i.pkt.coll.group == h.group &&
    i.pkt.coll.seq == h.seq && joined.contains i.pkt.coll.sender && (h.kind == 9 || i.pkt.coll.sender == h.sender)

/-- Whether a message belongs to a collective in progress, or to one that has ended here. -/
def Eng.collKnows (e : Eng) (h : CollHdr) : Bool :=
  e.coll.colls.any (fun c => c.group.num == h.group && c.rcd.seq == h.seq && !e.relaunch c.joined h) ||
    e.coll.ended.any fun x => x.group == h.group && x.seq == h.seq && !e.relaunch x.joined h

/-- A message of a kind from a port (R403, R407): one that arrives before its member's launch waits and caches its group; one
of another signature is discarded with an abort request; an uncorrectable unit gives one too; what comes after the end is
dropped. -/
def Eng.collMsg (rd : Nat → Byte) (via : Via) (kind : Nat) (f : Coll → CollHdr → Packet → Eng → Eng) (e : Eng) : Eng :=
  let mine := fun (p : Packet) => p.hdr.cls == 2 && !p.bad.contains 0 && p.coll.kind == kind
  match e.inFirst via fun p => mine p && e.collKnows p.coll with
  | none => (e.link.inbox.filter fun x => x.via == via && mine x.pkt).foldl (fun e x => e.cacheNamed rd x.pkt.coll.group) e
  | some p =>
    let h := p.coll
    let e := (e.inDrop via p).cacheNamed rd h.group
    match e.coll.colls.find? fun c => c.group.num == h.group && c.rcd.seq == h.seq with
    | some c =>
      let e := e.updColl h.group fun c => { c with since := e.cue }
      let e :=
        if h.signature ≠ c.sig then
          e.abortReq h.group 0x30 h.sender e.link.ident (leBytes 8 c.sig ++ leBytes 8 h.signature)
        else if !p.bad.isEmpty then e.abortSelf h.group 0x21
        else f c h p e
      e.collSettle rd
    | none =>
      if kind = 0 then
        let note := fun (x : Ended) => { x with joined := h.sender :: x.joined }
        { e with coll := { e.coll with ended := mapIf (fun x => x.group == h.group && x.seq == h.seq) note e.coll.ended } }
      else if kind = 9 then e.bump 37 1
      else if kind = 10 then
        match e.coll.ended.find? fun x => x.group == h.group && x.seq == h.seq && x.relay, e.group? rd h.group with
        | some x, some g =>
          let e := e.noteEnded h.group h.seq false x.joined
          (g.children e.link.ident 0).foldl (fun e k =>
            e.collTell k.2 { h with level := k.1, tree := 0, sender := e.link.ident } (p.data.drop 32)) e
        | _, _ => e
      else e

/-- JOIN (R407). -/
def Eng.collJoin (rd : Nat → Byte) (via : Via) (e : Eng) : Eng :=
  e.collMsg rd via 0 fun _ h _ e => e.updColl h.group fun c => { c with joined := h.sender :: c.joined }

/-- CREDIT (R392). -/
def Eng.collCreditMsg (rd : Nat → Byte) (via : Via) (e : Eng) : Eng :=
  e.collMsg rd via 1 fun _ h _ e =>
    e.updColl h.group fun c => { c with credits := (h.sender, h.level, h.tree, h.index) :: c.credits }

/-- The CHUNK_UP that is taken next from a port, with its collective. -/
def Eng.nextChunkUp (e : Eng) (via : Via) : Option (Packet × Coll) :=
  (e.inFirst via fun p => p.hdr.cls == 2 && !p.bad.contains 0 && p.coll.kind == 2 && e.collKnows p.coll).bind fun p =>
    (e.coll.colls.find? fun c => c.group.num == p.coll.group && c.rcd.seq == p.coll.seq).map fun c => (p, c)

/-- The words of a CHUNK_UP packet, and how many faults they show (R23, R362). -/
def Coll.upWords (c : Coll) (p : Packet) : List ZWord × Nat :=
  let d := p.data.drop 32
  let (zs, ok) := unpack (c.rcd.W / 8) d.length d
  (zs, zs.countP (·.residueFault) + b2n (!ok))

/-- The updates of a CHUNK_UP packet. -/
def Eng.chunkUpds (e : Eng) (c : Coll) (p : Packet) : List StageUpd :=
  e.upUpds c p.coll.level p.coll.tree p.coll.index p.coll.sender (p.hdr.offset / (c.rcd.W / 8)) (c.upWords p).1

/-- The staging slots that the arrival of a CHUNK_UP reads: those whose updates issue at once. -/
def Eng.chunkUpSlots (e : Eng) (via : Via) : List StageSlot :=
  match e.nextChunkUp via with
  | none => []
  | some (p, c) => if c.aborted then [] else (e.sendUpdates (.xbar via) (e.chunkUpds c p)).1.map (·.slot)

/-- CHUNK_UP (R138, R362, R393): the words of one packet go to the banks of the up slot; those that issue at once are added, and the
first of them meets the fault (R46). A residue fault gives the abort request of R408. -/
def Eng.collChunkUp (rd : Nat → Byte) (via : Via) (fault : Bool) (e : Eng) : Eng :=
  e.collMsg rd via 2 fun c h p e =>
    let (zs, bad) := c.upWords p
    if c.aborted then e
    else if bad ≠ 0 then e.collResidue h.group 6 0 bad
    else
      let (now, e) := e.sendUpdates (.xbar via) (e.chunkUpds c p)
      let e := e.updColl h.group (Coll.updUp h.level h.index (UpSlot.take h.sender zs.length))
      now.zipIdx.foldl (fun e u => e.addStaging (fault && u.2 == 0) u.1) e

/-- CHUNK_DOWN (R395): one piece of an output chunk. -/
def Eng.collChunkDown (rd : Nat → Byte) (via : Via) (e : Eng) : Eng :=
  e.collMsg rd via 3 fun c h p e =>
    if c.aborted then e
    else e.updColl h.group fun c => c.addPieces h.level h.tree h.index [(p.hdr.offset, p.data.drop 32, p.hdr.last)]

/-- SHORT_UP (R402); a residue fault of its words, or of the adder that takes them, gives the abort request of R408. -/
def Eng.collShortUp (rd : Nat → Byte) (via : Via) (fault : Bool) (e : Eng) : Eng :=
  e.collMsg rd via 4 fun c h p e =>
    let b := p.data.drop 32
    let n := c.rcd.shortBad c.expo b + b2n (fault && !c.expo && c.rcd.op == 2 && c.rcd.isZ)
    if n ≠ 0 then e.collResidue h.group 6 0 n
    else e.updColl h.group fun c => { c with shorts := c.shorts ++ [(h.sender, b)] }

/-- SHORT_DOWN (R402). -/
def Eng.collShortDown (rd : Nat → Byte) (via : Via) (e : Eng) : Eng :=
  e.collMsg rd via 5 fun c _ p e => e.shortDone c (p.data.drop 32)

/-- REPORT (R415). -/
def Eng.collReport (rd : Nat → Byte) (via : Via) (e : Eng) : Eng :=
  e.collMsg rd via 6 fun _ h p e =>
    e.updColl h.group fun c => { c with reports := c.reports ++ [Report.ofBytes h.sender (p.data.drop 32)] }

/-- COMMIT (R409): passed down tree 0. -/
def Eng.collCommit (rd : Nat → Byte) (via : Via) (e : Eng) : Eng :=
  e.collMsg rd via 7 fun c h _ e =>
    (e.collDownAll c (fun h => { h with kind := 7 }) []).updColl h.group fun c => { c with committed := true }

/-- COMMIT_ACK (R409). -/
def Eng.collCommitAck (rd : Nat → Byte) (via : Via) (e : Eng) : Eng :=
  e.collMsg rd via 8 fun _ h _ e => e.updColl h.group fun c => { c with acks := h.sender :: c.acks }

/-- ABORT_REQ (R408, R409): the header's SENDER is the requester. -/
def Eng.collAbortReq (rd : Nat → Byte) (via : Via) (e : Eng) : Eng :=
  e.collMsg rd via 9 fun _ h p e => e.abortReq h.group h.status h.named h.sender (p.data.drop 32)

/-- OUTCOME (R410). -/
def Eng.collOutcomeMsg (rd : Nat → Byte) (via : Via) (e : Eng) : Eng :=
  e.collMsg rd via 10 fun c h p e => e.collOutcome c h.status h.named h.late (Report.ofBytes h.sender (p.data.drop 32))

/-- R417: a member's part ends with MEMBER_LOST, and every other neighbour is told. -/
def Eng.collLoss (c : Coll) (peer : Nat) (e : Eng) : Eng :=
  let e := ((c.rcd.neighbours c.group e.link.ident).filter (· != peer)).foldl (fun e n =>
    let m := c.rcd.meets c.group e.link.ident n
    e.collTell n { c.header e.link.ident 11 m.1 m.2 with named := peer } []) e
  e.collEnd c.group.num 0x33 peer false ⟨0, 0, 0, 0, 0⟩

/-- LOSS (R417). -/
def Eng.collLossMsg (rd : Nat → Byte) (via : Via) (e : Eng) : Eng :=
  e.collMsg rd via 11 fun c h _ e => e.collLoss c h.named

/-! ### Heartbeats and the watchdog (R414, R416) -/

/-- A heartbeat message. -/
def beatHdr (me kind : Nat) : CollHdr := { CollHdr.ofNat 0 with kind := kind, sender := me }

/-- HEARTBEAT (R416): answered with ECHO at once. -/
def Eng.heartbeat (via : Via) (e : Eng) : Eng :=
  match e.inFirst via fun p => p.hdr.cls == 2 && !p.bad.contains 0 && p.coll.kind == 12 with
  | none => e
  | some p => (e.inDrop via p).collTell p.coll.sender (beatHdr e.link.ident 13) []

/-- ECHO (R416). -/
def Eng.echo (via : Via) (e : Eng) : Eng :=
  match e.inFirst via fun p => p.hdr.cls == 2 && !p.bad.contains 0 && p.coll.kind == 13 with
  | none => e
  | some p =>
    let e := e.inDrop via p
    { e with coll := { e.coll with peers := mapIf (fun x => x.1 == p.coll.sender) (fun x => (x.1, 0)) e.coll.peers } }

/-- The watched peers of R416. -/
def Eng.watched (e : Eng) : List Nat :=
  ((e.remote.ops.map fun o => o.args.target) ++ e.coll.colls.flatMap fun c => c.rcd.neighbours c.group e.link.ident).eraseDups.filter
    (· != e.link.ident)

/-- A peer is lost (R376, R417). -/
def Eng.losePeer (peer : Nat) (e : Eng) : Eng :=
  (e.coll.colls.filter fun c => (c.rcd.neighbours c.group e.link.ident).contains peer).foldl (fun e c => e.collLoss c peer)
    (e.loseOps peer)

/-- HEARTBEAT_TIMER (R416): a peer that has left three heartbeats unanswered is lost; every other watched peer gets one. -/
def Eng.heartbeatTimer (e : Eng) : Eng :=
  let ps := e.watched.map fun p => (p, ((e.coll.peers.find? fun x => x.1 == p).map (·.2)).getD 0)
  let live := ps.filter fun p => decide (p.2 < 3)
  let e := { e with coll := { e.coll with peers := live.map fun p => (p.1, p.2 + 1) } }
  let e := live.foldl (fun e p => e.collTell p.1 (beatHdr e.link.ident 12) []) e
  (ps.filter fun p => decide (3 ≤ p.2)).foldl (fun e p => (e.bump 36 1).losePeer p.1) e

/-- COLL_STALL_WATCHDOG (R414). -/
def Eng.collStall (num : Nat) (e : Eng) : Eng :=
  match e.coll.colls.find? fun c => c.num == num with
  | none => e
  | some c =>
    if e.coll.stallLimit ≠ 0 ∧ c.since + e.coll.stallLimit.toNat ≤ e.cue then
      ((e.bump 34 1).logFault 0x48 6 0 0 none false).updColl c.group.num fun c => { c with since := e.cue }
    else e

/-- A write to COLL_ABORT (R408, R418); none where no such collective is in progress. -/
def Eng.collAbort (rd : Nat → Byte) (num : Nat) (e : Eng) : Option Eng :=
  (e.coll.colls.find? fun c => c.num == num).map fun c => (e.abortSelf c.group.num 0x31).collSettle rd

/-- A write to COLL_END_LOCAL (R412, R418). -/
def Eng.collEndLocal (num : Nat) (e : Eng) : Option Eng :=
  (e.coll.colls.find? fun c => c.num == num).map fun c => e.collEnd c.group.num 0x31 0 false ⟨0, 0, 0, 0, 0⟩

/-- TRIGGER_FIRE (R371, R380). -/
def Eng.triggerFire (rd : Nat → Byte) (i : Nat) (e : Eng) : Eng :=
  let fires := i < 4096 ∧ (e.trig i).fires
  let e := e.fire i
  if fires ∧ i < e.coll.tableCount.toNat then e.collLaunch rd i else e

end Sys2Proof.Machine
end

