-- ==== Sys2Proof/Machine/Repair.lean ====
section
/-!
DEFINITION. Pods and banks that fail (04, 12): pod faults (R428, R442), the loss of staging (R154, R436), failed banks, folds
and withdrawals (R151 to R154, R435), and the read-back of a slot (R435).
-/

namespace Sys2Proof.Machine

/-! ### Pods -/

/-- A pod is retired (R442): it serves no position until an engine reset, and an update no longer waits for it. -/
def Eng.retirePod (pod : Nat) (e : Eng) : Eng :=
  let q := e.health.updQueue.filter (· != pod)
  let e := { e with health := { e.health with
    updQueue := q, updBusy := e.health.updBusy && !q.isEmpty, screenNow := e.health.screenNow.filter (· != pod) } }
  (e.updPod pod fun d => { d with svc := .retired, task := .idle, why := none, pwrReq := false }).logFault 0x39 0 pod 0 none false

/-- Whether a pod holds anything that a fault can strike: it is neither retired nor without power. -/
def Eng.podLive (e : Eng) (pod : Nat) : Bool := decide (pod < 34) && (e.pod pod).svc != .retired

/-- A residue fault of a pod freezes the admitted attempts it streams; each counts toward R429. -/
def Eng.countFreezes (pod : Nat) (e : Eng) : Eng :=
  match (e.pod pod).lpos with
  | none => e
  | some pos =>
    let hit := e.place.atts.filter fun a => a.st == .admitted && !e.leftPods a.id && (e.ctx? a.ctx).any fun c => c.usesPos pos
    hit.foldl (fun e a =>
      let e := e.updCtx a.ctx fun c => { c with freezes := nput c.freezes a.kstep (nget c.freezes a.kstep 0 + 1) }
      match e.ctx? a.ctx with
      | some c => if e.health.reexec.toNat ≤ nget c.freezes a.kstep 0 then e.endCmd c.ch c.seq 0x22 0 else e
      | none => e) e

/-- A pod fault (R225, R428): logged, and the pod is pulled. A pod that had passed a test after a fault and faults again in
the same reel is retired (R442). Of an uncorrectable program store, the image that failed is discarded (R225): `col` is its place in
the store. -/
def Eng.podFail (pod : Nat) (cause : PodCause) (col : Nat) (e : Eng) : Eng :=
  if e.podLive pod then
    let ch := ((e.pod pod).lpos.bind fun p => e.place.runs.find? fun r => (takerPositions r.taker).contains p).map (·.ch)
    let before := e.place.slates.countP fun (s : Slate) => s.closed
    let e := match cause with
      | .residue => ((e.bump 45 1).countFreezes pod)
      | .store => (e.bump 40 1).updPod pod fun d => { d with store := d.store.eraseIdx col }
      | _ => e
    let again := (e.pod pod).passed
    let e := match cause with
      | .residue => e.logFault 0x10 0 pod col ch (decide ((e.place.slates.countP fun (s : Slate) => s.closed) = before))
      | _ => e.logFault 0x41 0 pod 0 ch true
    let e := e.updPod pod fun d => { d with svc := if d.lpos.isSome then d.svc else .out, task := .idle, faulted := true }
    let e := e.pull pod
    (if again then e.retirePod pod else e).armScreen
  else e

/-- POD_FAULT (R428) by a named cause: a residue fault or a store error strikes a pod that serves a position. -/
def Eng.podFault (pod : Nat) (cause : PodCause) (col : Nat) (e : Eng) : Eng :=
  match cause with
  | .residue => if e.serves pod then e.podFail pod cause col else e
  | .store => if e.serves pod then e.podFail pod cause col else e
  | .powerGood => if (e.pod pod).pwrReq then (e.updPod pod fun d => { d with pgood := false }).podFail pod cause col else e
  | .clock => e.podFail pod cause col

/-! ### Staging that is lost or moved (R152, R154, R436) -/

/-- Sector `k` of a use is lost: its run is cut. -/
def cutRuns : Nat → List (Option Nat × Nat) → List (Option Nat × Nat)
  | _, [] => []
  | k, (p, n) :: r =>
    if k < n then
      ((p, k) :: (none, 1) :: (p.map (· + k + 1), n - k - 1) :: r).filter fun x => x.2 != 0
    else (p, n) :: cutRuns (k - n) r

/-- What holds a lost staging slot is told (R436). -/
def Eng.loseSector (u : StageUser) (sector : Nat) (e : Eng) : Eng :=
  let e := { e with remote := { e.remote with
    uses := mapIf (fun (x : StageUse) => x.user == u) (fun x => { x with runs := cutRuns sector x.runs }) e.remote.uses } }
  match u with
  | .window w => e.loseWords w sector
  | .coll g => e.abortSelf g 0x21

/-- A staging slot is lost. -/
def Eng.loseStaging (place slice bank : Nat) (e : Eng) : Eng :=
  match e.remote.uses.findSome? fun u => (findPlace place u.runs 0).map fun s => (u.user, s) with
  | none => e
  | some (u, s) => (e.loseSector u s).logFault 0x21 1 slice bank none false

/-- A word under what an undetected error makes of its sector (R421): `h` is its place in the sector. -/
def flipWord (w h : Nat) (r : SectorRead) (z : ZWord) : ZWord :=
  ZWord.ofParts (leNat (z.plane (8 * w)) ^^^ leNat ((r.data.drop (w * h)).take w)) (z.sideByte ^^^ fld r.side (16 * h) 8)
    (z.flagByte ^^^ fld r.side (16 * h + 8) 8)

/-- The words of sector `k` of a list of words of `w` bytes under an undetected error. -/
def flipWords (w k : Nat) (r : SectorRead) (ws : List ZWord) : List ZWord :=
  (List.range (32 / w)).foldl (fun l h => lset l (32 / w * k + h) (flipWord w h r)) ws

/-- A staging sector under an undetected error, which stands until the sector is written again (R122, R421; DEDUCED, log entry
153). -/
def Eng.flipStaging (u : StageUser) (k : Nat) (r : SectorRead) (e : Eng) : Eng :=
  match u with
  | .window w => e.updWin w fun a => { a with words := flipWords (winWord a.entry.type) k r a.words }
  | .coll g => e.updColl g fun c =>
    let per := c.slotBytes / 32
    let up := fun (s : UpSlot) => if slotNumber s.level s.tree s.chunk false = k / per then
      { s with words := flipWords (c.rcd.W / 8) (k % per) r s.words } else s
    let piece := fun (p : Piece) => (p.1, p.2.1.zipIdx.map fun b =>
      if (p.1 + b.2) / 32 = k % per then b.1 ^^^ r.data.getD ((p.1 + b.2) % 32) 0 else b.1, p.2.2)
    let down := fun (s : DownSlot) => if slotNumber s.level s.tree s.chunk true = k / per ∧ !c.rcd.outZ then
      { s with pieces := s.pieces.map piece } else s
    { c with ups := c.ups.map up, downs := c.downs.map down }

/-- The data of staging sector `k` of a user in stream order, with its side field (R122). -/
def Eng.stagingSector (e : Eng) (u : StageUser) (k : Nat) : List Byte × Nat :=
  let words := fun (w i : Nat) (ws : List ZWord) =>
    let l := (ws.drop (32 / w * i)).take (32 / w)
    (l.flatMap (fun z => z.plane (8 * w)), leNat (l.flatMap (·.sides)))
  match u with
  | .window w => match e.win? w with
    | some a => words (winWord a.entry.type) k a.words
    | none => ([], 0)
  | .coll g => match e.coll? g with
    | none => ([], 0)
    | some c =>
      let per := c.slotBytes / 32
      match c.ups.find? fun s => slotNumber s.level s.tree s.chunk false == k / per with
      | some s => words (c.rcd.W / 8) (k % per) s.words
      | none =>
        match c.downs.find? fun s => slotNumber s.level s.tree s.chunk true == k / per with
        | some s =>
          let bs := s.pieces.flatMap fun p => p.2.1.zipIdx.map fun b => (p.1 + b.2, b.1)
          ((List.range 32).map fun i => ((bs.find? fun b => b.1 == 32 * (k % per) + i).map (·.2)).getD 0, 0)
        | none => ([], 0)

/-- The 41 bytes of any sector slot of the Stage (R120 to R123): an accumulator sector, staging, or an operand unit with a side field
of zero (R122). -/
def Eng.sectorImage (e : Eng) (slice bank slot : Nat) : List Byte :=
  let g := e.stage.gSlots
  let key := sectorKey slice bank slot
  let pad := fun (d : List Byte) => (d ++ List.replicate 32 (0 : Byte)).take 32
  if slot < 512 then e.stage.sector key
  else if slot < 512 + g then
    match e.remote.uses.findSome? fun u => (findPlace (stagePlace g slice bank (slot - 512)) u.runs 0).map fun s => (u.user, s) with
    | some (u, k) => let (d, s) := e.stagingSector u k; sectorBytes (pad d) s
    | none => sectorClear
  else
    match e.place.bufs.findSome? fun b => (b.cells.findIdx? (· == key)).map fun i => (nget? b.units i).getD [] with
    | some d => sectorBytes (pad d) 0
    | none => sectorClear

/-- Staging sectors read with an upset (R421 to R423, R435): a corrected read is counted for its bank; an uncorrectable slot is
lost to what holds it (R427, R436), and suspect until it is rewritten. -/
def Eng.loseRead (reads : List StageRead) (e : Eng) : Eng :=
  reads.foldl (fun e x =>
    let (slice, bank, slot) := x.1
    let g := e.stage.gSlots
    let place := stagePlace g slice bank (slot - 512)
    match (if 512 ≤ slot ∧ slot < 512 + g then
        e.remote.uses.findSome? fun u => (findPlace place u.runs 0).map fun k => (u.user, k) else none) with
    | none => e
    | some (u, k) =>
      match upsetOutcome x.2 with
      | none =>
        let key := sectorKey slice bank slot
        ((e.bump 40 1).loseStaging place slice bank).updStage fun s => { s with suspect := key :: s.suspect }
      | some r =>
        (((e.flipStaging u k r).bump 39 (b2n r.dataFixed)).bump 41 (b2n r.sideFixed)).updBank slice bank fun q =>
          { q with corrected := q.corrected + b2n r.dataFixed }) e

/-- A run without the part in [a, a + n): the part before, the sectors cut out, the part after. -/
def splitRun (a n : Nat) (p : Option Nat × Nat) : (List (Option Nat × Nat)) × Nat × (List (Option Nat × Nat)) :=
  match p.1 with
  | none => ([p], 0, [])
  | some b =>
    let lo := max a b
    let hi := min (a + n) (b + p.2)
    if hi ≤ lo then ([p], 0, [])
    else
      ((if b < lo then [(some b, lo - b)] else []), hi - lo, (if hi < b + p.2 then [(some hi, b + p.2 - hi)] else []))

/-- The runs of one use moved out of [a, a + n) into free staging. -/
def Eng.moveRuns (a n : Nat) : List (Option Nat × Nat) → List StageUse → Eng → List (Option Nat × Nat)
  | [], _, _ => []
  | p :: r, others, e =>
    let (pre, k, post) := splitRun a n p
    let (put, left) := e.freeStaging others k
    let here := pre ++ put ++ (if left = 0 then [] else [(none, left)]) ++ post
    here ++ e.moveRuns a n r (others ++ [⟨.coll 65536, here⟩])

/-- Sectors of a use without a place, in order. -/
def lostSectors : List (Option Nat × Nat) → Nat → List Nat
  | [], _ => []
  | (none, n) :: r, i => (List.range n).map (i + ·) ++ lostSectors r (i + n)
  | (some _, n) :: r, i => lostSectors r (i + n)

/-- R152, R154: staging that is given up is moved into free staging, the oldest use first; what cannot be read (`moved`) or finds
no room is lost, and a window that loses words has a fault log entry (R436). -/
def Eng.evacuate (slice a n : Nat) (moved : List StageRead) (e : Eng) : Eng :=
  let g := e.stage.gSlots
  let e := e.loseRead (moved.filter fun x =>
    let p := stagePlace g x.1.1 x.1.2.1 (x.1.2.2 - 512)
    decide (512 ≤ x.1.2.2 ∧ x.1.2.2 < 512 + g ∧ a ≤ p ∧ p < a + n))
  e.remote.uses.foldl (fun e u =>
    let others := (e.remote.uses.filter fun x => x.user != u.user) ++ [⟨.coll 65536, u.runs⟩]
    let runs := e.moveRuns a n u.runs others
    let gone := (lostSectors runs 0).filter fun s => !(lostSectors u.runs 0).contains s
    let e := { e with remote := { e.remote with
      uses := mapIf (fun (x : StageUse) => x.user == u.user) (fun x => { x with runs := runs }) e.remote.uses } }
    let e := gone.foldl (fun e s => e.loseSector u.user s) e
    let banks := (gone.filterMap fun s => (placeOf s u.runs).map fun p => p / g % 128).eraseDups
    match u.user with
    | .window _ => banks.foldl (fun e b => e.logFault 0x21 1 slice b none false) e
    | .coll _ => e) e

/-! ### Banks (R151 to R153, R435) -/

/-- Whether a context stands in a slice. -/
def TileCtx.inSlice (c : TileCtx) (slice : Nat) : Bool := c.parts.any fun p => p.slice == slice

/-- R153, R154: a slice is withdrawn: its staging moves, the pod of its position is pulled, and the tiles that stand in it
start again elsewhere; a tile that R430 bars from that ends its command. -/
def Eng.withdraw (slice : Nat) (moved : List StageRead) (e : Eng) : Eng :=
  if e.stage.withdrawn.contains slice then e
  else
    let g := e.stage.gSlots
    let e := (e.updStage fun s => { s with withdrawn := slice :: s.withdrawn, copies := s.copies.filter fun c => c.slice != slice }).logFault
      0x32 1 slice 0 none false
    let e := (e.evacuate slice (stagePlace g slice 0 0) (128 * g) moved).dropLostCells slice
    let e := (e.place.ctxs.filter fun c => c.inSlice slice && c.started).foldl (fun e c =>
      if e.canReplay c then (e.stopDrain c.id).updCtx c.id fun c => { c with started := false, readyAt := none }
      else ((e.stopDrain c.id).endCmd c.ch c.seq 0x21 0).updCtx c.id fun c => { c with started := false, readyAt := none }) e
    let e := match e.podAt slice with
      | some n => e.pull n
      | none => e
    let rs := e.place.runs.filter fun r => e.place.ctxs.any fun c => c.run == r.id && c.inSlice slice
    let e := rs.foldl (fun e r =>
      let e := (e.place.ctxs.filter fun c => c.run == r.id).foldl (fun e c =>
        ((e.place.atts.filter fun a => a.ctx == c.id).foldl (fun e a => e.freeze a.id) e).stopStream c.id) e
      e.reissueRun r) e
    ((e.relocate fun p => e.vacant.contains p || e.stage.withdrawn.contains p).refit).endRuns.armLeaving

/-- The spare bank that a logical bank is mapped to. -/
def Stage.spareOf (s : Stage) (slice bank : Nat) : Option Nat :=
  (List.range 8).find? fun i => nget? s.spareMap (slice * 8 + i) == some bank

/-- The lowest free spare bank of a slice that has not failed (which free spare a bank is mapped to is the engine's: DESIGN
CHOICE, log entry 130). -/
def Stage.freeSpare (s : Stage) (slice : Nat) : Option Nat :=
  (List.range 8).find? fun i => (nget? s.spareMap (slice * 8 + i)).isNone && !s.spareBad.contains (slice, i) &&
    !(s.copies.any fun c => c.slice == slice && c.spare == 128 + i)

/-- A bank has failed (R151 to R153): it is copied to a free spare, or folded onto its partner, or the slice is withdrawn. A spare
in service that fails serves until the copy of its bank is complete. What a fold gives up leaves the regions, and the objects
that show them, at once (when they change is the engine's: DESIGN CHOICE, log entry 131). -/
def Eng.bankFail (slice bank : Nat) (moved : List StageRead) (e : Eng) : Eng :=
  let s := e.stage
  if s.withdrawn.contains slice ∨ s.copies.any (fun c => c.slice == slice && c.bank == bank) then e
  else
    let e := e.updBank slice bank fun q => { q with corrected := 0 }
    let e := match s.spareOf slice bank with
      | some i => e.updStage fun s => { s with spareBad := (slice, i) :: s.spareBad }
      | none => e
    let s := e.stage
    match s.freeSpare slice with
    | some i =>
      (e.updStage fun s => { s with copies := s.copies ++ [⟨slice, bank, 128 + i, e.cue⟩] }).logFault 0x30 1 slice bank none false
    | none =>
      if s.folds.contains (slice, bank) ∨ s.folds.contains (slice, bank ^^^ 64) then e.withdraw slice moved
      else
        let g := s.gSlots
        let e := (e.updStage fun s => { s with
          folds := (slice, bank) :: s.folds, copies := s.copies ++ [⟨slice, bank, bank ^^^ 64, e.cue⟩] }).logFault 0x31 1 slice bank none false
        let e := (if g ≤ 512 then e else e.evacuate slice (stagePlace g slice bank (1024 - g)) (2 * g - 1024) moved).dropLostCells slice
        ({ e with health := { e.health with exBanks := true } }.logFault 0x50 1 slice 0 none false)

/-- A bank beyond BANK_CE_LIMIT in a reel has failed (R435). -/
def Eng.checkCorrected (moved : List StageRead) (slice bank : Nat) (e : Eng) : Eng :=
  if (e.stage.bank slice bank).corrected > e.health.ceLimit.toNat then e.bankFail slice bank moved else e

/-- Corrected reads of a sector counted (R421, R121). -/
def Eng.countRead (moved : List StageRead) (slice bank : Nat) (r : SectorRead) (e : Eng) : Eng :=
  let e := (e.bump 39 (b2n r.dataFixed)).bump 41 (b2n r.sideFixed)
  if r.dataFixed then (e.updBank slice bank fun q => { q with corrected := q.corrected + 1 }).checkCorrected moved slice bank else e

/-- Some staging slots read, those of `reads` with an upset, and what their banks' counts lead to; the others of `reads` are met where
a bank that fails moves them (R154). -/
def Eng.readSlots (reads : List StageRead) (slots : List StageSlot) (e : Eng) : Eng :=
  let mine := reads.filter fun x => slots.contains x.1
  let moved := reads.filter fun x => !slots.contains x.1
  mine.foldl (fun e x => e.checkCorrected moved x.1.1 x.1.2.1) (e.loseRead mine)

/-- A slot lost in a copy, by what it holds (R436): an accumulator slot replays its tiles, a staging slot goes to its holder, an
operand slot is refilled from memory. -/
def Eng.loseSlot (slice bank slot : Nat) (e : Eng) : Eng :=
  let g := e.stage.gSlots
  let key := sectorKey slice bank slot
  let e := e.bump 40 1
  if slot < 512 then
    (e.place.ctxs.filter fun c => !c.sweeping && c.inSlice slice && c.keys.contains key).foldl (fun e c =>
      e.wantReplay c.id 0x21 0x20 1 slice bank) e
  else if slot < 512 + g then e.loseStaging (stagePlace g slice bank (slot - 512)) slice bank
  else if e.place.bufs.any fun b => b.cells.contains key then (e.logFault 0x21 1 slice bank none true).refillCell key
  else e

/-- BANK_COPY_COMPLETE (R151): the logical bank is switched to its spare, or to its partner; `lost` are the slots that could not be
corrected. -/
def Eng.bankCopyComplete (slice bank : Nat) (lost : List Nat) (e : Eng) : Eng :=
  match e.stage.copies.find? fun c => c.slice == slice && c.bank == bank with
  | none => e
  | some c =>
    if e.cue < c.since + 2048 then e
    else
      let e := e.updStage fun s => { s with
        copies := s.copies.erase c
        spareMap :=
          let m := (s.spareOf slice bank).elim s.spareMap fun i => ndel s.spareMap (slice * 8 + i)
          if 128 ≤ c.spare then nput m (slice * 8 + (c.spare - 128)) bank else m }
      lost.eraseDups.foldl (fun e k => e.loseSlot slice bank k) e

/-- SLOT_READ_BACK (R435): a slot that gave an uncorrectable read and has been rewritten is read back: clean, a transient
fault; corrected, a corrected read of its bank; uncorrectable, its bank has failed. -/
def Eng.slotReadBack (slice bank slot : Nat) (upset : Upset) (moved : List StageRead) (e : Eng) : Eng :=
  let key := sectorKey slice bank slot
  if e.stage.readBack.contains key then
    let e := e.updStage fun s => { s with readBack := s.readBack.filter (· != key) }
    match upsetOutcome upset with
    | some r => e.countRead moved slice bank r
    | none => e.bankFail slice bank moved
  else e

end Sys2Proof.Machine
end

