-- ==== Sys2Proof/Machine/Stage.lean ====
section
/-!
DEFINITION. The Stage at work (04): arrival of updates under credits (R138 to R141), the near-bank adder (R133 to R135),
admission of attempts (R144, R145), commits (R86, R147), duplicates, and the load of an initial accumulator (R170).
-/

namespace Sys2Proof.Machine

/-- The partials of a link that one update takes (R133): those that meet `same` and have no earlier entry of their column before
them, with what stays. -/
def gatherLink (same : PartialW → Bool) : List PartialW → List Nat → List PartialW × List PartialW
  | [], _ => ([], [])
  | x :: r, seen =>
    let (t, l) := gatherLink same r (x.col :: seen)
    if same x && !seen.contains x.col then (x :: t, l) else (t, x :: l)

/-- The head of a stream's link removed. -/
def Eng.popLink (src : Stream) (e : Eng) : Eng := e.updStage fun s => s.setLink src ((s.link src).drop 1)

/-- The next update of staging that a stream holds enters the conflict queue of its bank, once there is a crossbar credit (R138 to
R141). -/
def Eng.stageArrival (src : Stream) (e : Eng) : Eng :=
  match e.stage.xlink src with
  | [] => e
  | u :: r =>
    match e.queueStage u with
    | none => e
    | some e => e.updStage fun s => s.setXlink src r

/-- UPDATE_ARRIVAL without an upset (R128, R133, R138, R140, R141): the next update of a stream enters the conflict queue of its bank under a
credit, with every word of its row and sector that has reached the head of its column's path; a step-end token is noted for
its attempt. What belongs to no attempt is discarded (R146, R148). -/
def Eng.updateArrival (src : Stream) (e : Eng) : Eng :=
  match e.stage.link src with
  | [] => e.stageArrival src
  | p :: _ =>
    match e.att? p.att with
    | none => e.popLink src
    | some a =>
      if e.held a then e
      else if p.token then (e.popLink src).updAtt a.id fun a => { a with tokens := (p.col, p.dropped) :: a.tokens }
      else
        match e.ctx? a.ctx with
        | none => e.popLink src
        | some c =>
          match c.place c.acc p.row p.tc with
          | none => e.popLink src
          | some (slice, bank, key) =>
            let b := e.stage.physBank slice bank
            let x := c.viaXbar slice
            let q := e.stage.bank slice b
            if (if x then q.xbar else q.link) = 0 then e
            else
              let same := fun (y : PartialW) => !y.token && y.att == p.att && y.row == p.row &&
                c.place c.acc y.row y.tc == some (slice, bank, key)
              let (now, rest) := gatherLink same (e.stage.link src) []
              (e.updStage fun s => s.setLink src rest).updBank slice b fun q => { q with
                q := q.q ++ [⟨x, key, now.map fun y => (y, accColOf c y.row y.tc), none⟩]
                link := if x then q.link else q.link - 1
                xbar := if x then q.xbar - 1 else q.xbar }

/-- Updates and tokens that a stream holds. -/
def Stage.holds (s : Stage) (src : Stream) : Nat := (s.link src).length + (s.xlink src).length

/-- Whether a stream holds an update or a token that cannot move (R141). -/
def Eng.stalls (src : Stream) (e : Eng) : Bool :=
  e.stage.holds src != 0 && (e.updateArrival src).stage.holds src == e.stage.holds src

/-- A partial under what an undetected error makes of the sector that carries it (R421); `pc` is its column within its part. -/
def flipPartial (acc pc : Nat) (r : SectorRead) (x : PartialW) : PartialW :=
  if acc ≥ 2 then { x with fv := x.fv ^^^ leNat ((r.data.drop (2 * (pc % 16))).take 2) }
  else { x with z := flipWord (accWidth acc / 8) (if acc = 0 then pc % 2 else 0) r x.z }

/-- A transfer of an attempt cannot be corrected (R422): the attempt ends there, and the command with SECTOR_UNCORRECTABLE, since no
action of R427 recovers it (DEDUCED, log entry 153). -/
def Eng.transferLost (a : Attempt) (unit index sub : Nat) (e : Eng) : Eng :=
  let e := ((e.bump 40 1).purge a.id).dropAtt a.id
  match e.ctx? a.ctx with
  | none => e.logFault 0x20 unit index sub none false
  | some c => (e.endCmd c.ch c.seq 0x21 0).logFault 0x20 unit index sub (some c.ch) false

/-- UPDATE_ARRIVAL, with an upset of the transfer of its next update (R422; DEDUCED, log entry 153). -/
def Eng.updateArrivalF (src : Stream) (upset : Upset) (e : Eng) : Eng :=
  if upset.isEmpty then e.updateArrival src
  else
    match e.stage.link src, e.stage.xlink src with
    | p :: rest, _ =>
      match e.att? p.att, (e.att? p.att).bind fun a => e.ctx? a.ctx with
      | some a, some c =>
        if e.held a || p.token then e.updateArrival src
        else
          match upsetOutcome upset with
          | none => e.transferLost a 1 c.home 0
          | some w =>
            let flip := fun (x : PartialW) => flipPartial c.acc (accColOf c x.row x.tc) w x
            ((e.updStage fun s => s.setLink src (flip p :: rest)).updateArrival src).bump 39 (b2n w.dataFixed)
      | _, _ => e.updateArrival src
    | [], u :: rest =>
      match upsetOutcome upset with
      | some w => (e.updateArrival src).bump 39 (b2n w.dataFixed)
      | none =>
        let e := ((e.bump 40 1).updStage fun s => s.setXlink src rest).logFault 0x21 1 u.slot.1 u.slot.2.1 none false
        match u.part with
        | .addx _ origin ptag => e.worseTgt origin ptag 0x21
        | .up g _ _ _ => e.abortSelf g 0x21
    | [], [] => e

/-- CREDIT_RETURN (R140): a credit of an issued entry returns to its holder. -/
def Eng.creditReturn (slice bank : Nat) (xbar : Bool) (e : Eng) : Eng :=
  let q := e.stage.bank slice bank
  if (if xbar then q.owedXbar else q.owedLink) = 0 then e
  else e.updBank slice bank fun q =>
    if xbar then { q with xbar := q.xbar + 1, owedXbar := q.owedXbar - 1 } else { q with link := q.link + 1, owedLink := q.owedLink - 1 }

/-- The outcome of R144 for an attempt at its first partial. -/
inductive Judged where
  | stale | duplicate | held | admitted
  deriving DecidableEq, Repr

/-- The first rule of R144 that applies. -/
def Eng.judge (e : Eng) (c : TileCtx) (a : Attempt) : Judged :=
  if a.gen ≠ c.gen ∨ c.sweeping then .stale
  else if c.marks.contains (a.comm, a.kstep) ∨ a.kstep < c.floorOf a.comm then .duplicate
  else if e.held a then .held
  else .admitted

/-- An attempt is admitted: it takes the frozen progress record of its K-step and committer, or a new one. -/
def Eng.admitAtt (a : Attempt) (e : Eng) : Eng :=
  let e := e.updAtt a.id fun a => { a with st := .admitted }
  e.updCtx a.ctx fun c =>
    if c.progress.any fun r => r.comm == a.comm && r.kstep == a.kstep then
      { c with progress := mapIf (fun r => r.comm == a.comm && r.kstep == a.kstep) (fun r => { r with holder := some a.id }) c.progress }
    else { c with progress := c.progress ++ [⟨a.comm, a.kstep, [], some a.id⟩] }

/-- A residue fault of an attempt in a combiner or a near-bank adder (R427, R429): the attempt freezes; a K-step that has
frozen REEXEC_LIMIT times ends the command. -/
def Eng.residueFreeze (a : Attempt) (code unit index sub : Nat) (e : Eng) : Eng :=
  let e := (e.bump 45 1).updCtx a.ctx fun c => { c with freezes := nput c.freezes a.kstep (nget c.freezes a.kstep 0 + 1) }
  let e := e.freeze a.id
  match e.ctx? a.ctx with
  | none => e.logFault code unit index sub none false
  | some c =>
    if e.health.reexec.toNat ≤ nget c.freezes a.kstep 0 then
      (e.endCmd c.ch c.seq 0x22 0).logFault code unit index sub (some c.ch) false
    else e.logFault code unit index sub (some c.ch) true

/-- The sector with one word of an update added, the additions that left a residue fault, and the low misses or overflows counted
(R45, R46, R95). -/
def addWord (acc : Nat) (x : SectorRead × Bool × Nat) (u : PartialW × Nat) : SectorRead × Bool × Nat :=
  let (r, bad, low) := x
  if acc ≥ 2 then
    let (fv, ovf) := fastAccumulate (fastFmt acc) (sectorFast u.2 r) u.1.fv
    (putFast u.2 fv r, bad, low + u.1.low + b2n ovf)
  else
    let sum := zAdd (accWidth acc) (sectorWord acc u.2 r) u.1.z
    (putWord acc u.2 sum r, bad || sum.residueFault, low + u.1.low)

/-- The row that column `col` of an attempt takes next (R145). -/
def TileCtx.nextRow (c : TileCtx) (a : Attempt) (col : Nat) : Nat :=
  ((c.progress.find? fun r => r.comm == a.comm && r.kstep == a.kstep).map fun r => nget r.rows col 0).getD 0

/-- An update of an admitted attempt (R133, R135, R145): the words that are the next row of their columns are added in one
operation, words below it are discarded; the write is suppressed, and the attempt freezes, on an uncorrectable sector or a
residue fault. -/
def Eng.addUpdate (slice bank : Nat) (c : TileCtx) (a : Attempt) (u : BankUpd) (upset : Upset) (fault : Bool)
    (moved : List StageRead) (e : Eng) : Eng :=
  let old := u.adds.filter fun x => decide (x.1.row < c.nextRow a x.1.col)
  let now := u.adds.filter fun x => x.1.row == c.nextRow a x.1.col
  let e := e.bump 14 old.length
  if now.isEmpty then e
  else
    match e.stage.readSector u.key upset with
    | none =>
      let e := ((e.bump 40 1).freeze a.id).updStage fun s => { s with suspect := u.key :: s.suspect }
      e.wantReplay c.id 0x21 0x20 1 slice bank
    | some r =>
      let e := e.countRead moved slice bank r
      let (r, bad, low) := now.foldl (addWord c.acc) (r, false, 0)
      if bad || (fault && decide (c.acc < 2)) then e.residueFreeze a 0x12 1 slice bank
      else
        let e := e.updStage fun s => (s.putSector u.key r.data r.side).rewrote [u.key]
        e.updCtx c.id fun c => { c with
          low := c.low + low
          progress := mapIf (fun r => r.comm == a.comm && r.kstep == a.kstep)
            (fun r => { r with rows := now.foldl (fun m x => nput m x.1.col (x.1.row + 1)) r.rows }) c.progress }

/-- An update of staging issues (R133, R135): its sector is read, and the words are added where it can be. -/
def Eng.addToStaging (u : StageUpd) (upset : Upset) (fault : Bool) (moved : List StageRead) (e : Eng) : Eng :=
  let reads := if upset.isEmpty then moved else (u.slot, upset) :: moved
  let e := e.readSlots reads [u.slot]
  if (upsetOutcome upset).isNone then
    match u.part with
    | .addx _ origin ptag => e.worseTgt origin ptag 0x21
    | .up _ _ _ _ => e
  else e.addStaging fault u

/-- READ_MODIFY_WRITE (R133): the update at the head of a conflict queue issues. -/
def Eng.readModifyWrite (rd : Nat → Byte) (slice bank : Nat) (upset : Upset) (fault : Bool) (moved : List StageRead) (e : Eng) : Eng :=
  match (e.stage.bank slice bank).q with
  | [] => e
  | u :: _ =>
    let out := e.updBank slice bank Bank.issue
    if let some x := u.staging then ((out.addToStaging x upset fault moved).settleTgts).collSettle rd else
    match (u.adds.head?.bind fun x => e.att? x.1.att) with
    | none => out
    | some a =>
      match e.ctx? a.ctx with
      | none => out
      | some c =>
        match a.st with
        | .duplicate => out
        | .admitted => out.addUpdate slice bank c a u upset fault moved
        | .fresh =>
          match e.judge c a with
          | .held => e
          | .stale => ((out.purge a.id).dropAtt a.id).bump 13 1
          | .duplicate => out.updAtt a.id fun a => { a with st := .duplicate }
          | .admitted =>
            let e2 := out.admitAtt a
            e2.addUpdate slice bank ((e2.ctx? a.ctx).getD c) a u upset fault moved

/-- Whether the last step-end token of an attempt has passed its read-modify-write (R86). -/
def Eng.allTokens (e : Eng) (a : Attempt) : Bool := decide (a.cols ≤ a.tokens.length) && !e.queued a.id

/-- COMMIT (R147): the mark of the K-step and committer is set, the count of R86 added and the progress record freed; the
tile is ready when the count is complete (R87). An attempt that brought no partial is judged here. -/
def Eng.commit (i : Nat) (e : Eng) : Eng :=
  match e.att? i with
  | none => e
  | some a =>
    match e.ctx? a.ctx with
    | none => if e.allTokens a then e.dropAtt i else e
    | some c =>
      let j := if a.st = .fresh then e.judge c a else if a.st = .admitted then .admitted else .duplicate
      if e.allTokens a then
        match j with
        | .stale => (e.dropAtt i).bump 13 1
        | .admitted =>
          let e := (e.dropAtt i).updCtx c.id fun c => { c with
            marks := (a.comm, a.kstep) :: c.marks
            count := c.count + (if c.path = .compacted then 1 else shapeCount c.shape)
            dropped := c.dropped + lsum (a.tokens.map (·.2))
            progress := c.progress.filter fun r => !(r.comm == a.comm && r.kstep == a.kstep) }
          (e.markReady ((e.ctxCmd c).any fun m => m.2.1.d.isSome) c.id).armLeaving
        | _ => e
      else e

/-- DUPLICATE_COMMIT (R144): the last token of a duplicate attempt arrives; it is counted and adds nothing. -/
def Eng.duplicateCommit (i : Nat) (e : Eng) : Eng :=
  match e.att? i with
  | none => e
  | some a =>
    let dup := a.st == .duplicate || (a.st == .fresh && (e.ctx? a.ctx).any fun c => decide (e.judge c a = .duplicate))
    if dup ∧ e.allTokens a then ((e.dropAtt i).bump 12 1).armLeaving else e

/-- The D word of an element with its side bytes (R169, R166). -/
def Problem.dWord (p : Problem) (rd : Nat → Byte) (d : Opd) (b m n : Nat) : ZWord :=
  let y := p.addrD d b m n
  rdZ rd p.W y (d.sideOf y)

/-- INITIAL_ACCUMULATOR_LOAD (R170): the D words of a tile's in-range elements enter its accumulator before its first
attempt is admitted, with every panel that holds one verified (R167, R425); a panel that fails, a word that fails R23 and a
unit that cannot be read (R427) end the command. An adder that fails its check (R46, R426) adds nothing, and the tile asks for a
replay, which loads D again (DEDUCED, log entry 153). -/
def Eng.initialLoad (rd : Nat → Byte) (ctx : Nat) (bad : List BadUnit) (fault : Bool) (e : Eng) : Eng :=
  match e.ctx? ctx with
  | none => e
  | some c =>
    match e.ctxCmd c with
    | none => e
    | some (m, p, _) =>
      match p.d with
      | none => e
      | some d =>
        let cells := (List.range c.rows).flatMap fun i => (List.range (shapeN c.shape)).filterMap fun j =>
          if c.org.m + i < p.lens.m ∧ c.org.n + j < p.lens.n then some (i, j, p.dWord rd d c.org.b (c.org.m + i) (c.org.n + j)) else none
        let places := cells.map fun x => p.addrD d c.org.b (c.org.m + x.1) (c.org.n + x.2.1)
        let words := places.flatMap fun y => [(y, p.W / 8), (d.sideOf y, 2)]
        if c.dLoaded ∨ c.sweeping ∨ m.ending ∨ c.needReplay.isSome then e
        else
        let panels := d.panelsAt places
        let (ok, e) := e.readAll bad (some c.ch) (words ++ d.panelReads panels)
        let (n, fail) := checkPanels rd (fun _ => false) d.base d.checkBase panels
        let e := e.bump 42 n
        if !ok then e.endCmd c.ch c.seq 0x21 0
        else if let some q := fail then (e.endCmd c.ch c.seq 0x20 0).panelFault (d.base + 4096 * q) c.ch
        else if cells.any fun x => x.2.2.residueFault then
          ((e.bump 45 1).endCmd c.ch c.seq 0x22 0).logFault 0x12 1 c.home 0 (some c.ch) false
        else if fault && !cells.isEmpty then (e.bump 45 1).wantReplay ctx 0x22 0x12 1 c.home 0
        else
          let e := cells.foldl (fun e x =>
            match c.place c.acc x.1 x.2.1 with
            | some (_, _, key) => e.updStage fun s =>
              match s.readSector key [] with
              | some r =>
                let pc := accColOf c x.1 x.2.1
                let r := putWord c.acc pc (zAdd p.W (sectorWord c.acc pc r) x.2.2) r
                s.putSector key r.data r.side
              | none => s
            | none => e) e
          (e.updCtx ctx fun c => { c with dLoaded := true }).markReady true ctx

/-! ### The array's faults that need the Stage -/

/-- The physical column that serves a logical column (R69). -/
def Pod.physCol (d : Pod) (col : Nat) : Nat := ((d.spares.find? fun s => s.2 == col).map fun s => 128 + s.1).getD col

/-- PARTIAL_EMIT (R71, R428): a residue fault of the column, in fast mode one of its multipliers (R426), is a fault of its pod,
and the partial does not leave. -/
def Eng.partialEmitF (pod col : Nat) (fault : Bool) (e : Eng) : Eng :=
  let live := !((e.pod pod).col col).tree.isEmpty || !((e.pod pod).rowsFor col).isEmpty
  if fault && live && e.serves pod then e.podFail pod .residue ((e.pod pod).physCol col) else e.partialEmit pod col

/-- LANE_PAIR_STEP (R252, R428). -/
def Eng.lanePairStepF (rd : Nat → Byte) (pod lane : Nat) (fault : Bool) (e : Eng) : Eng :=
  let live := (e.pod pod).batches.any fun b => (b.lanes[lane]?).any fun l => !l.done
  if fault && live && e.serves pod then e.podFail pod .residue ((e.pod pod).physCol lane) else e.lanePairStep rd pod lane

/-- The first partial in a member's queue of a combiner under an undetected error of its transfer. -/
def Gang.flipHead (g : Gang) (k acc pc : Nat) (r : SectorRead) : Gang :=
  match nget g.comb k [] with
  | [] => g
  | x :: l => { g with comb := nput g.comb k (flipPartial acc pc r x :: l) }

/-- GANG_COMBINE (R79, R94, R427) of clean transfers: a residue fault in the combiner freezes the attempt. -/
def Eng.gangAdd (q col : Nat) (fault : Bool) (e : Eng) : Eng :=
  match e.combHeads q col with
  | some (c, p, h :: _) =>
    match e.att? h.att with
    | some a =>
      if fault && !p.fast then
        (e.updGang q fun g => g.popHeads c.shape col).residueFreeze a 0x11 0 ((e.podAt (4 * q)).getD 0) 0
      else e.gangCombine q col
    | none => e.gangCombine q col
  | _ => e.gangCombine q col

/-- GANG_COMBINE: an upset strikes the first member's transfer on a quad link (R422; DEDUCED, log entry 153). -/
def Eng.gangCombineF (q col : Nat) (add : CombineAdd) (e : Eng) : Eng :=
  match if add.upset.isEmpty then none else e.combHeads q col with
  | some (c, _, h :: _) =>
    match if h.token then none else e.att? h.att, upsetOutcome add.upset with
    | some a, none => (e.updGang q fun g => g.popHeads c.shape col).transferLost a 0 ((e.podAt (4 * q)).getD 0) 0
    | some _, some w =>
      ((e.updGang q fun g => g.flipHead (combKey (2 * (col / 128)) (col % 128)) c.acc (accColOf c h.row h.tc) w).bump 39
        (b2n w.dataFixed)).gangAdd q col add.fault
    | none, _ => e.gangAdd q col add.fault
  | _ => e.gangAdd q col add.fault

end Sys2Proof.Machine
end

