-- ==== Sys2Proof/Machine/Feed.lean ====
section
/-!
DEFINITION. What feeds the array: program images (R184), operand lines with their panels (R217 to R219, R425), and the beats of
the memory ports (R474 to R483, R546).
-/

namespace Sys2Proof.Machine

/-! ### Programs (R184) -/

/-- The run of a command at a position. -/
def Eng.runAt (e : Eng) (pos ch seq : Nat) : Option Run :=
  e.place.runs.find? fun r => (takerPositions r.taker).contains pos && r.ch == ch && r.seq == seq

/-- PROGRAM_FETCH (R184): a pod that serves a position of a run fetches the image of the run's shape and a bucket. A unit of
it that cannot be read ends the command (R427). -/
def Eng.programFetch (pod ch seq bucket : Nat) (bad : List BadUnit) (e : Eng) : Eng :=
  match (e.pod pod).lpos with
  | none => e
  | some pos =>
    match e.runAt pos ch seq, (e.cmd? ch seq).bind (·.prob) with
    | some r, some p =>
      let g := p.progs.getD (6 * r.shape + bucket) ⟨0, 0, false⟩
      if bucket < 6 ∧ p.sheet.buckets.testBit bucket ∧ g.valid ∧ g.pbase ≠ builtinBase ∧ e.serves pod
          ∧ ¬ (e.pod pod).store.contains (g.pbase, g.plen) then
        let (ok, e) := e.readAll bad (some ch) [(g.pbase, 64 * g.plen)]
        if !ok then e.endCmd ch seq 0x21 0
        else e.updPod pod fun d => { d with store := d.store ++ [(g.pbase, g.plen)], fetches := d.fetches + 1 }
      else e
    | _, _ => e

/-! ### Operand lines (R217 to R219, R425) -/

/-- An operand of a command cannot be obtained at a position: the attempts that still stream there cannot go on, and become
stale as under the sweep that follows (R434, R150). -/
def Eng.abandon (pos ch seq : Nat) (e : Eng) : Eng :=
  (e.place.ctxs.filter fun c => c.ch == ch && c.seq == seq && c.usesPos pos).foldl (fun e c =>
    let live := e.place.atts.filter fun a => a.ctx == c.id &&
      e.pods.any fun d => d.feeders.any fun f => f.step.any fun t => t.att == a.id
    (live.foldl (fun e a => ((e.purge a.id).dropAtt a.id).bump 13 1) e).stopStream c.id) e

/-- The lines that are read together with a line: its panel where the tensor carries checks (R425). -/
def Problem.lineGroup (p : Problem) (t : Tensor) (line : Nat) : List Nat :=
  match p.checked t with
  | none => [line]
  | some o => panelLines o line

/-- Lines that have arrived get their fill token; the expansion of the dense path goes on with what they hold (R219, R247). -/
def Eng.grantLines (p : Problem) (r : Run) (pos : Nat) (t : Tensor) (ls : List Nat) (e : Eng) : Eng :=
  (ls.foldl (fun e l => e.updBuf pos r.id t l fun b => { b with token := true }) e).advanceWalks p pos r.id

/-- OPERAND_FILL (R219, R425): while a line, or another of its panel, has not been asked for, it is asked for under a fill
credit; once the units are there, the panel is verified and the fill token given. A panel that fails is read once more, and a
second failure ends the command with PANEL_CHECK (0x20). -/
def Eng.operandFill (rd : Nat → Byte) (pos run : Nat) (t : Tensor) (line : Nat) (e : Eng) : Eng :=
  match e.place.runs.find? fun r => r.id == run && (takerPositions r.taker).contains pos with
  | none => e
  | some r =>
    match (e.cmd? r.ch r.seq).bind (·.prob) with
    | none => e
    | some p =>
      if !e.served pos ∨ !p.mayFill rd t line then e
      else
        let ls := p.lineGroup t line
        let missing := ls.filter fun l => (e.buf? pos run t l).isNone
        if !missing.isEmpty then missing.foldl (fun e l => e.askLine rd r pos t (p.unitMask rd t p.wholeSpan l) l) e
        else if (ls.all fun l => (e.buf? pos run t l).any (·.token)) || !(ls.all fun l => (e.buf? pos run t l).any BufLine.complete) then e
        else
          match p.checked t with
          | none => e.grantLines p r pos t ls
          | some o =>
            let data := ls.flatMap fun l => ((e.buf? pos run t l).map BufLine.bytes).getD []
            let q := (256 * line - o.base) / 4096
            let e := e.noteTook [(o.checkBase + 4 * q, 4)]
            if crc32c data = rdNat rd (o.checkBase + 4 * q) 4 then (e.grantLines p r pos t ls).bump 42 1
            else if (e.buf? pos run t line).any fun b => b.tries == 0 then ls.foldl (fun e l => e.reaskLine r pos t 1 l) e
            else if (e.cmd? r.ch r.seq).any (·.ending) then e.abandon pos r.ch r.seq
            else ((e.endCmd r.ch r.seq 0x20 0).panelFault (line * 256) r.ch).abandon pos r.ch r.seq

/-- One unit of a buffered line read with an upset (R421, R427): a correction is counted for its bank; an uncorrectable one is
logged, and the line is read again from memory before any row uses it. What an undetected error makes of the bytes is what the
feeder gets (R421). `moved` are the staging sectors that a bank failure moves (R154). -/
def Eng.upsetUnit (moved : List StageRead) (pos run : Nat) (t : Tensor) (line : Nat) (e : Eng) (x : Nat × Upset) : Eng :=
  match e.buf? pos run t line, e.place.runs.find? fun r => r.id == run with
  | some b, some r =>
    if b.token && b.mask.testBit x.1 then
      let key := b.cells.getD x.1 0
      match upsetOutcome x.2 with
      | some w =>
        (e.updBuf pos run t line fun b => { b with units := nput b.units x.1 (xorBytes ((nget? b.units x.1).getD []) w.data) }).countRead
          moved pos (keyBank key) w
      | none => (((e.bump 40 1).logFault 0x21 7 pos 0 (some r.ch) true).updStage fun s =>
          { s with suspect := key :: s.suspect }).reaskLine r pos t 0 line
    else e
  | _, _ => e

/-- OPERAND_FILL with upsets of units of the line in the operand region (R427). -/
def Eng.operandFillF (rd : Nat → Byte) (pos run : Nat) (t : Tensor) (line : Nat) (reads : List (Nat × Upset))
    (moved : List StageRead) (e : Eng) : Eng :=
  if reads.isEmpty then e.operandFill rd pos run t line else reads.foldl (Eng.upsetUnit moved pos run t line) e

/-! ### Beats of the memory ports -/

/-- What the engine receives as unit `u` of a line (R482): with generated check bytes, an upset of the data goes unseen. -/
def Eng.unitRead (e : Eng) (rd : Nat → Byte) (line u : Nat) (up : Upset) : CodeRead :=
  let w := upsetBytes up (unitOf (rdBytes rd (256 * line + 32 * u) 32))
  if e.chkgen then .clean (w.take 32) else rsDecode w

/-- One unit of a beat: delivered to the buffers that wait for it, or read once more, or the command's end (R427, R483). -/
def Eng.takeUnit (rd : Nat → Byte) (port u : Nat) (err : Bool) (up : Upset) (q : RdReq) (e : Eng) : Eng :=
  let r := if err then CodeRead.bad else e.unitRead rd q.line u up
  let had := fun (x : RdReq) => { x with mask := x.mask - 2 ^ u }
  let e := e.updPort port fun p => { p with rd := mapIf (fun x => x.tag == q.tag) had p.rd }
  let cells := ((e.buf? q.pos q.run q.tensor q.line).map fun b => b.cells).getD []
  let give := fun (b : List Byte) (e : Eng) => (e.updBuf q.pos q.run q.tensor q.line fun l => { l with units := nput l.units u b }).updStage
    (Stage.rewrote [cells.getD u 0])
  match r with
  | .clean b => give b e
  | .corrected b => (give b e).bump 39 1
  | .bad =>
    let e := e.bump 53 1
    let e := if err || q.again.testBit u then e else e.bump 40 1
    if q.again.testBit u then
      ((e.endCmd q.ch q.seq 0x21 0).logFault 0x22 2 port 0 (some q.ch) false).abandon q.pos q.ch q.seq
    else
      let x : RdReq := { q with tag := 0, mask := 2 ^ u, again := 2 ^ u }
      (e.updPort port fun p => { p with rq := p.rq ++ [x] }).logFault 0x22 2 port 0
        (some q.ch) true

/-- MEMORY_READ_BEAT (R478, R482, R483): the wanted units of one half of a line; none where no such read is outstanding. -/
def Eng.readBeat (rd : Nat → Byte) (port tag : Nat) (half : Bool) (err : BitVec 4) (ups : List (Nat × Upset)) (e : Eng) : Option Eng :=
  match (e.port port).rd.find? fun r => r.tag == tag with
  | none => none
  | some q =>
    let us := ((List.range 4).map fun j => (j, 4 * b2n half + j)).filter fun x => q.mask.testBit x.2
    if us.isEmpty then none
    else
      let e := us.foldl (fun e x =>
        e.takeUnit rd port x.2 (err.getLsbD x.1) (((ups.find? fun y => y.1 == x.1).map (·.2)).getD []) q) e
      some (e.updPort port fun p => { p with rd := p.rd.filter fun r => r.mask != 0 })

/-- A write of an owner has failed (R483, R546). -/
def Eng.failOwner (o : Owner) (e : Eng) : Eng :=
  match o with
  | .cmd ch seq =>
    let e := e.endCmd ch seq 0x21 0
    let f := fun (x : RemOp) => { x with res := { x.res with status := statusMax x.res.status 0x21 } }
    let ops := mapIf (fun (x : RemOp) => x.by_ == .cmd ch seq) f e.remote.ops
    { e with remote := { e.remote with ops := ops } }
  | .channel c =>
    match (e.ch c).state with
    | .resetting => e
    | .error => e.updCh c fun x => { x with errDetail := 0x06 }
    | _ => (e.updCh c fun x => { x with state := .error, errDetail := 0x06 }).raiseIrq c
  | .home w =>
    if e.remote.winLast = w then { e with remote := { e.remote with winFaulted := true } } else e
  | .coll g _ => e.abortSelf g 0x21
  | .remote origin ptag =>
    if origin = 65536 then e.updOp ptag fun o => { o with res := { o.res with status := statusMax o.res.status 0x21 } }
    else e.updTgt origin ptag fun t => { t with status := statusMax t.status 0x21 }
  | .none => e

/-- MEMORY_WRITE_ACK (R480, R483, R546): the accept token of a write; a write that could not be performed leaves free bytes and
ends what issued it, while a later write of the same bytes, which waits for this one (R479), still stands; none where no such write
is outstanding. -/
def Eng.writeAck (rd : Nat → Byte) (port tag : Nat) (err : Bool) (e : Eng) : Option Eng :=
  match (e.port port).wr.find? fun w => w.tag == tag with
  | none => none
  | some w =>
    let ch := match w.owner with | .cmd c _ => some c | .channel c => some c | _ => none
    let later := (e.port port).unsent.flatMap fun x => x.2.filter fun b => w.addrs.contains b.1
    let e := if err then (((e.freeBytes w.addrs).poke later).bump 54 1) else e
    let e := e.updPort port fun p => { p with wr := p.wr.filter fun x => x.tag != tag }
    let e := if err then (e.failOwner w.owner).logFault 0x22 2 port 0 ch false else e
    some ((e.settleOps.settleTgts).collSettle rd)

/-- MEMORY_CREDIT (R476, R477). -/
def Eng.memoryCredit (port : Nat) (write : Bool) (e : Eng) : Eng :=
  if port < 32 then e.updPort port fun p =>
    if write then { p with wrCred := p.wrCred + 1 } else { p with rdCred := p.rdCred + 1 }
  else e

end Sys2Proof.Machine
end

