-- ==== Sys2Proof/Machine/Drain.lean ====
section
/-!
DEFINITION. The drain (08): which part a drain takes (R275, R276), the rows it reads (R277), what it writes (R292 to R294, R300,
R58, R268), hand-offs (R301, R302, R433, R502, R503), the clearing of sectors (R149), panel checks (R294) and chain contexts
(R296).
-/

namespace Sys2Proof.Machine

/-! ### Drain units -/

/-- A drain with nothing to do. -/
def DrainUnit.idle : DrainUnit := ⟨none, [], []⟩

/-- Drain of a slice. -/
def Eng.drainUnit (e : Eng) (s : Nat) : DrainUnit := e.drain.units.getD s DrainUnit.idle

/-- A drain changed. -/
def Eng.updDrain (s : Nat) (f : DrainUnit → DrainUnit) (e : Eng) : Eng :=
  { e with drain := { e.drain with units := e.drain.units.modify s f } }

/-- The parts of ready tiles that the drain of a slice may take: context, part number, class, token time. -/
def Eng.readyParts (e : Eng) (s : Nat) : List (TileCtx × Nat × Nat × Nat) :=
  e.place.ctxs.flatMap fun c =>
    match c.readyAt, e.ctxCmd c with
    | some t, some (m, _, _) =>
      if c.sweeping ∨ c.needReplay.isSome ∨ (m.ending ∧ ¬ c.started) then []
      else (c.parts.zipIdx.filter fun x => x.1.slice == s && !x.1.drained).map fun x => (c, x.2, 3 - m.prio, t)
    | _, _ => []

/-- DRAIN_START (R276): a free drain takes the ready part of the highest class, the token that arrived first at a tie. -/
def Eng.drainStart (s : Nat) (e : Eng) : Eng :=
  if s < 32 ∧ (e.drainUnit s).job.isNone then
    let ps := e.readyParts s
    let best := argMin (fun x : TileCtx × Nat × Nat × Nat => x.2.2.2)
      (ps.filter fun x => ps.all fun y => decide (x.2.2.1 ≤ y.2.2.1))
    match best with
    | none => e
    | some (c, i, _, _) =>
      (e.updCtx c.id fun c => { c with started := true }).updDrain s fun u => { u with
        job := some ⟨c.id, i, 0, [], [], false, false, false⟩ }
  else e

/-! ### One row (R277 to R293) -/

/-- The image of an activation slot (R285, R287). -/
def ActSlot.bytes : ActSlot → List Byte
  | .builtin i => (List.range 1056).map (Config.actBuiltin i)
  | .zero => List.replicate 1056 0
  | .image b => b

/-- What the fusion of a command needs (R278). -/
def Eng.fuseEnv (e : Eng) (m : Cmd) (p : Problem) : FuseEnv where
  p := p
  img := if p.drain.act < 8 ∧ ¬ p.drain.chainEn then [] else e.drain.act.map ActSlot.bytes
  chain := if p.drain.chainEn then (nget? e.drain.chains m.ch).map (·.1) else none

/-- The class of an accumulator (R50, R99, R115). -/
def Cmd.classOf (m : Cmd) (p : Problem) (k : GemmKind) (b row n : Nat) (z : ZWord) (fv : Nat) : DClass :=
  if p.fast then classifyFast (fastFmt p.sheet.acc) fv
  else
    let a := m.anchorAt p b row n
    match k with
    | .take => classifyWord p.W (a + nget m.rowExp (p.lineM b row) 0 + nget m.colExp n 0 + 2) z
    | _ => classifyWord p.W a z

/-- The output bytes of an element code at its address: enabled bits and value; a half byte for E2M1 (R164). -/
def codeBytes (p : Problem) (b row n bits : Nat) : List OutByte :=
  let y := p.addrC b row n
  if p.c.fmt = 0 then
    [if p.innerPos .c row n % 2 = 0 then (y, 0x0F, BitVec.ofNat 8 (bits % 16)) else (y, 0xF0, BitVec.ofNat 8 (bits % 16 * 16))]
  else (leBytes (fmtBits p.c.fmt / 8) bits).zipIdx.map fun x => (y + x.2, 0xFF, x.1)

/-- The output bytes of a Zohus element (R24, R58). -/
def wordBytes (p : Problem) (b row n : Nat) (z : ZWord) : List OutByte :=
  let y := p.addrC b row n
  ((z.plane p.W).zipIdx.map fun x => (y + x.2, (0xFF : Byte), x.1)) ++
    (z.sides.zipIdx.map fun x => (p.c.sideOf y + x.2, (0xFF : Byte), x.1))

/-- The threshold bytes of a row of emitted elements (R293). -/
def thrBytes (p : Problem) (line : Nat) (outs : List DrainOut) : List OutByte :=
  if p.drain.thrOp = 0 then []
  else ((outs.map fun o => o.n / 8).eraseDups).map fun j =>
    (p.drain.thrBase + line * p.drain.thrStride + j, 0xFF,
      BitVec.ofNat 8 (lsum ((outs.filter fun o => o.n / 8 == j && o.thr).map fun o => 2 ^ (o.n % 8))))

/-- Bytes of one row of element codes packed under R164. -/
def packRow (fmt : Nat) : List Nat → List Byte
  | [] => []
  | x :: r =>
    if fmt = 0 then
      match r with
      | y :: t => BitVec.ofNat 8 (x % 16 + 16 * (y % 16)) :: packRow fmt t
      | [] => [BitVec.ofNat 8 (x % 16)]
    else leBytes (fmtBits fmt / 8) x ++ packRow fmt r

/-- Payload bytes per row of a hand-off with `nt` columns (R302). -/
def handPitch (p : Problem) (nt : Nat) : Nat :=
  let w := cdiv (nt * fmtBits p.c.fmt) 8 + (if isZohus p.c.fmt then 2 * nt else 0)
    + (if p.drain.oscale = 0 then 0 else nt / blockWidth p.drain.oscale)
  cdiv w 32 * 32

/-- The columns of a part that its drain emits, as the first and their number (NT of R302): all 64 or 128 of the part, but for a
stretch of 64 that a tile of another shape drained before the item was relocated (R60, R215; DEDUCED, log entry 154). -/
def TileCtx.owed (c : TileCtx) (part : Part) : Nat × Nat :=
  if c.drained64 = [] then (0, part.cols)
  else
    let js := (List.range part.cols).filter fun j => !c.drained64.contains ((part.colLo + j) / 64)
    (js.headD 0, js.length)

/-- Bytes padded with zeros to a length. -/
def padTo (n : Nat) (b : List Byte) : List Byte := b ++ List.replicate (n - b.length) 0

/-- What one row gives: output bytes, payload, and the counts. -/
structure RowOut where
  mem : List OutByte
  payload : List Byte
  tally : Tally
  deriving DecidableEq, Repr

/-- One in-range row of a part: `acc j` is the accumulator of part column `j` (word, and fast value). Zohus outputs take the
words as they stand (R58); a suppressed one is zero (R264, R267). In a hand-off a block without an in-range column
has the scale code 127, that of X = 0 (R290; DEDUCED, log entry 132). -/
def Eng.rowOut (e : Eng) (rd : Nat → Byte) (m : Cmd) (p : Problem) (k : GemmKind) (c : TileCtx) (part : Part) (i : Nat)
    (acc : Nat → ZWord × Nat) : RowOut :=
  let b := c.org.b
  let row := c.org.m + i
  let (j0, nt) := c.owed part
  let acc := fun j => acc (j0 + j)
  let n0 := c.org.n + part.colLo + j0
  let js := (List.range nt).filter fun j => decide (n0 + j < p.lens.n)
  if isZohus p.c.fmt then
    let sup := js.filter fun j => isSuppressed rd p b row (n0 + j)
    let aud := sup.filter fun j => isAudited p b row (n0 + j)
    let wrong := aud.countP fun j => match m.classOf p k b row (n0 + j) (acc j).1 0 with
      | .special _ => true
      | .num x _ => x != 0
    let zs := js.map fun j => (n0 + j, if sup.contains j then ZWord.zero else (acc j).1)
    { mem := if p.drain.dest = 1 then [] else zs.flatMap fun z => wordBytes p b row z.1 z.2
      payload := if p.drain.dest = 0 then [] else
        padTo (handPitch p nt) (padTo (nt * (p.W / 8)) (zs.flatMap fun z => z.2.plane p.W) ++ zs.flatMap fun z => z.2.sides)
      tally := ⟨0, 0, js.length, sup.length, aud.length, wrong⟩ }
  else
    let ins := js.map fun j =>
      let n := n0 + j
      let s := isSuppressed rd p b row n
      (⟨n, m.classOf p k b row n (acc j).1 (acc j).2, srBits p.c.tensorId p.sheet.step (p.grow b row) (p.gcol n), s,
        s && isAudited p b row n⟩ : DrainIn)
    let (outs, scales) := emitRow (e.fuseEnv m p) ins
    let line := p.lineM b row
    let scaleBytes := scales.map fun x => (p.drain.oscaleBase + line * p.drain.oscaleStride + x.1, (0xFF : Byte), BitVec.ofNat 8 x.2)
    let codes := (outs.map (·.bits)) ++ List.replicate (nt - outs.length) 0
    let w := blockWidth p.drain.oscale
    let sc := if p.drain.oscale = 0 then [] else
      (List.range (nt / w)).map fun q => BitVec.ofNat 8 (nget scales (n0 / w + q) 127)
    { mem := (if p.drain.dest = 1 then [] else outs.flatMap fun o => codeBytes p b row o.n o.bits) ++ scaleBytes ++ thrBytes p line outs
      payload := if p.drain.dest = 0 then [] else padTo (handPitch p nt) (packRow p.c.fmt codes ++ sc)
      tally := ⟨outs.countP (·.ranged), outs.countP (·.nonfin), outs.length, outs.countP (·.supp), outs.countP (·.audit),
        outs.countP (·.misp)⟩ }

/-- Output bytes gathered by line (R300). -/
def outLines (ch seq : Nat) (bs : List OutByte) : List OutLine :=
  ((bs.map fun b => b.1 / 256).eraseDups).map fun l => ⟨ch, seq, bs.filter fun b => b.1 / 256 == l⟩

/-- The panel of a byte at `a` under descriptor `o`, with the half bytes `half` of it written (R167, R294). -/
def Opd.panelDue (o : Opd) (a half : Nat) : PanelDue :=
  let q := (a - o.base) / 4096
  ⟨o.base + 4096 * q, o.checkBase + 4 * q, half * 4 ^ ((a - o.base) % 4096)⟩

/-- Panels due joined: one for each panel, with every half byte written of it. -/
def joinPanels (ps qs : List PanelDue) : List PanelDue :=
  qs.foldl (fun ps q =>
    if ps.any fun p => p.addr == q.addr then mapIf (fun p => p.addr == q.addr) (fun p => { p with wrote := p.wrote ||| q.wrote }) ps
    else ps ++ [q]) ps

/-- The panel of a byte that a command writes, where a descriptor of the command covers it with panel checks (R294, R167). -/
def Problem.panelOf (p : Problem) (a half : Nat) : Option PanelDue :=
  (p.opds.find? fun o => o.checkBase != 0 && decide (o.base ≤ a ∧ a < o.base + o.size)).map fun o => o.panelDue a half

/-- The half bytes that an output byte writes. -/
def outHalves (b : OutByte) : Nat := b2n (b.2.1 &&& 0x0F != 0) + 2 * b2n (b.2.1 &&& 0xF0 != 0)

/-- The panels of the in-range elements of C of a row, whatever DEST holds, and of the other bytes written. Where C has no panel
checks but lies over a D that has, those are the panels of D (R171; DESIGN CHOICE, log entry 160). -/
def Problem.rowPanels (p : Problem) (c : TileCtx) (part : Part) (i : Nat) (bs : List OutByte) : List PanelDue :=
  let (j0, nt) := c.owed part
  let n0 := c.org.n + part.colLo + j0
  let own := if p.c.checkBase = 0 then [] else
    ((List.range nt).filter fun j => decide (n0 + j < p.lens.n)).filterMap fun j =>
      p.panelOf (p.addrC c.org.b (c.org.m + i) (n0 + j)) 0
  joinPanels [] (own ++ bs.filterMap fun b => p.panelOf b.1 (outHalves b))

/-- The sum of two tallies. -/
def Tally.add (a b : Tally) : Tally :=
  ⟨a.ranged + b.ranged, a.nonfin + b.nonfin, a.elems + b.elems, a.supp + b.supp, a.audited + b.audited, a.misp + b.misp⟩

/-! ### Hand-offs (R301, R302, R433) -/

/-- BLOCKS of R302. -/
def Problem.blocksOf (p : Problem) : Nat :=
  let R := if p.sheet.acc = 1 ∧ p.mb = 1024 then 512 else max 1 p.mb
  p.lens.b * cdiv p.lens.m R * cdiv p.lens.n 64

/-- TILE of R268; where N is an odd multiple of 64, N/128 is rounded down (DESIGN CHOICE, log entry 159). -/
def Problem.tileIndex (p : Problem) (c : TileCtx) (colLo : Nat) : Nat :=
  p.lineM c.org.b c.org.m / max 1 p.mb * (p.extent 1 / 128) + (c.org.n + colLo) / 128

/-- The header beat of a part's hand-off. -/
def handHeader (m : Cmd) (p : Problem) (c : TileCtx) (part : Part) (j : DrainJob) : List Byte :=
  let rows := min part.rowHi c.inRows - part.rowLo
  let (j0, nt) := c.owed part
  let n0 := c.org.n + part.colLo + j0
  let v := 4 + m.ch % 256 * 2 ^ 8 + p.c.fmt % 16 * 2 ^ 16 + b2n (p.drain.oscale == 1) * 2 ^ 20 + b2n (p.drain.oscale == 2) * 2 ^ 21
    + b2n (m.replaysOf c != 0) * 2 ^ 22 + b2n j.nonfin * 2 ^ 23 + b2n j.ranged * 2 ^ 24
    + p.sheet.problemId % 2 ^ 32 * 2 ^ 32 + p.lineM c.org.b (c.org.m + part.rowLo) % 2 ^ 32 * 2 ^ 64 + n0 % 2 ^ 32 * 2 ^ 96
    + rows % 2 ^ 16 * 2 ^ 128 + (min (n0 + nt) p.lens.n - n0) % 2 ^ 16 * 2 ^ 144 + nt * 2 ^ 160
    + handPitch p nt % 2 ^ 16 * 2 ^ 176 + p.tileIndex c 0 % 2 ^ 32 * 2 ^ 192 + crc32c j.payload * 2 ^ 256 + m.blocks % 2 ^ 64 * 2 ^ 288
  padTo 256 (leBytes 64 v)

/-- Bytes in beats of 256, the last padded with zeros. -/
def beatsOf : Nat → List Byte → List (List Byte)
  | 0, _ => []
  | n + 1, b => if b.isEmpty then [] else padTo 256 (b.take 256) :: beatsOf n (b.drop 256)

/-- The hand-off of a part whose rows have all been read; one without an in-range element carries no block and is not sent. -/
def handOff (m : Cmd) (p : Problem) (c : TileCtx) (part : Part) (j : DrainJob) : List HandOff :=
  let (j0, nt) := c.owed part
  if p.drain.dest = 0 ∨ c.inRows ≤ part.rowLo ∨ nt = 0 ∨ p.lens.n ≤ c.org.n + part.colLo + j0 then []
  else [⟨m.ch, m.seq, c.id, handHeader m p c part j :: beatsOf j.payload.length j.payload, 0, false⟩]

/-! ### DRAIN_ROW, DRAIN_CLEAR -/

/-- The sectors of row `i` of a part: bank and number. -/
def TileCtx.rowSectors (c : TileCtx) (acc i : Nat) (part : Part) : List (Nat × Nat) :=
  ((List.range part.cols).filterMap fun j => (c.place acc i (part.colLo + j)).map fun x => x.2).eraseDups

/-- How many columns' scale product or bias addition faults in a row (R426): those of the part that `faults` names and that are in
range, where the drain forms one of them. -/
def Problem.stepFaults (p : Problem) (c : TileCtx) (part : Part) (faults : List Nat) : Nat :=
  if !isZohus p.c.fmt && (p.drain.scaleMode != 0 || p.drain.biasMode != 0) then
    faults.eraseDups.countP fun j => decide (j < part.cols ∧ c.org.n + part.colLo + j < p.lens.n)
  else 0

/-- Sectors of a row that cannot be read (R427, R435, R437): each is counted and logged, and is read back once it has been
rewritten; the tile wants a replay. -/
def Eng.rowLost (s ctx : Nat) (bad : List (Nat × Nat)) (e : Eng) : Eng :=
  bad.foldl (fun e x =>
    ((e.bump 40 1).updStage fun st => { st with suspect := x.2 :: st.suspect }).wantReplay ctx 0x21 0x20 1 s x.1) e

/-- `n` mismatches in a row (R427, R437): each is counted and logged, and the tile wants a replay. -/
def Eng.rowFaulted (s ctx n : Nat) (e : Eng) : Eng :=
  (List.range n).foldl (fun e _ => (e.bump 45 1).wantReplay ctx 0x22 0x13 5 s 0) e

/-- DRAIN_ROW (R277): the next row of the part is read and checked, and its in-range elements are emitted. `upsets` strike the
read sectors, by logical bank, `faults` the scale product or the bias addition of columns. A read that fails makes the tile want a
replay (R427), and so does a fault of a column (R426; DEDUCED, log entry 141). -/
def Eng.drainRow (rd : Nat → Byte) (s : Nat) (upsets : List (Nat × Upset)) (faults : List Nat) (moved : List StageRead)
    (e : Eng) : Eng :=
  match (e.drainUnit s).job with
  | none => e
  | some j =>
    match e.ctx? j.ctx with
    | none => e.updDrain s fun u => { u with job := none }
    | some c =>
      match e.ctxCmd c, c.parts[j.part]? with
      | some (m, p, k), some part =>
        let i := part.rowLo + j.next
        if j.stopped ∨ part.rowHi ≤ i ∨ c.needReplay.isSome ∨ c.sweeping then e
        else
          let secs := c.rowSectors c.acc i part
          let reads := secs.map fun x => (x, e.stage.readSector x.2 (((upsets.find? fun u => u.1 == x.1).map (·.2)).getD []))
          let stop := fun (e : Eng) => e.updDrain s fun u => { u with job := u.job.map fun j => { j with stopped := true } }
          let e := reads.foldl (fun e r => match r.2 with | some x => e.countRead moved s r.1.1 x | none => e) e
          let lost := (reads.filter fun r => r.2.isNone).map (·.1)
          if !lost.isEmpty then (stop e).rowLost s c.id lost
          else
            let at_ := fun (t : Nat) => (c.place c.acc i (part.colLo + t)).bind fun x =>
              (reads.find? fun r => r.1.2 == x.2.2).bind (·.2)
            let word := fun (t : Nat) => match at_ t with
              | some r =>
                let pc := c.partCol part (part.colLo + t)
                if p.fast then (ZWord.zero, sectorFast pc r) else (sectorWord c.acc pc r, 0)
              | none => (ZWord.zero, 0)
            let n := (if p.fast then 0 else (List.range part.cols).countP fun t => (word t).1.residueFault) +
              (if i < c.inRows then p.stepFaults c part faults else 0)
            if n ≠ 0 then (stop e).rowFaulted s c.id n
            else
              let o := if i < c.inRows then e.rowOut rd m p k c part i word else ⟨[], [], ⟨0, 0, 0, 0, 0, 0⟩⟩
              let e := if i < c.inRows then e.updCmd m.ch m.seq fun m => { m with
                panels := joinPanels m.panels (p.rowPanels c part i o.mem) } else e
              let e := e.updCtx c.id fun c => { c with tally := c.tally.add o.tally, wrote := c.wrote || !o.mem.isEmpty }
              let e := e.bump 5 o.tally.elems
              let j2 : DrainJob := { j with
                next := j.next + 1, clear := j.clear ++ secs.map (·.2), payload := j.payload ++ o.payload
                nonfin := j.nonfin || o.tally.nonfin != 0, ranged := j.ranged || o.tally.ranged != 0 }
              e.updDrain s fun u => { u with
                job := some j2
                out := u.out ++ outLines m.ch m.seq o.mem
                hand := u.hand ++ if part.rowHi ≤ i + 1 then handOff m p c part j2 else [] }
      | _, _ => e

/-- The counts of a tile whose last part has drained (R47, R98, R259, R262, R283, R449). -/
def Eng.tileDone (m : Cmd) (p : Problem) (k : GemmKind) (c : TileCtx) (s : Nat) (e : Eng) : Eng :=
  let t := c.tally
  let e := e.updCmd m.ch m.seq fun x => { x with res := { x.res with
    count := x.res.count + c.low, rangeCount := x.res.rangeCount + t.ranged, nonfinite := x.res.nonfinite + t.nonfin
    dropped := x.res.dropped + c.dropped } }
  let e := (e.bump 4 1).bumpSet m.reelSet 3 1
  let e := match k with
    | .sparse =>
      let lines : List Nat := c.segs.map fun (g : Segment) => g.row
      let split := lines.eraseDups.countP fun r => decide (1 < (c.segs.filter fun (g : Segment) => g.row == r).length)
      let e := e.bump (match c.path with | .dense => 17 | .structured => 18 | .compacted => 19) 1
      let e := if c.path = TilePath.compacted then (e.bump 20 c.steps).bump 21 split else e
      (((e.bump 22 c.dropped).bump 23 t.supp).bump 24 t.audited).bump 25 t.misp
    | _ => e
  let e := match p.sparse with
    | some sp =>
      if sp.mispBase ≠ 0 ∧ sp.auditA ≠ 0 then
        let bs : List OutByte := (leBytes 4 t.misp).zipIdx.map fun (x : Byte × Nat) => (sp.mispBase + 4 * p.tileIndex c 0 + x.2, 0xFF, x.1)
        e.updDrain s fun u => { u with out := u.out ++ outLines m.ch m.seq bs }
      else e
    | none => e
  let e := { e with place := { e.place with
    ctxs := e.place.ctxs.filter fun x => x.id != c.id } }
  e.endRuns

/-- DRAIN_CLEAR (R149): one sector that has been read is cleared; with the last of the part the drain-done token returns, and
with the last part the tile is finished (R131, R220). The last clear waits until no attempt of the tile is on its way. -/
def Eng.drainClear (s : Nat) (e : Eng) : Eng :=
  match (e.drainUnit s).job with
  | none => e
  | some j =>
    match e.ctx? j.ctx with
    | none => e.updDrain s fun u => { u with job := none }
    | some c =>
      match e.ctxCmd c, c.parts[j.part]? with
      | some (m, p, k), some part =>
        match j.clear with
        | [] => e
        | key :: rest =>
          let last := rest.isEmpty && decide (part.rowHi ≤ part.rowLo + j.next) && !j.stopped &&
            (lset c.parts j.part fun p => { p with drained := true }).all (·.drained)
          if last && e.place.atts.any fun a => a.ctx == c.id then e
          else
          let e := e.wipe [key]
          if rest = [] ∧ part.rowHi ≤ part.rowLo + j.next ∧ ¬ j.stopped then
            let e := e.updDrain s fun u => { u with job := none }
            let parts := lset c.parts j.part fun p => { p with drained := true }
            let e := e.updCtx c.id fun c => { c with parts := parts }
            if parts.all (·.drained) then ((e.stopStream c.id).tileDone m p k { c with parts := parts } s).armLeaving else e
          else e.updDrain s fun u => { u with job := some { j with clear := rest } }
      | _, _ => e

/-! ### OUTPUT_WRITE, HANDOFF, PANEL_CHECK_WRITE -/

/-- The bytes of an output line over what memory holds: the bits that are not enabled stay. -/
def OutLine.resolve (rd : Nat → Byte) (l : OutLine) : List (Nat × Byte) :=
  ((l.bytes.map (·.1)).eraseDups).map fun a =>
    (a, (l.bytes.filter fun b => b.1 == a).foldl (fun v b => (v &&& ~~~ b.2.1) ||| (b.2.2 &&& b.2.1)) (rd a))

/-- Whether the port shell of an output line has a free line (R481). -/
def Eng.outputRoom (e : Eng) (l : OutLine) : Bool :=
  decide ((e.port (portOf ((l.bytes.head?.map (·.1)).getD 0))).unsent.length < 64)

/-- OUTPUT_WRITE without an upset (R300, R481): the next output line of a drain goes to its port shell, which has a free line. -/
def Eng.outputWrite (rd : Nat → Byte) (s : Nat) (e : Eng) : Eng :=
  match (e.drainUnit s).out with
  | [] => e
  | l :: r =>
    if e.outputRoom l then (e.updDrain s fun u => { u with out := r }).write (.cmd l.ch l.seq) (l.resolve rd) else e

/-- An output line whose first 32-byte unit is struck by an undetected error of its transfer (R421). -/
def OutLine.flip (d : List Byte) (l : OutLine) : OutLine :=
  let u := ((l.bytes.head?.map (·.1)).getD 0) / 32
  { l with bytes := l.bytes.map fun b => if b.1 / 32 = u then (b.1, b.2.1, b.2.2 ^^^ d.getD (b.1 % 32) 0) else b }

/-- OUTPUT_WRITE, with an upset of a transfer of the line on the drain path (R422): a line that cannot be corrected is not written, and
its command ends with SECTOR_UNCORRECTABLE (DEDUCED, log entry 153). -/
def Eng.outputWriteF (rd : Nat → Byte) (s : Nat) (upset : Upset) (e : Eng) : Eng :=
  if upset.isEmpty then e.outputWrite rd s
  else
    match (e.drainUnit s).out with
    | [] => e
    | l :: r =>
      if !e.outputRoom l then e
      else
        match upsetOutcome upset with
        | none =>
          (((e.updDrain s fun u => { u with out := r }).bump 40 1).endCmd l.ch l.seq 0x21 0).logFault 0x20 5 s 0 (some l.ch) false
        | some w => ((e.updDrain s fun u => { u with out := l.flip w.data :: r }).outputWrite rd s).bump 39 (b2n w.dataFixed)

/-- Vector port `v`. -/
def Eng.vport (e : Eng) (v : Nat) : VPort := e.drain.ports.getD v ⟨0, none, 0, []⟩

/-- The drain whose hand-off a vector port serves: the one in progress, or the next of its four in turn (R301). -/
def Eng.vpTurn (e : Eng) (v : Nat) : Option Nat :=
  match (e.vport v).active with
  | some s => some s
  | none => ((List.range 4).map fun i => 4 * v + ((e.vport v).lastDrain + 1 + i) % 4).find? fun s => !(e.drainUnit s).hand.isEmpty

/-- HANDOFF (R301, R502, R503): one beat of a drain's hand-off leaves under a credit. -/
def Eng.handoff (s : Nat) (e : Eng) : Eng :=
  let v := s / 4
  match (e.drainUnit s).hand with
  | [] => e
  | h :: rest =>
    match h.beats with
    | [] => e.updDrain s fun u => { u with hand := rest }
    | b :: bs =>
      if s < 32 ∧ 0 < (e.vport v).credits ∧ e.vpTurn v = some s then
        let last := bs.isEmpty
        let e := e.updDrain s fun u => { u with hand := if last then rest else { h with beats := bs, sent := h.sent + 1 } :: rest }
        let e := { e with drain := { e.drain with ports := e.drain.ports.modify v fun p => { p with
          credits := p.credits - 1, active := if last then none else some s
          lastDrain := if last then s % 4 else p.lastDrain, sent := p.sent ++ [(b, last, h.abort)] } } }
        let e := e.bump 69 1
        if last then (if h.abort then e.bump 70 1 else e.bump 6 1) else e
      else e

/-- VP_CREDIT (R502): a port holds at most 256 credits. -/
def Eng.vpCredit (v : Nat) (e : Eng) : Eng :=
  { e with drain := { e.drain with ports := e.drain.ports.modify v fun p => { p with credits := min 256 (p.credits + 1) } } }

/-- Whether a command has nothing left in its slate, runs and contexts: every drain-done token of it has returned (R220). Of a
command that a fault has ended, a tile that no attempt and no drain works on is left to its sweep (R150, R434). -/
def Eng.tilesDone (e : Eng) (ch seq : Nat) : Bool :=
  let ended := (e.cmd? ch seq).any (·.ending)
  (e.place.slates.all fun s => !(s.ch == ch && s.seq == seq) || (s.reissue.isEmpty && s.waiting.isEmpty && (s.closed || decide (s.items ≤ s.counter)))) &&
    (ended || e.place.runs.all fun r => !(r.ch == ch && r.seq == seq)) &&
    (e.place.ctxs.all fun c => !(c.ch == ch && c.seq == seq) || c.sweeping ||
      (ended && !c.started && !(e.place.atts.any fun a => a.ctx == c.id)))

/-- Whether the tiles of a command are done, and every write of it is accepted (R220). -/
def Eng.cmdDrained (e : Eng) (ch seq : Nat) : Bool :=
  e.tilesDone ch seq && (e.drain.units.all fun u => u.out.all fun l => !(l.ch == ch && l.seq == seq)) && !e.owes (.cmd ch seq)

/-- The units of a panel that hold a half byte that the command has not written (R294). -/
def PanelDue.unwritten (x : PanelDue) : List (Nat × Nat) :=
  ((List.range 128).filter fun u => x.wrote / 2 ^ (64 * u) % 2 ^ 64 != 2 ^ 64 - 1).map fun u => (x.addr + 32 * u, 32)

/-- PANEL_CHECK_WRITE (R294, R434): the check of the panel at address `panel` is written once every write of the command has been
accepted. A panel with a unit that cannot be read, among those that the command has not written, has none, and its command ends
(R427). -/
def Eng.panelCheckWrite (rd : Nat → Byte) (ch seq panel : Nat) (bad : List BadUnit) (e : Eng) : Eng :=
  match e.cmd? ch seq with
  | none => e
  | some m =>
    match m.panels.find? fun x => x.addr == panel with
    | none => e
    | some x =>
      if e.cmdDrained ch seq then
        let e := e.updCmd ch seq fun m => { m with panels := m.panels.erase x }
        let (ok, e) := e.readAll bad (some ch) x.unwritten
        if !ok then e.endCmd ch seq 0x21 0
        else (e.writeNat (.cmd ch seq) x.check 4 (crc32c (rdBytes rd panel 4096))).bump 43 1
      else e

/-! ### CHAIN_CONTEXT_LOAD (R296) -/

/-- Whether a tile of an earlier chain command of the channel has not drained, or is still to come. -/
def Eng.chainBusy (e : Eng) (ch seq : Nat) : Bool :=
  (e.chan.cmds.takeWhile fun m => !(m.ch == ch && m.seq == seq)).any fun m =>
    m.ch == ch && (m.prob.any fun p => p.drain.chainEn) && m.phase != .final && m.phase != .held &&
    ((!m.opened && !m.ending) || !e.tilesDone ch m.seq)

/-- CHAIN_CONTEXT_LOAD: a chain command loads its channel's context after every drain of the earlier one has ended. -/
def Eng.chainLoad (rd : Nat → Byte) (ch seq : Nat) (e : Eng) : Eng :=
  match e.cmd? ch seq with
  | none => e
  | some m =>
    match m.prob with
    | none => e
    | some p =>
      if m.chainWait ∧ !e.chainBusy ch seq then
        let r := rdChain rd p.drain.chain
        let vs := (List.range 4).map fun i => if r.vmask.testBit i then rdWords rd (r.bases.getD i 0) 4 p.lens.n else []
        let e := { e with drain := { e.drain with chains := nput e.drain.chains ch (⟨r, vs⟩, seq) } }
        e.updCmd ch seq fun m => { m with chainWait := false }
      else e

end Sys2Proof.Machine
end

