-- ==== Sys2Proof/Machine/Channels.lean ====
section
/-!
DEFINITION. Channels (09): the entry cache (R309 to R315), doorbells and fetches (R316 to R320), channel errors (R339),
completion records (R330 to R335), and the reset of a channel (R345 to R347).
-/

namespace Sys2Proof.Machine

/-! ### Entries -/

/-- Whether CQ_BASE, CSIZE and CQ_TAIL_LOC of an entry are valid (R339). -/
def ChanEntry.cqValid (n : ChanEntry) : Bool :=
  n.cqBase != 0 && n.cqBase % 32 == 0 && decide (4 ≤ n.csize ∧ n.csize ≤ 16) && n.cqTailLoc != 0 && n.cqTailLoc % 8 == 0

/-- Chain-enabled channels in ACTIVE or ERROR. -/
def Eng.chainCount (e : Eng) : Nat := e.chan.chans.countP fun c => c.2.chain && (c.2.state == .active || c.2.state == .error)

/-- The check of load time that an entry fails (R339). -/
def Eng.entryCheck (e : Eng) (ch : Nat) (n : ChanEntry) : Option Nat :=
  if !(decide (2 ≤ n.gen ∧ n.gen ≤ 4)) || !(decide (4 ≤ n.rsize ∧ n.rsize ≤ 16)) || !n.cqValid || n.ringBase == 0
      || n.ringBase % 64 != 0 || [n.headLoc, n.tailLoc, n.cqHeadLoc].any (fun a => a == 0 || a % 8 != 0) then some 0x02
  else if n.chainEn && (n.gen != 4 || (!(e.ch ch).chain && decide (8 ≤ e.chainCount))) then some 0x03
  else none

/-- The count held by a located word (R310). -/
def rdCount (rd : Nat → Byte) (a : Nat) : Nat := rdNat rd a 4

/-- A located word written. -/
def Eng.putCount (ch a v : Nat) (e : Eng) : Eng := e.writeNat (.channel ch) a 8 (v % 2 ^ 32)

/-- The next stamp of the channel unit. -/
def Eng.tickStamp (e : Eng) : Eng := { e with chan := { e.chan with stamp := e.chan.stamp + 1 } }

/-- Commands of a channel that have been read and not completed. -/
def Eng.inChannel (e : Eng) (ch : Nat) : Nat := e.chan.cmds.countP fun m => m.ch == ch

/-- Whether R313 lets an entry go. -/
def Eng.evictable (e : Eng) (ch : Nat) : Bool :=
  let c := e.ch ch
  c.entry.isSome && !c.chain && e.inChannel ch == 0 && (c.state == .error || c.head == c.tail) && c.rst == 0

/-- Channels whose entry is cached. -/
def Eng.cached (e : Eng) : List Nat := (e.chan.chans.filter fun c => c.2.entry.isSome).map (·.1)

/-- R313: the least recently used entry that may go is written back and leaves; none when a slot is neither free nor to be
had. -/
def Eng.makeRoom (e : Eng) : Option Eng :=
  if e.cached.length < 32 then some e
  else
    match argMin (fun c => (e.ch c).used) (e.cached.filter e.evictable) with
    | none => none
    | some c =>
      match (e.ch c).entry with
      | none => none
      | some n =>
        some (((e.putCount c n.headLoc (e.ch c).head).putCount c n.cqTailLoc (e.ch c).cqTail).updCh c fun x => { x with entry := none })

/-! ### Completion rings (R330 to R333) -/

/-- Whether the ring has room for the known counts. -/
def Chan.room (c : Chan) (n : ChanEntry) : Bool := decide ((c.cqTail + 2 ^ 32 - c.cqHead) % 2 ^ 32 < 2 ^ n.csize)

/-- R332: the room in a channel's ring, CQ_HEAD_LOC being read again when the ring seems full. The second part tells that the
count could not be read. -/
def Eng.ringRoom (rd : Nat → Byte) (bad : List BadUnit) (ch : Nat) (n : ChanEntry) (e : Eng) : Bool × Bool × Eng :=
  if (e.ch ch).room n then (true, false, e)
  else
    let (ok, e) := e.readMem bad none [(n.cqHeadLoc, 8)]
    if ok then
      let e := e.updCh ch fun c => { c with cqHead := rdCount (e.rdb rd) n.cqHeadLoc }
      ((e.ch ch).room n, false, e)
    else (false, true, e)

/-- A completion record written with CQ_TAIL_LOC after it (R331). -/
def Eng.putRecord (ch : Nat) (n : ChanEntry) (op tag seq : Nat) (r : Result) (e : Eng) : Eng :=
  let t := (e.ch ch).cqTail
  let e := e.writeNat (.channel ch) (n.cqBase + 32 * (t % 2 ^ n.csize)) 32 (completionRecord ch op tag n.csize t seq r)
  (e.updCh ch fun c => { c with cqTail := (t + 1) % 2 ^ 32 }).putCount ch n.cqTailLoc (t + 1)

/-- R339: a channel error; the interrupt of R335 is raised as the channel enters ERROR. `n` is the entry as far as it was read, `known` tells whether the completion count is, `seq` the SEQ of
the record; a record of details 0x02 to 0x04 has a free TAG and SEQ, which no rule states. A channel in RESETTING goes on to
DISABLED (R345). -/
def Eng.channelError (rd : Nat → Byte) (bad : List BadUnit) (ch dt : Nat) (n : Option ChanEntry) (known : Bool) (seq : Nat) (e : Eng) : Eng :=
  if (e.ch ch).state = .resetting then e
  else
  let enters := (e.ch ch).state != .error
  let e := e.updCh ch fun c => { c with state := .error, errDetail := dt }
  let e := if enters then e.raiseIrq ch else e
  match n with
  | none => e
  | some n =>
    if known && n.cqValid then
      let (ok, _, e) := e.ringRoom rd bad ch n
      if ok then
        if dt = 0x05 then e.putRecord ch n 0 0 seq (Result.ofStatus 0x40 dt)
        else
          let (k, e) := e.fresh
          let (j, e) := e.fresh
          e.putRecord ch n 0 (Config.freeNat k % 2 ^ 32) (Config.freeNat j % 2 ^ 32) (Result.ofStatus 0x40 dt)
      else e
    else e

/-- The interrupt of a completion (R335). -/
def Eng.completionIrq (m : Cmd) (n : ChanEntry) (st : Nat) (e : Eng) : Eng :=
  if n.irqEn && (bit m.raw 8 || decide (0x08 ≤ st ∧ st ≤ 0x40)) then e.raiseIrq m.ch else e

/-- The counts of a command that completes (R449). -/
def Eng.countDone (m : Cmd) (st : Nat) (e : Eng) : Eng :=
  ((e.bump 3 1).bumpSet m.reelSet 1 1).bumpSet m.reelSet 2 (if 0x10 ≤ st then 1 else 0)

/-- A feeder lane that holds no B tile of a command any more. -/
def Feeder.forget (ch seq : Nat) (f : Feeder) : Feeder :=
  { f with cur := f.cur.filter fun k => !(k.ch == ch && k.seq == seq), load := f.load.filter fun l => !(l.1.ch == ch && l.1.seq == seq) }

/-- A command leaves the engine: with its slate, its runs and their buffer lines, what the feeders know of its B tiles, and its
place in the order. A context that it leaves undrained is swept, for which the command does not wait (R150). -/
def Eng.dropCmd (ch seq : Nat) (e : Eng) : Eng :=
  let e := { e with chan := { e.chan with cmds := e.chan.cmds.filter fun m => !(m.ch == ch && m.seq == seq) } }
  let e := e.dropRuns fun r => r.ch == ch && r.seq == seq
  let e := (e.place.ctxs.filter fun c => c.ch == ch && c.seq == seq && !c.sweeping).foldl (fun e c => e.sweep c.id) e
  { e with
    pods := e.pods.map fun d => { d with feeders := d.feeders.map (Feeder.forget ch seq) }
    place := { e.place with slates := e.place.slates.filter fun s => !(s.ch == ch && s.seq == seq) } }

/-- A command completes (R330 to R335, R449): its record is written, or under SILENT with OK not; a full ring holds it, in the
order of completion. -/
def Eng.complete (rd : Nat → Byte) (bad : List BadUnit) (m : Cmd) (e : Eng) : Eng :=
  match (e.ch m.ch).entry with
  | none => e
  | some n =>
    let (ok, u, e) := e.ringRoom rd bad m.ch n
    let ahead := e.chan.cmds.any fun x => x.ch == m.ch && x.phase == .held && (m.phase != .held || decide (x.doneAt < m.doneAt))
    if ok && !ahead then
      let st := finalStatus m.res
      let e := if bit m.raw 9 && st == 0 then e
        else e.putRecord m.ch n m.opcode (m.fld 32 32) m.seq m.res.reported
      let e := (e.completionIrq m n st).dropCmd m.ch m.seq
      let e := e.countDone m st
      (e.tickStamp).updCh m.ch fun c => { c with used := e.chan.stamp + 1 }
    else
      let e := if u then e.channelError rd bad m.ch 0x05 (some n) false (e.ch m.ch).head else e
      if m.phase = .held then e
      else (e.updCmd m.ch m.seq fun x => { x with phase := .held, res := m.res, doneAt := e.chan.stamp }).tickStamp

/-! ### Doorbells (R308, R311, R314, R316 to R319) -/

/-- A doorbell that the engine ignores is counted. -/
def Eng.ignoreBell (e : Eng) : Eng := e.bump 1 1

/-- R317, R319: an ACTIVE channel reads its tail count. -/
def Eng.serveBell (rd : Nat → Byte) (bad : List BadUnit) (ch : Nat) (n : ChanEntry) (e : Eng) : Eng :=
  let head := (e.ch ch).head
  let (ok, e) := e.readMem bad none [(n.tailLoc, 8)]
  if !ok then e.channelError rd bad ch 0x05 (some n) true head
  else
    let t := rdCount (e.rdb rd) n.tailLoc
    if 2 ^ n.rsize < (t + 2 ^ 32 - head) % 2 ^ 32 then e.channelError rd bad ch 0x04 (some n) true head
    else e.updCh ch fun c => { c with tail := t }

/-- The completion counts for the record of an error at load (R311). -/
def Eng.loadCounts (rd : Nat → Byte) (bad : List BadUnit) (ch : Nat) (n : ChanEntry) (e : Eng) : Bool × Eng :=
  if !n.cqValid then (false, e)
  else
    let (ok, e) := e.readMem bad none [(n.cqTailLoc, 8)]
    if !ok then (false, e)
    else
      let t := rdCount (e.rdb rd) n.cqTailLoc
      let (ok, e) := e.readMem bad none [(n.cqHeadLoc, 8)]
      let h := if ok then rdCount (e.rdb rd) n.cqHeadLoc else (t + 2 ^ 32 - 2 ^ n.csize) % 2 ^ 32
      (true, e.updCh ch fun c => { c with cqTail := t, cqHead := h })

/-- R311, R313, R315, R337: the entry of a channel is read and checked; the channel becomes ACTIVE and its doorbell is
served, or it goes to ERROR, or the doorbell is ignored. An entry that fails is not kept. -/
def Eng.loadEntry (rd : Nat → Byte) (bad : List BadUnit) (ch : Nat) (e : Eng) : Eng :=
  let a := e.chan.table.toNat + 128 * ch
  let (ok, e) := e.readMem bad none [(a, 128)]
  if !ok then e.channelError rd bad ch 0x05 none false 0
  else
    let e := e.bump 2 1
    let n := ChanEntry.ofNat (rdRec (e.rdb rd) a 128)
    let e := e.updCh ch fun c => { c with irqSel := BitVec.ofNat 2 n.irqSel }
    if !n.enable then e.ignoreBell
    else
      match e.entryCheck ch n with
      | some d =>
        let (known, e) := e.loadCounts rd bad ch n
        e.channelError rd bad ch d (some n) known 0
      | none =>
        let (okHead, e) := e.readMem bad none [(n.headLoc, 8)]
        if !okHead then
          let (known, e) := e.loadCounts rd bad ch n
          e.channelError rd bad ch 0x05 (some n) known 0
        else
          let (okTail, e) := e.readMem bad none [(n.cqTailLoc, 8)]
          if !okTail then e.channelError rd bad ch 0x05 (some n) false 0
          else
          let t := rdCount (e.rdb rd) n.cqTailLoc
          let h := rdCount (e.rdb rd) n.headLoc
          let e := e.updCh ch fun c => { c with
            state := .active, entry := some n, used := e.chan.stamp, head := h, tail := h, cqTail := t
            cqHead := (t + 2 ^ 32 - 2 ^ n.csize) % 2 ^ 32, cqKnown := true, chain := n.chainEn }
          e.tickStamp.serveBell rd bad ch n

/-- A doorbell acts on its channel (R308, R311, R313, R314, R339, R347). The uses that R313 goes by are a doorbell, a load, a fetch and
a completion (DESIGN CHOICE, log entry 163). -/
def Eng.bell (rd : Nat → Byte) (bad : List BadUnit) (ch : Nat) (e : Eng) : Eng :=
  if e.chan.table = 0 then e.ignoreBell
  else
    let c := e.ch ch
    let load := fun (_ : Unit) => match e.makeRoom with
      | some e => (e.updCh ch fun x => { x with held := false }).loadEntry rd bad ch
      | none => e.updCh ch fun x => { x with held := true }
    match c.state with
    | .resetting => e.updCh ch fun x => { x with held := true }
    | .error => e.ignoreBell
    | .disabled => load ()
    | .active =>
      match c.entry with
      | none => load ()
      | some n => ((e.updCh ch fun x => { x with used := e.chan.stamp }).tickStamp).serveBell rd bad ch n

/-- DOORBELL (R316). -/
def Eng.doorbell (rd : Nat → Byte) (bad : List BadUnit) (ch : Nat) (e : Eng) : Eng := if ch < 256 then e.bell rd bad ch else e

/-- HELD_DOORBELL_SERVED (R314, R347): once a slot can be had, or the reset has ended. -/
def Eng.heldBell (rd : Nat → Byte) (bad : List BadUnit) (ch : Nat) (e : Eng) : Eng :=
  if (e.ch ch).held ∧ (e.ch ch).state ≠ .resetting ∧ e.makeRoom.isSome then
    (e.updCh ch fun x => { x with held := false }).bell rd bad ch
  else e

/-- R316: what a read of a doorbell register returns. -/
def Eng.bellRead (e : Eng) (ch : Nat) : Nat :=
  let c := e.ch ch
  match c.state with
  | .disabled => 0
  | .active => c.head + 2 ^ 32
  | .error => c.head + 2 * 2 ^ 32
  | .resetting => c.head + 3 * 2 ^ 32

/-! ### Fetches (R317, R320, R334) -/

/-- Whether a fetch may start (R317), the ring's room apart. -/
def Eng.mayFetch (e : Eng) (ch : Nat) : Bool :=
  let c := e.ch ch
  c.state == .active && c.entry.isSome && c.head != c.tail && decide (e.inChannel ch < 16) && decide (e.chan.cmds.length < 128) &&
    c.entry.any c.room

/-- Whether a channel comes before another in the order of R334: a higher class, or in its class the one that fetched longer
ago. -/
def Eng.fetchesFirst (e : Eng) (a b : Nat) : Bool :=
  let p := fun c => (((e.ch c).entry.map (·.prio)).getD 0)
  decide (p b < p a) || (p a == p b && decide ((e.ch a).turn < (e.ch b).turn))

/-- Opcodes of the opcode table (R322), and those of a generation (R341). -/
def genOpcodes (gen : Nat) : List Nat :=
  if gen = 2 then [0x01, 0x05, 0x30, 0x3F]
  else if gen = 3 then [0x01, 0x05, 0x10, 0x11, 0x14, 0x30, 0x31, 0x32, 0x3F]
  else [0x01, 0x02, 0x03, 0x04, 0x05, 0x10, 0x11, 0x12, 0x13, 0x14, 0x20, 0x30, 0x31, 0x32, 0x3F]

/-- A command as it is read, with checks 0x80 and 0x81 of R338. -/
def Cmd.fetched (ch seq raw : Nat) (n : ChanEntry) : Cmd where
  ch := ch
  seq := seq
  raw := raw
  prio := n.prio
  reelSet := n.reelSet
  phase := if (genOpcodes n.gen).contains (raw % 256) then .read else .final
  kind := none
  prob := none
  anchor0 := 0
  anchors := []
  rowExp := []
  colExp := []
  res := if (genOpcodes n.gen).contains (raw % 256) then Result.ofStatus 0 0
    else Result.ofStatus 0x10 (if (genOpcodes 4).contains (raw % 256) then 0x81 else 0x80)
  ending := false
  opened := false
  chainWait := false
  panels := []
  blocks := 0
  doneAt := 0
  replays := []
  refrozen := []

/-- Whether a command has started and has not completed (R124); one that was rejected as it was read never starts, and one that is
held has completed. -/
def Cmd.underWay (m : Cmd) : Bool :=
  m.phase == .running || (m.phase == .final && !(m.res.status == 0x10 && (m.res.detail == 0x80 || m.res.detail == 0x81)))

/-- The status of a remote operation that was rejected as it was read passes to TRIG (R373). -/
def Eng.passReject (m : Cmd) (e : Eng) : Eng :=
  match m.trigOf with
  | some i => if m.phase == .final && decide (0x10 ≤ m.opcode ∧ m.opcode ≤ 0x14) then e.trigFail i 0x10 m.res.detail 0 else e
  | none => e

/-- COMMAND_FETCH (R317, R320): records are read in order up to the tail count and the limits; HEAD_LOC is written after
them. A record that cannot be read stops the channel (R339). -/
def Eng.fetch (rd : Nat → Byte) (bad : List BadUnit) (ch : Nat) (e : Eng) : Eng :=
  match (e.ch ch).entry.filter fun _ => (e.ch ch).state == .active with
  | none => e
  | some n =>
    let (room, unread, e) := if e.mayFetch ch then (true, false, e) else e.ringRoom rd bad ch n
    if unread then e.channelError rd bad ch 0x05 (some n) false (e.ch ch).head
    else
      let others := e.cached.filter fun c => c != ch && e.mayFetch c
      if !room || !e.mayFetch ch || others.any fun c => e.fetchesFirst c ch then e
      else
        let c := e.ch ch
        let k := min (min 16 ((c.tail + 2 ^ 32 - c.head) % 2 ^ 32)) (min (16 - e.inChannel ch) (128 - e.chan.cmds.length))
        let slots := (List.range k).map fun i => ((c.head + i) % 2 ^ 32, n.ringBase + 64 * ((c.head + i) % 2 ^ 32 % 2 ^ n.rsize))
        let good := slots.takeWhile fun s => (hits bad s.2 64).isNone
        let e := (slots.take (good.length + 1)).foldl (fun e s => e.noteRead bad (some ch) s.2 64) e
        let new := good.map fun s => Cmd.fetched ch s.1 (rdRec (e.rdb rd) s.2 64) n
        let head := (c.head + good.length) % 2 ^ 32
        let e := { e with chan := { e.chan with cmds := e.chan.cmds ++ new } }
        let e := new.foldl (fun e m => e.passReject m) e
        let e := (e.updCh ch fun x => { x with head := head, turn := e.chan.stamp, used := e.chan.stamp }).tickStamp
        let e := e.putCount ch n.headLoc head
        match (slots.drop good.length).head? with
        | some s => e.channelError rd bad ch 0x05 (some n) true s.1
        | none => e

/-! ### Channel reset (R345, R346) -/

/-- Whether a command had completed before its channel's reset: it only waits for ring space. -/
def Cmd.waits (m : Cmd) : Bool := m.phase == .held

/-- A drain that works on a command stops after its current row, whose lines are still written, and a hand-off whose header was
sent ends under R503; a remote operation that has sent its first flit runs to its end, another is withdrawn. The command itself opens
and loads nothing more. -/
def Eng.stopCmd (ch seq : Nat) (e : Eng) : Eng :=
  let cs := e.place.ctxs.filter fun c => c.ch == ch && c.seq == seq
  let e := cs.foldl (fun e c => (e.stopDrain c.id).sweep c.id) e
  let e := e.dropRuns fun r => r.ch == ch && r.seq == seq
  let e := { e with place := { e.place with slates := e.place.slates.filter fun s => !(s.ch == ch && s.seq == seq) } }
  (e.killOps fun o => o.by_ == .cmd ch seq).updCmd ch seq fun m => { m with ending := true, opened := true, chainWait := false }

/-- Records of a reset, each written when the ring is usable and has room (R345 step 3); a command with SILENT and OK has none
(R335). A record sets the channel's bit in IRQ_PENDING as any completion does (DESIGN CHOICE, log entry 164), and every command counts
as completed (DEDUCED, log entry 46). -/
def Eng.resetRecords (rd : Nat → Byte) (ch : Nat) (n : ChanEntry) (ms : List Cmd) (e : Eng) : Eng :=
  ms.foldl (fun e m =>
    let (ok, _, e) := e.ringRoom rd [] ch n
    let st := if m.waits then finalStatus m.res else 0x40
    let r := if m.waits then m.res.reported else { m.res with status := 0x40, detail := 0x01, member := 0 }
    let e :=
      if ok && n.cqValid && (e.ch ch).cqKnown then
        (if bit m.raw 9 && st == 0 then e else e.putRecord ch n m.opcode (m.fld 32 32) m.seq r).completionIrq m n st
      else e
    e.countDone m st) e

/-- The commands of a channel in the order of R345: those held, as they completed, then those ended, in ring order. -/
def Eng.resetOrder (e : Eng) (ch : Nat) : List Cmd :=
  let ms := e.chan.cmds.filter fun m => m.ch == ch
  (ms.filter Cmd.waits).mergeSort (fun a b => decide (a.doneAt ≤ b.doneAt)) ++ ms.filter fun m => !m.waits

/-- Whether a command of the channel still has a line of a drained row to write or a write to be accepted. The sweeps go on beside
the reset (R150). -/
def Eng.channelBusy (e : Eng) (ch : Nat) : Bool :=
  (e.drain.units.any fun u => u.out.any fun l => l.ch == ch) || (e.chan.cmds.any fun m => m.ch == ch && e.owes (.cmd ch m.seq))

/-- R345 steps 3 to 5, as far as they can go: records and counts once the channel's commands have ended, then DISABLED once the
channel's own writes are accepted (R346). -/
def Eng.settleReset (rd : Nat → Byte) (ch : Nat) (e : Eng) : Eng :=
  let c := e.ch ch
  let e :=
    if c.rst = 1 ∧ !e.channelBusy ch then
      let e := match c.entry with
        | some n =>
          let e := e.resetRecords rd ch n (e.resetOrder ch)
          let e := e.putCount ch n.headLoc c.head
          if c.cqKnown then e.putCount ch n.cqTailLoc (e.ch ch).cqTail else e
        | none => e
      let e := (e.chan.cmds.filter fun m => m.ch == ch).foldl (fun e m => e.dropCmd ch m.seq) e
      e.updCh ch fun c => { c with rst := 2 }
    else e
  if (e.ch ch).rst = 2 ∧ !e.owes (.channel ch) then
    let e := { e with drain := { e.drain with chains := ndel e.drain.chains ch } }
    e.updCh ch fun c => { Chan.reset with irqSel := c.irqSel, held := c.held }
  else e

/-- The resets in progress, advanced. -/
def Eng.settleResets (rd : Nat → Byte) (e : Eng) : Eng :=
  ((e.chan.chans.filter fun c => c.2.rst != 0).map (·.1)).foldl (fun e c => e.settleReset rd c) e

/-- CHANNEL_RESET (R345): every command of the channel that has been read and not completed ends. -/
def Eng.channelReset (rd : Nat → Byte) (ch : Nat) (e : Eng) : Eng :=
  if (e.ch ch).rst ≠ 0 then e
  else
    let ms := e.chan.cmds.filter fun m => m.ch == ch && !m.waits
    let e := e.updCh ch fun c => { c with state := .resetting, rst := 1 }
    let e := ms.foldl (fun e m => e.stopCmd ch m.seq) e
    (e.endRuns.armLeaving).settleReset rd ch

/-- ZERO_SWEEP (R150) of a context; a draining pod whose last started item it ends may leave (R224). -/
def Eng.sweepStep (ctx : Nat) (e : Eng) : Eng := (e.zeroSweep ctx).endRuns.armLeaving

/-- MEMORY_WRITE_ACK (R480, R483, R546); a reset that waited for it goes on. -/
def Eng.ackStep (rd : Nat → Byte) (port tag : Nat) (err : Bool) (e : Eng) : Option Eng := (e.writeAck rd port tag err).map (·.settleResets rd)

end Sys2Proof.Machine
end

