-- ==== Sys2Proof/Machine/Health.lean ====
section
/-!
DEFINITION. The health and repair unit (12): reels and dailies (R447 to R449), screen tests (R438 to R441), spare columns
(R69, R441), pod resets (R529), fuses (R443, R444), the built-in programs (R445, R446, R544), and the power port of a pod
(R506, R507).
-/

namespace Sys2Proof.Machine

/-! ### Reels -/

/-- DAILY_HEADER as 32 bytes. -/
def dailyHeader (reel start fin mark cause : Nat) : List Byte :=
  leBytes 32 (reel % 2 ^ 64 + start % 2 ^ 64 * 2 ^ 64 + fin % 2 ^ 64 * 2 ^ 128 + mark % 2 ^ 32 * 2 ^ 192 + cause * 2 ^ 224)

/-- R448: a reel boundary; `chan` is the channel of a REEL_MARK. A bank's corrected reads count afresh (R435), and a pod's passed
test no longer marks it (R442). -/
def Eng.newReel (mark cause : Nat) (chan : Option Nat) (e : Eng) : Eng :=
  let hdr := dailyHeader e.health.reelNumber.toNat e.health.reelStart.toNat e.cue mark cause
  let due := if e.health.reelInterval = 0 then none else some (e.cue + e.health.reelInterval.toNat)
  let stage := { e.stage with banks := e.stage.banks.map fun b => (b.1, { b.2 with corrected := 0 }) }
  { e with
    daily := e.cnt, setDaily := e.setCnt, cnt := [], setCnt := [], stage := stage
    pods := e.pods.map fun d => { d with passed := false }
    health := { e.health with
      reelNumber := e.health.reelNumber + 1, reelStart := BitVec.ofNat 64 e.cue, reelDue := due, header := hdr
      reelLast := some (e.cue, chan) } }

/-- R448: a cause that falls in the cycle of a boundary already made joins it: CAUSE and MARK become those of the causes together. -/
def Eng.joinReel (mark cause : Nat) (chan c0 : Option Nat) (e : Eng) : Eng :=
  let h := leNat e.health.header
  let first := match chan, c0 with
    | some a, some b => decide (a < b)
    | some _, none => true
    | none, _ => false
  let m := if first then mark else fld h 192 32
  let c := if fld h 224 8 = cause then cause else 3
  { e with
    health := { e.health with
      header := dailyHeader (fld h 0 64) (fld h 64 64) (fld h 128 64) m c
      reelLast := some (e.cue, if first then chan else c0) } }

/-- A cause of a reel boundary in this cycle (R447, R448). -/
def Eng.reelBoundary (mark cause : Nat) (chan : Option Nat) (e : Eng) : Eng :=
  match e.health.reelLast with
  | some (t, c0) => if t = e.cue then e.joinReel mark cause chan c0 else e.newReel mark cause chan
  | none => e.newReel mark cause chan

/-- REEL_BOUNDARY_INTERVAL (R447): at the cue value of the interval. -/
def Eng.reelInterval (e : Eng) : Eng := if e.health.reelDue = some e.cue then e.reelBoundary 0 2 none else e

/-! ### The power port of a pod (R506, R507) -/

/-- A pod asks for an offset: it changes only while VREQ equals VACK, and VREQ toggles with it (R506). -/
def Eng.offset (pod v : Nat) (e : Eng) : Eng :=
  let d := e.pod pod
  if d.vreq = d.vack ∧ d.voff ≠ v then
    (e.updPod pod fun d => { d with voff := v, vwant := v, vreq := !d.vreq }).bump 76 1
  else e.updPod pod fun d => { d with vwant := v }

/-- POD_VACK (R506): the rail has settled; an offset that waited is asked for. -/
def Eng.podVack (pod : Nat) (e : Eng) : Eng :=
  let d := e.pod pod
  if pod < 34 ∧ d.vreq ≠ d.vack then (e.updPod pod fun d => { d with vack := d.vreq }).offset pod d.vwant else e

/-- POD_VACK_TIMEOUT (R507). -/
def Eng.podVackTimeout (pod : Nat) (e : Eng) : Eng :=
  if (e.pod pod).vreq ≠ (e.pod pod).vack then e.podFail pod .powerGood 0 else e

/-- POD_PGOOD_FALL (R507). -/
def Eng.pgoodFall (pod : Nat) (e : Eng) : Eng := e.podFault pod .powerGood 0

/-! ### Spare columns (R69, R441) -/

/-- Spare columns of a pod that are neither in service nor bad. -/
def Pod.freeSpares (d : Pod) : List Nat := (List.range 4).filter fun i => !(d.spares.any fun s => s.1 == i) && !d.badSpares.contains i

/-- Logical columns that failing physical columns carry. -/
def Pod.carried (d : Pod) (failing : List Nat) : List Nat :=
  (List.range 128).filter fun c =>
    match d.spares.find? fun s => s.2 == c with
    | some s => failing.contains (128 + s.1)
    | none => failing.contains c

/-- Spare columns that are left once the failing ones are set aside. -/
def Pod.sparesAfter (d : Pod) (failing : List Nat) : List Nat := d.freeSpares.filter fun i => !failing.contains (128 + i)

/-- R441: whether the failures lie in no more physical columns than free spares, and each carried column finds one. -/
def Pod.repairable (d : Pod) (failing : List Nat) : Bool :=
  decide (failing.length ≤ d.freeSpares.length) && decide ((d.carried failing).length ≤ (d.sparesAfter failing).length)

/-- The column map after a repair: the lowest spare left takes the lowest of the columns that failing ones carry, and so on (DESIGN
CHOICE, log entry 156). -/
def Pod.repair (d : Pod) (failing : List Nat) : Pod :=
  let moved := d.carried failing
  { d with
    spares := (d.spares.filter fun s => !moved.contains s.2) ++ (d.sparesAfter failing).zip moved
    badSpares := (d.badSpares ++ (failing.filter fun p => decide (128 ≤ p)).map (· - 128)).eraseDups }

/-- A pod repaired with spare columns; fault code 0x38 for each spare brought into service. -/
def Eng.repairPod (pod : Nat) (failing : List Nat) (e : Eng) : Eng :=
  let used := ((e.pod pod).sparesAfter failing).zip ((e.pod pod).carried failing)
  used.foldl (fun e c => e.logFault 0x38 0 pod (128 + c.1) none false) (e.updPod pod fun d => d.repair failing)

/-! ### Screen tests (R438 to R441) -/

/-- A field of SCREEN_SETTINGS, limited to the same field of SCREEN_LIMITS. -/
def Eng.screenField (e : Eng) (lo : Nat) : Nat := min (fld e.health.screenSettings.toNat lo 8) (fld e.health.screenLimits.toNat lo 8)

/-- The stress of the next test of a pod (R438). -/
def Eng.nextStress (e : Eng) (pod : Nat) : Nat :=
  let s := fld e.health.screenSettings.toNat 24 2
  if s = 0 then (e.pod pod).lastStress % 3 + 1 else s

/-- Whether the pod of a periodic test is on its way to the test. -/
def Eng.turnPending (e : Eng) : Bool := e.health.screenTurn.any fun n => (e.pod n).why == some .screen

/-- SCREEN_SPACING_EXPIRY (R439): the spacing counts from the start of the previous periodic test. -/
def Eng.screenSpacing (e : Eng) : Eng :=
  let n := e.health.screenSpacing.toNat
  if n ≠ 0 ∧ e.health.screenSince + n * 2 ^ 20 ≤ e.cue ∧ !e.turnPending then
    { e with health := { e.health with screenDue := true } }
  else e

/-- SCREEN_TEST_START (R438, R439): at its cue value a pod in OUT begins a test, under the limited value of the field of its stress:
the offset in mV, TCLK in units of 10 MHz, or the rise in °C. A pod rotated out stays so until it is free again (R227). Where no test may
start on it, another is chosen. -/
def Eng.screenStart (pod : Nat) (e : Eng) : Eng :=
  if e.health.screenArmed = some (pod, e.cue) then
    let e := { e with health := { e.health with screenArmed := none } }
    if (e.pod pod).svc = .out ∧ (e.pod pod).task = .idle ∧ !e.droop ∧ ¬ e.place.trans.any (fun t => t.pod == pod) then
      let st := e.nextStress pod
      let v := e.screenField (8 * (st - 1))
      let e := if e.health.screenTurn = some pod ∧ (e.pod pod).why = some .screen then
        { e with health := { e.health with screenTurn := none, screenSince := e.cue } } else e
      let e := { e with health := { e.health with screenNow := e.health.screenNow.filter (· != pod) } }
      let e := e.updPod pod fun d => { d with svc := .screenTest, task := .testing, stress := st, lastStress := st, applied := v }
      e.offset pod (if st = 1 then v / 5 else 0)
    else e.armScreen
  else e

/-- SCREEN_RESULT after a test. -/
def screenResult (old : BitVec 32) (stress : Nat) (pass retired : Bool) (cols : Nat) : BitVec 32 :=
  BitVec.ofNat 32 (min cols 15 + b2n pass * 2 ^ 6 + 2 ^ 7 + stress % 4 * 2 ^ 8 + b2n retired * 2 ^ 10
    + (old.toNat / 2 ^ 16 + 1) % 2 ^ 16 * 2 ^ 16)

/-- A pod is free again: back to nominal voltage, and to a position that waits (R226). -/
def Eng.freeAgain (pod : Nat) (e : Eng) : Eng := ((e.offset pod 0).fillPositions).armScreen

/-- SCREEN_TEST_END (R441, R442): `failing` are the failing physical columns. A pod repaired with spares stays in the test, under
the same stress. -/
def Eng.screenEnd (pod : Nat) (failing : List Nat) (e : Eng) : Eng :=
  let d := e.pod pod
  let bad := failing.eraseDups.filter fun p => decide (p < 132)
  if d.svc = .screenTest ∧ d.task = .testing ∧ d.vreq = d.vack then
    let e := e.bump 48 1
    if bad = [] then
      let e := e.updPod pod fun d => { d with
        svc := .out, task := .idle, tested := true, faulted := false, passed := d.passed || d.faulted, pgood := true, why := none
        applied := 0, screen := screenResult d.screen d.stress true false 0 }
      e.freeAgain pod
    else
      let keep := d.repairable bad
      let e := (e.bump 49 1).logFault 0x40 0 pod 0 none false
      let e := e.updPod pod fun d => { d with screen := screenResult d.screen d.stress false (!keep) bad.length }
      if keep then e.repairPod pod bad else ((e.retirePod pod).offset pod 0).armScreen
  else e

/-- A test in progress is abandoned and counts neither way (R530); the pod is back at nominal voltage. -/
def Eng.abandonTest (pod : Nat) (e : Eng) : Eng :=
  if (e.pod pod).svc = .screenTest then
    (e.updPod pod fun d => { d with
      svc := .out, task := .idle, lastStress := (d.stress + 1) % 3 + 1, tested := false, applied := 0 }).offset pod 0
  else e

/-- A write to SCREEN_NOW; none where it is refused. -/
def Eng.screenNow (v : Nat) (e : Eng) : Option Eng :=
  if v > 33 ∨ (e.pod v).svc = .retired then none
  else some ({ e with health := { e.health with screenNow := some v } }.armScreen)

/-! ### Pod reset (R473, R529) -/

/-- A write to POD_RESET; none where it is refused. -/
def Eng.podReset (v : Nat) (e : Eng) : Option Eng :=
  if v > 33 ∨ (e.pod v).svc = .retired then none
  else
    let e := e.abandonTest v
    let e := { e with health := { e.health with screenArmed := e.health.screenArmed.filter fun a => a.1 != v } }
    let e := e.updPod v fun d => { d with task := .bist }
    let e := if (e.pod v).lpos.isSome then e.pull v else e
    let e := e.updPod v fun d => { d.clear with svc := .out, lpos := none, task := .bist, store := [], fetches := 0, version := 0, why := none }
    some (e.offset v 0)

/-- POD_BIST_DONE (R529): the pod has the current built-in set, and enters OUT or has a pod fault. A pod that was pulled for a pod fault
still waits for a screen test (R428). No pattern runs before the pod's voltage has settled (R506). -/
def Eng.podBistDone (pod : Nat) (failing : List Nat) (e : Eng) : Eng :=
  let d := e.pod pod
  let bad := failing.eraseDups.filter fun p => decide (p < 132)
  if d.svc = .out ∧ d.task = .bist ∧ d.vreq = d.vack then
    if bad = [] ∨ d.repairable bad then
      let e := if bad = [] then e else e.repairPod pod bad
      let e := e.updPod pod fun d => { d with task := .idle, version := e.health.setVersion, pgood := true }
      (e.fillPositions).armScreen
    else (e.updPod pod fun d => { d with version := e.health.setVersion }).podFail pod .clock 0
  else e

/-! ### Spares and fuses (R443, R444) -/

/-- A fuse record as a number: kind 0 spare column, 1 spare bank, 2 fold, 3 retired pod, with its fields. -/
def repairCode (kind a b c : Nat) : Nat := ((kind * 256 + a) * 256 + b) * 256 + c

/-- Every soft repair in effect. -/
def Eng.repairs (e : Eng) : List Nat :=
  (e.pods.zipIdx.flatMap fun d => d.1.spares.map fun s => repairCode 0 d.2 s.1 s.2) ++
    (e.stage.spareMap.map fun b => repairCode 1 (b.1 / 8) (b.1 % 8) b.2) ++
    (e.stage.folds.map fun f => repairCode 2 f.1 f.2 0) ++
    (e.pods.zipIdx.filterMap fun d => if d.1.svc = .retired then some (repairCode 3 d.2 0 0) else none)

/-- Soft repairs that no fuse record holds. -/
def Eng.unburnt (e : Eng) : List Nat := e.repairs.filter fun r => !e.health.fuses.contains r

/-- A write of 1 to REPAIR_COMMIT; none where R444 refuses it. -/
def Eng.repairCommit (e : Eng) : Option Eng :=
  let l := e.unburnt
  if e.health.burning ≠ [] ∨ 96 < e.health.fusesUsed + l.length then none
  else if !e.health.vfuse then some { e with health := { e.health with burnFailed := true } }
  else some { e with health := { e.health with burning := l } }

/-- FUSE_BURN_COMPLETE (R444): the records burnt hold, or the burn failed; either way they are used. -/
def Eng.burnComplete (ok : Bool) (e : Eng) : Eng :=
  let h := e.health
  if h.burning = [] then e
  else { e with health := { h with
    fuses := if ok then h.fuses ++ h.burning else h.fuses
    fusesUsed := h.fusesUsed + h.burning.length, burning := [], burnFailed := !ok } }

/-- A write of 1 to SPARES_EXHAUSTED_ACK; none where R443 refuses it. -/
def Eng.sparesAck (e : Eng) : Option Eng :=
  if !e.health.exPods && !e.health.exBanks then none else some { e with health := { e.health with acked := true } }

/-! ### The built-in programs (R445, R446) -/

/-- A write of 1 to BUILTIN_UPDATE, with whether R445 takes it; a refusal sets CRC_FAIL. -/
def Eng.builtinUpdate (rd : Nat → Byte) (e : Eng) : Bool × Eng :=
  let h := e.health
  let n := h.imgLen.toNat
  let refuse := fun (e : Eng) => (false, { e with health := { h with crcFail := true } })
  if h.updBusy ∨ n = 0 ∨ n > 2 ^ 20 ∨ n % 256 ≠ 0 then refuse e
  else
    let e := e.noteTook [(h.imgBase.toNat, n)]
    if crc32c (rdBytes rd h.imgBase.toNat n) ≠ h.imgCrc.toNat then refuse e else
    let v := BitVec.ofNat 32 (rdNat rd h.imgBase.toNat 4)
    let q := (List.range 34).filter fun n => (e.pod n).svc != .retired
    (true, { e with health := { h with crcFail := false, setVersion := v, updQueue := q, updDone := 0, updBusy := !q.isEmpty } })

/-- BUILTIN_UPDATE_POD_DONE (R445, R446): the pod has loaded the image and run its patterns, at nominal voltage (R506). -/
def Eng.updatePodDone (pod : Nat) (failing : List Nat) (e : Eng) : Eng :=
  let d := e.pod pod
  if d.svc = .out ∧ d.task = .loading ∧ d.vreq = d.vack then
    let e := e.updPod pod fun d => { d with task := .idle, why := none, version := e.health.setVersion }
    let e := if failing = [] then e else e.retirePod pod
    let q := e.health.updQueue.filter fun n => n != pod && (e.pod n).svc != .retired
    let e := { e with health := { e.health with updQueue := q, updDone := e.health.updDone + 1, updBusy := !q.isEmpty } }
    (e.fillPositions).armScreen
  else e

/-! ### Droop and throttle (R539 to R543) -/

/-- DROOP_APPLY (R541, R530): the mask applies, and a test in progress is abandoned; its pod may be free for a position (R226). -/
def Eng.droopApply (e : Eng) : Eng :=
  let e := (List.range 34).foldl (fun e n => e.abandonTest n) e
  let e := { e with health := { e.health with screenArmed := none } }
  ({ e with droop := true }.bump 73 (if e.droop then 0 else 1)).fillPositions

/-- DROOP_LIFT (R542, R530): at a cue that is a multiple of 8. -/
def Eng.droopLift (e : Eng) : Eng := if e.droop ∧ e.cue % 8 = 0 then { e with droop := false }.armScreen else e

/-- THROTTLE_CHANGE (R505, R540): a sample of THROTTLE that agrees with the one before it is taken, and waits for the next multiple of
8 (one command is one sample: DEDUCED, log entry 121). -/
def Eng.throttleChange (level : Nat) (e : Eng) : Eng :=
  if level = e.throttleSeen then { e with throttleNext := some level } else { e with throttleSeen := level }

end Sys2Proof.Machine
end

