-- ==== Sys2Proof/Machine/Commands.lean ====
section
/-!
DEFINITION. The commands of a channel as they start and complete (05, 07, 09, 10): their order (R196, R326), their checks (R338),
GEMM, GEMM_SPARSE, TAKE_GEMM, COMPRESS, COPY, the remote operations, TRIGGER_LOAD, FENCE, WAIT, REEL_MARK, NOP, the opening of
a slate (R208) and completion (R220).
-/

namespace Sys2Proof.Machine

/-! ### Starting -/

/-- Opcodes that hold later commands of their channel back (R326). -/
def isBarrier (op : Nat) : Bool := op == 0x30 || op == 0x31 || op == 0x32

/-- The commands read before a command, on its channel. -/
def Eng.earlier (e : Eng) (m : Cmd) : List Cmd :=
  (e.chan.cmds.takeWhile fun x => !(x.ch == m.ch && x.seq == m.seq)).filter fun x => x.ch == m.ch

/-- R196, R326: commands of one channel start in ring order, and none after a barrier that has not completed. -/
def Eng.mayStart (e : Eng) (m : Cmd) : Bool :=
  m.phase == .read && (e.earlier m).all fun x => x.phase != .read && !isBarrier x.opcode

/-- A command of opcode `op` that may start, with its priority class and counter set (R334, R449) and its channel's entry. -/
def Eng.start (op ch seq : Nat) (e : Eng) : Option (Cmd × ChanEntry) :=
  match e.cmd? ch seq, (e.ch ch).entry with
  | some m, some n =>
    if m.opcode = op ∧ e.mayStart m ∧ (e.ch ch).rst = 0 then some ({ m with prio := n.prio, reelSet := n.reelSet }, n) else none
  | _, _ => none

/-- A command's result is final; its record follows at COMMAND_COMPLETE. -/
def Eng.settle (m : Cmd) (r : Result) (e : Eng) : Eng :=
  e.updCmd m.ch m.seq fun _ => { m with phase := .final, res := r }

/-- R199, R338: a command rejected with LOADER_REJECT and a detail code. -/
def Eng.reject (m : Cmd) (d : Nat) (e : Eng) : Eng := e.settle m (Result.ofStatus 0x10 d)

/-- A command ended at its start by a unit that cannot be read (R427). -/
def Eng.endUnread (m : Cmd) (e : Eng) : Eng := e.settle m (Result.ofStatus 0x21 0)

/-! ### GEMM, GEMM_SPARSE, TAKE_GEMM (R158, R159, R230, R111) -/

/-- The anchor that the translator supplies (R39, R36). -/
def Eng.legacyAnchor (e : Eng) (l : Legacy) : Int :=
  match fmtH l.fmtA, fmtH l.fmtB with
  | some x, some y => if l.mx then sext 32 e.anchorDefault.toNat else x + y
  | _, _ => sext 32 e.anchorDefault.toNat

/-- Address and length of every record that a call sheet at `a` names (R159, R243, R303). -/
def Problem.records (p : Problem) (a : Nat) : List (Nat × Nat) :=
  let s := p.sheet
  let opt := fun (x n : Nat) => if x = 0 then [] else [(x, n)]
  [(a, 128), (s.opdA, 64), (s.opdB, 64), (s.opdC, 64), (s.loop, 384), (s.prog, 512)] ++ opt s.opdD 64 ++ opt s.len 32 ++
    opt s.drain 128 ++ opt s.sparse 128

/-- Address and length of the tables of a sparse record that no operand buffer holds: the row groups, the block headers and
the bytes of in-range rows of the predictor bitmap (R240, R241, R244, R264). -/
def Problem.tableReads (p : Problem) : List (Nat × Nat) :=
  match p.sparse with
  | none => []
  | some s =>
    let blocks := cdiv p.lens.n 128
    (if !s.balance then [] else [(s.rgtBase, 256 * blocks)]) ++ (if s.hdrBase = 0 then [] else [(s.hdrBase, 16 * blocks)]) ++
      (if s.pbmBase = 0 then [] else p.rowsIn.map fun r => (s.pbmBase + p.lineM r.1 r.2 * s.pbmStride, cdiv p.lens.n 8))

/-- The tensors that the pre-passes of a command read (R34, R35, R109): block scales, or elements with what places and selects
them. -/
def Problem.passTensors (p : Problem) (k : GemmKind) : List Tensor :=
  if k = .take then [.a, .b]
  else if p.fast then []
  else if p.sheet.asrc = 2 then [.scaleA, .scaleB]
  else if p.sheet.asrc = 3 then [.a, .b, .metadata, .bitmap]
  else []

/-- The bytes from which a tensor's lines are taken, as address and length. -/
def Problem.tensorRange (p : Problem) (t : Tensor) : Nat × Nat :=
  match t, p.sparse with
  | .a, _ => (p.a.base, p.a.size)
  | .b, _ => (p.b.base, p.b.size)
  | .scaleA, _ => (p.a.scaleBase, p.lens.b * p.extent 0 * p.a.scaleOstride)
  | .scaleB, _ => (p.b.scaleBase, p.lens.n * p.b.scaleOstride)
  | .metadata, some r => (r.metaBase, r.metaSize)
  | .bitmap, some r => (r.abmBase, p.lens.b * p.extent 0 * r.abmStride)
  | _, none => (0, 0)

/-- The lines that the pre-passes read, each with its tensor and the units of it that hold something in range (R34, R168, R191). -/
def Problem.passLines (p : Problem) (rd : Nat → Byte) (k : GemmKind) : List (Tensor × Nat × Nat) :=
  (p.passTensors k).flatMap fun t =>
    let r := p.tensorRange t
    ((List.range (if r.2 = 0 then 0 else (r.1 + r.2 - 1) / 256 + 1 - r.1 / 256)).map fun i =>
      (t, r.1 / 256 + i, p.unitMask rd t p.wholeSpan (r.1 / 256 + i))).filter fun x => x.2.2 != 0

/-- Address and length of the units of a line. -/
def maskReads (line mask : Nat) : List (Nat × Nat) :=
  ((List.range 8).filter mask.testBit).map fun u => (256 * line + 32 * u, 32)

/-- Address and length of the vectors of a command (R303). -/
def Problem.vectorReads (p : Problem) : List (Nat × Nat) :=
  (if p.drain.scaleMode = 3 then [(p.drain.scaleVec, 4 * p.lens.n)] else []) ++
    (if p.drain.biasMode = 2 then [(p.drain.biasVec, biasBytes p.drain.biasFmt * p.lens.n)] else [])

/-- The panels that the lines of a pre-pass lie in, by descriptor (R167). -/
def Problem.passPanels (p : Problem) (ls : List (Tensor × Nat × Nat)) : List (Opd × List Nat) :=
  [Tensor.a, Tensor.b].filterMap fun t => (p.checked t).map fun o =>
    (o, ((ls.filter fun l => l.1 == t).map fun l => (256 * l.2.1 - o.base) / 4096).eraseDups)

/-- Panels verified in order, those that pass counted; the address of the first that fails (R425). -/
def Eng.verifyPass (rd : Nat → Byte) : List (Opd × List Nat) → Eng → Option Nat × Eng
  | [], e => (none, e)
  | (o, qs) :: r, e =>
    let (n, fail) := checkPanels rd (fun _ => false) o.base o.checkBase qs
    let e := e.bump 42 n
    match fail with
    | some q => (some (o.base + 4096 * q), e)
    | none => Eng.verifyPass rd r e

/-- The start of a command with a call sheet: records, translation, checks, pre-passes. -/
def Eng.startGemm (rd : Nat → Byte) (k : GemmKind) (op ch seq : Nat) (bad : List BadUnit) (e : Eng) : Eng :=
  match e.start op ch seq with
  | none => e
  | some (m, n) =>
    let a := m.fld 128 64
    let legacy := decide (n.gen ≠ 4)
    let l := Legacy.ofNat (rdRec rd a 128)
    let p := if legacy then l.translate (e.legacyAnchor l) (m.fld 32 32) else readProblem rd a
    if a = 0 then e.reject m 0x82
    else
      let (ok, e) := e.readMem bad (some ch) (if legacy then [(a, 128)] else p.records a)
      if !ok then e.endUnread m
      else
        match if legacy then l.check n.gen else none with
        | some d => e.reject m d
        | none =>
          match e.loaderCheck rd k p a n.chainEn with
          | some d => e.reject m d
          | none =>
            let ls := p.passLines rd k
            let (ok, e) := e.readAll bad (some ch) ((ls.flatMap fun l => maskReads l.2.1 l.2.2) ++ p.vectorReads ++ p.tableReads)
            if !ok then e.endUnread m
            else
              match e.verifyPass rd (p.passPanels ls) with
              | (some a, e) => (e.settle m (Result.ofStatus 0x20 0)).panelFault a ch
              | (none, e) =>
                let p := p.withVectors rd
                let take := decide (k = .take)
                let count := if take then p.takeBelow rd else 0
                e.updCmd ch seq fun _ => { m with
                  phase := .running, kind := some k, prob := some p, anchor0 := p.uniformAnchor k, anchors := p.blockAnchors rd k
                  rowExp := if take then p.takeRows rd else [], colExp := if take then p.takeCols rd else []
                  res := { m.res with count := count, fast := p.fast }, chainWait := p.drain.chainEn, blocks := p.blocksOf }

/-- SLATE_OPEN (R205, R208): after the checks, the anchors and, for a chain command, the load of its context. -/
def Eng.slateOpen (ch seq : Nat) (e : Eng) : Eng :=
  match e.cmd? ch seq with
  | none => e
  | some m =>
    match m.prob, m.kind with
    | some p, some k =>
      if m.phase = .running ∧ ¬ m.opened ∧ ¬ m.chainWait ∧ ¬ m.ending ∧ (e.ch ch).rst = 0 then
        let s : Slate := ⟨ch, seq, 0, p.items.length, e.chooseShape p k p.sheet.shape, [], [], false⟩
        let e := e.updCmd ch seq fun m => { m with opened := true }
        { e with place := { e.place with slates := e.place.slates ++ [s] } }
      else e
    | _, _ => e

/-! ### COPY and COMPRESS (R323, R271, R272, R367) -/

/-- Window, word number and byte of the word plane or side plane of an open accumulate window's home at an address. -/
def Eng.homePlace (e : Eng) (a : Nat) : Option (AccWin × Nat × Byte) :=
  e.remote.wins.findSome? fun w =>
    let wb := winWord w.entry.type
    let n := w.words.length
    if !w.opened then none
    else if w.entry.base ≤ a ∧ a < w.entry.base + wb * n then
      let i := (a - w.entry.base) / wb
      some (w, i, (((w.words.getD i ZWord.zero).plane (8 * wb)).getD ((a - w.entry.base) % wb) 0))
    else if w.entry.sideBase ≤ a ∧ a < w.entry.sideBase + 2 * n then
      let i := (a - w.entry.sideBase) / 2
      some (w, i, (((w.words.getD i ZWord.zero).sides).getD ((a - w.entry.sideBase) % 2) 0))
    else none

/-- The byte that an open accumulate window holds for a byte of its home, and the status with which its word cannot be had: it is
lost, or it fails its check (R23, R367, R436). -/
def Eng.homeByte (e : Eng) (a : Nat) : Option (Byte × Option Nat) :=
  (e.homePlace a).map fun x => (x.2.2,
    if x.1.lost.contains x.2.1 then some (x.1.faulted.getD 0x21)
    else if (x.1.words.getD x.2.1 ZWord.zero).residueFault then some 0x22 else none)

/-- Check 0x83 of R338. -/
def copyBad (src dst sc dc len : Nat) : Bool :=
  len == 0 || src % 32 != 0 || dst % 32 != 0 || len % 32 != 0 || (sc != 0 && (sc % 4 != 0 || src % 4096 != 0 || len % 4096 != 0)) ||
    (dc != 0 && (dc % 4 != 0 || dst % 4096 != 0 || len % 4096 != 0))

/-- The staging slots that a COPY reads (R367). -/
def Eng.copySlots (e : Eng) (ch seq : Nat) : List StageSlot :=
  match e.start 0x05 ch seq with
  | none => []
  | some (m, n) =>
    if copyBad (m.fld 128 64) (m.fld 192 64) (if n.gen = 4 then m.fld 256 64 else 0) (if n.gen = 4 then m.fld 320 64 else 0)
        (m.fld 384 48) then []
    else (((List.range (m.fld 384 48)).filterMap fun i => e.homePlace (m.fld 128 64 + i)).flatMap fun x =>
      e.stageSlots (.window x.1.num) [x.2.1 * winWord x.1.entry.type / 32]).eraseDups

/-- Whether a panel of 4,096 bytes at `a` may be verified: no byte of it is read from the Stage (R367). -/
def Eng.panelInMemory (e : Eng) (a : Nat) : Bool := (List.range 4096).all fun i => (e.homeByte (a + i)).isNone

/-- The status with which unit `i` of a copy's source cannot be had: a byte of it that the Stage holds, the unit in memory, or the check
of its panel in the table at `sc`. -/
def Eng.copyStop (e : Eng) (bad : List BadUnit) (src sc i : Nat) : Option Nat :=
  let hs := (List.range 32).map fun b => e.homeByte (src + 32 * i + b)
  match hs.findSome? fun h => h.bind (·.2) with
  | some st => some st
  | none =>
    let check := sc != 0 && e.panelInMemory (src + 4096 * (i / 128)) && (hits bad (sc + 4 * (i / 128)) 4).isSome
    if ((hits bad (src + 32 * i) 32).isSome && hs.any (·.isNone)) || check then some 0x21 else none

/-- The panels that bytes written from `a` on, `n` in number, fill, with their checks from `table` on (R294, R323). -/
def filledPanels (a table n : Nat) : List PanelDue :=
  (List.range (cdiv n 4096)).map fun q => ⟨a + 4096 * q, table + 4 * q, 4 ^ min 4096 (n - 4096 * q) - 1⟩

/-- COPY (R323, R367): the units before the first that cannot be had are copied, by whole panels where they are verified (R425); it
ends the command. Below generation 4 there are no panel checks (R341; DEDUCED, log entry 135). -/
def Eng.copy (rd : Nat → Byte) (ch seq : Nat) (bad : List BadUnit) (e : Eng) : Eng :=
  match e.start 0x05 ch seq with
  | none => e
  | some (m, n) =>
    let src := m.fld 128 64
    let dst := m.fld 192 64
    let sc := if n.gen = 4 then m.fld 256 64 else 0
    let dc := if n.gen = 4 then m.fld 320 64 else 0
    let len := m.fld 384 48
    if copyBad src dst sc dc len then e.reject m 0x83
    else
      let inStage := fun (a : Nat) => !e.panelInMemory a
      let fail := if sc = 0 then none else (checkPanels rd inStage src sc (List.range (len / 4096))).2
      let stop := (List.range (len / 32)).findSome? fun i => (e.copyStop bad src sc i).map fun st =>
        (if sc = 0 ∨ inStage (src + 4096 * (i / 128)) then 32 * i else 4096 * (i / 128), i, st)
      let n := min (min len ((fail.map (4096 * ·)).getD len)) ((stop.map (·.1)).getD len)
      let bytes := (List.range n).map fun i => ((e.homeByte (src + i)).map (·.1)).getD (rd (src + i))
      let passed := if sc = 0 then 0 else (List.range (n / 4096)).countP fun q => !inStage (src + 4096 * q)
      let st := if n = len then 0 else match stop with
        | some (x, _, s) => if x = n then s else 0x20
        | none => 0x20
      let reach := if st = 0 then n else if st = 0x20 then n + 4096 else 32 * ((stop.map (·.2.1)).getD 0) + 1
      let e := (e.bump 42 passed).settle { m with panels := if dc = 0 then [] else filledPanels dst dc n } (Result.ofStatus st 0)
      let units := (goodRuns (fun i => (List.range 32).any fun b => (e.homeByte (src + 32 * i + b)).isNone) (cdiv reach 32)).map fun r =>
        (src + 32 * r.1, 32 * r.2)
      let e := (e.readAll bad (some ch) units).2.noteRead bad (some ch) sc (if sc = 0 then 0 else 4 * cdiv reach 4096)
      let e := e.write (.cmd ch seq) (placeBytes dst bytes)
      if st = 0x20 then e.panelFault (src + n) ch else e

/-- COPY, with the staging sectors that it reads with an upset (R367, R436). -/
def Eng.copyF (rd : Nat → Byte) (ch seq : Nat) (bad : List BadUnit) (reads : List StageRead) (e : Eng) : Eng :=
  (e.readSlots reads (e.copySlots ch seq)).copy rd ch seq bad

/-- COMPRESS (R269 to R274): nothing is written when a source panel or unit fails. -/
def Eng.compress (rd : Nat → Byte) (ch seq : Nat) (bad : List BadUnit) (e : Eng) : Eng :=
  match e.start 0x04 ch seq with
  | none => e
  | some (m, _) =>
    let a := m.fld 128 64
    let c := CompressSheet.ofNat (rdRec rd a 128)
    let src := rdOpd rd c.src
    let dst := rdOpd rd c.dst
    if a = 0 then e.reject m 0x82
    else
      let (ok, e) := e.readMem bad (some ch) [(a, 128), (c.src, 64), (c.dst, 64)]
      if !ok then e.endUnread m
      else
        match compressCheck c src dst a with
        | some d => e.reject m d
        | none =>
          let qs := compressPanels c src
          let (ok, fail) := checkPanels rd (fun _ => false) src.base src.checkBase qs
          let e := e.bump 42 ok
          let (readable, e) := e.readAll bad (some ch) (compressLines c src ++ src.panelReads qs)
          match readable, fail with
          | false, _ => e.endUnread m
          | true, some q => (e.settle m (Result.ofStatus 0x20 0)).panelFault (src.base + 4096 * q) ch
          | true, none =>
            let panels := if dst.checkBase = 0 then [] else filledPanels dst.base dst.checkBase (c.n * dst.ostride)
            (e.settle { m with panels := panels } (Result.ofStatus 0 0)).write (.cmd ch seq) (compressWrites rd c src dst)

/-! ### Remote operations (R350, R354, R356, R360, R375) -/

/-- A remote operation that ends at its origin with a status: its result is final, and a status passes to TRIG (R373). -/
def Eng.endRemote (m : Cmd) (st d : Nat) (e : Eng) : Eng :=
  let e := e.settle m (Result.ofStatus st d)
  match m.trigOf with
  | some i => e.trigFail i st d 0
  | none => e

/-- PUT, GET, ADDX, FADD and SIGNAL: checked at the origin and issued; they wait while 256 operations are in flight or a fired
action waits (R360). -/
def Eng.startRemote (rd : Nat → Byte) (op ch seq : Nat) (bad : List BadUnit) (e : Eng) : Eng :=
  match e.start op ch seq with
  | none => e
  | some (m, _) =>
    let a := RemoteArgs.ofCommand m.raw
    match e.originCheck a false with
    | some d => e.endRemote m 0x10 d
    | none =>
      if 256 ≤ e.inFlight + e.remote.fired.length then e
      else (e.updCmd ch seq fun _ => { m with phase := .running }).issueOp rd bad (.cmd ch seq) a

/-! ### Control commands (R324 to R329) -/

/-- TRIGGER_LOAD (R324, R369, R338). -/
def Eng.triggerLoad (rd : Nat → Byte) (ch seq : Nat) (bad : List BadUnit) (e : Eng) : Eng :=
  match e.start 0x20 ch seq with
  | none => e
  | some (m, _) =>
    let src := m.fld 128 64
    let first := m.fld 192 12
    let n := m.fld 208 13
    if src = 0 ∨ src % 32 ≠ 0 ∨ n = 0 ∨ first + n > 4096 then e.reject m 0x84
    else
      let (ok, e) := e.readMem bad (some ch) [(src, 64 * n)]
      if !ok then e.endUnread m
      else
        let e := (List.range n).foldl (fun e i => e.updTrig (first + i) fun _ => Trig.ofNat (rdRec rd (src + 64 * i) 64)) e
        e.complete rd bad { m with res := Result.ofStatus 0 0 }

/-- FENCE (R327): every earlier command of the channel, or every command read before it, has completed. -/
def Eng.fence (rd : Nat → Byte) (ch seq : Nat) (bad : List BadUnit) (e : Eng) : Eng :=
  match e.start 0x30 ch seq with
  | none => e
  | some (m, _) =>
    let clear := if bit m.raw 128 then (e.chan.cmds.head?).any fun x => x.ch == ch && x.seq == seq else (e.earlier m).isEmpty
    if clear then e.complete rd bad { m with res := Result.ofStatus 0 0 } else e

/-- WAIT (R328, R374): a status of the counter ends it, otherwise a count at or above VALUE. MEMBER is the named member of
MEMBER_LOST and COLL_SIGNATURE, and zero otherwise (R330, R411). -/
def Eng.wait (rd : Nat → Byte) (ch seq : Nat) (bad : List BadUnit) (e : Eng) : Eng :=
  match e.start 0x31 ch seq with
  | none => e
  | some (m, _) =>
    let t := e.trig (m.fld 128 12)
    if t.status ≠ 0 then
      let member := if t.status = 0x33 ∨ t.status = 0x30 then t.member else 0
      e.complete rd bad { m with res := { Result.ofStatus t.status t.detail with member := member } }
    else if m.fld 192 64 ≤ t.count.toNat then e.complete rd bad { m with res := Result.ofStatus 0 0 }
    else e

/-- REEL_MARK (R329, R447): waits as a FENCE of its channel and ends the reel. The completion counts in the reel that ends. -/
def Eng.reelMark (rd : Nat → Byte) (ch seq : Nat) (bad : List BadUnit) (e : Eng) : Eng :=
  match e.start 0x32 ch seq with
  | none => e
  | some (m, _) =>
    if (e.earlier m).isEmpty then
      let cause := if e.health.reelDue = some e.cue then 3 else 1
      (e.complete rd bad { m with res := Result.ofStatus 0 0 }).reelBoundary (m.fld 128 32) cause (some ch)
    else e

/-- NOP (R325). -/
def Eng.nop (rd : Nat → Byte) (ch seq : Nat) (bad : List BadUnit) (e : Eng) : Eng :=
  match e.start 0x3F ch seq with
  | none => e
  | some (m, _) => e.complete rd bad { m with res := Result.ofStatus 0 0 }

/-- CHAIN_CONTEXT_LOAD (R296, R295); a unit of the record or a vector that cannot be read ends the command. -/
def Eng.chainContext (rd : Nat → Byte) (ch seq : Nat) (bad : List BadUnit) (e : Eng) : Eng :=
  match (e.cmd? ch seq).bind fun m => m.prob.map fun p => (m, p) with
  | none => e
  | some (m, p) =>
    let r := rdChain rd p.drain.chain
    let vecs := (List.range 4).filterMap fun i => if r.vmask.testBit i then some (r.bases.getD i 0, 4 * p.lens.n) else none
    if m.chainWait ∧ !e.chainBusy ch seq ∧ (e.ch ch).rst = 0 then
      let (ok, e) := e.readMem bad (some ch) ((p.drain.chain, 64 + 16 * r.nstages) :: vecs)
      if ok then e.chainLoad rd ch seq else (e.updCmd ch seq fun m => { m with chainWait := false }).endCmd ch seq 0x21 0
    else e

/-! ### Completion (R220, R434) -/

/-- Whether a command may complete: a final result with its writes accepted, or a slate, runs and drains with nothing left; in
either case every check written (R220, R294, R434). -/
def Eng.mayComplete (e : Eng) (m : Cmd) : Bool :=
  m.panels.isEmpty && !e.owes (.cmd m.ch m.seq) &&
    (m.phase == .final || m.phase == .held || (m.phase == .running && m.prob.isSome && (m.opened || m.ending) && e.cmdDrained m.ch m.seq))

/-- COMMAND_COMPLETE (R220, R330 to R335). -/
def Eng.commandComplete (rd : Nat → Byte) (ch seq : Nat) (bad : List BadUnit) (e : Eng) : Eng :=
  match e.cmd? ch seq with
  | none => e
  | some m => if e.mayComplete m ∧ (e.ch ch).rst = 0 then e.complete rd bad m else e

end Sys2Proof.Machine
end

