-- ==== Sys2Proof/Machine/Links.lean ====
section
/-!
DEFINITION. Fabric ports and Splice links (14): flits received and their units (R484, R491, R498, R499), credits, the
capability exchange (R492, R493), training, retraining and the loss of a link (R495, R500, R501), and the return from E1 and E2
that a packet causes (R535).
-/

namespace Sys2Proof.Machine

/-! ### Power states as the ports see them -/

/-- Whether the core domain runs: start-up has begun and the engine is not in E3. -/
def Eng.coreOn (e : Eng) : Bool := e.power.t0 && e.power.estate != 3

/-- The output CORE_PWR_REQ (R520): 0 while POR_N is low and in E3, 1 at all other times, a reset included. -/
def Eng.corePwrReq (e : Eng) : Bool := !e.power.porLow && e.power.estate != 3

/-- Whether ACLK runs and READY is 1: the state E0 in service. -/
def Eng.runs (e : Eng) : Bool := e.ready && e.power.estate == 0

/-- Whether the engine is in service in E0, E1 or E2. -/
def Eng.inService (e : Eng) : Bool := e.ready && e.power.estate != 3

/-- Time has passed in the present power state: a free number of AOCLK periods since the last count (0x2020 STATE_TIME; the model
keeps no time: DESIGN CHOICE, log entry 111). While POR_N is low none is counted (R523). -/
def Eng.passTime (e : Eng) : Eng :=
  if e.power.porLow then e
  else
    let (k, e) := e.fresh
    { e with power := { e.power with time := lset e.power.time e.power.estate fun t => t + BitVec.ofNat 64 (Config.freeNat k) } }

/-- R535: the return from E1 or E2 with its cause; the return is whole in this step (DESIGN CHOICE, log entry 40). -/
def Eng.wake (cause : Nat) (e : Eng) : Eng :=
  if e.power.estate = 1 ∨ e.power.estate = 2 then
    let e := e.passTime
    { e with
      power := { e.power with estate := 0, wake := cause }
      pods := e.pods.map fun d => { d with pwrReq := d.svc != .retired } }
  else e

/-- A packet that returns the engine from E1 or E2: CLASS OP, or COLL other than HEARTBEAT and ECHO (R535). -/
def Packet.wakes (p : Packet) : Bool := p.hdr.cls == 0 || (p.hdr.cls == 2 && p.coll.kind != 12 && p.coll.kind != 13)

/-- The return that packets delivered beyond the first `n` of the inbox cause. -/
def Eng.wakeFor (n : Nat) (e : Eng) : Eng := if (e.link.inbox.drop n).any fun x => x.pkt.wakes then e.wake 2 else e

/-- Whether a unit is the header of a CAPS packet. -/
def capsUnit (u : List Byte) : Bool := decide (fld (leNat (u.take 32)) 36 4 = 4)

/-! ### Fabric ports -/

/-- FABRIC_FLIT_RECEIVE (R484, R485, R491): the flit is counted and its units join the packet of its VC, whose flits stand in the
receive buffer of 64; when the packet is whole it goes to its unit and its space is freed, a credit for each flit (when the shell
frees it is the engine's: DESIGN CHOICE, log entry 149). The flit of a CAPS packet took no credit and returns none (R492; DEDUCED,
log entry 41). A flit that finds the buffer full had no credit and does not occur. -/
def Eng.fabricFlit (port : Nat) (f : Flit) (e : Eng) : Eng :=
  match e.link.fports[port]? with
  | none => e
  | some p =>
    if !e.coreOn ∨ (p.st ≠ 1 ∧ p.st ≠ 2) ∨ 4 ≤ f.vc ∨ 64 ≤ p.held.getD f.vc 0 then e
    else
      let us := (if f.sop then [] else p.rx.getD f.vc []) ++ f.units.take 4
      let caps := f.sop && capsUnit (f.units.headD [])
      let old := p.held.getD f.vc 0
      let now := (if f.sop then 0 else old) + b2n (!caps)
      let done := (if f.sop then old else 0) + (if f.eop then now else 0)
      let upd := fun (q : FPort) => { q with
        rx := lset q.rx f.vc fun _ => if f.eop then [] else us
        held := lset q.held f.vc fun _ => if f.eop then 0 else now
        freed := lset q.freed f.vc (· + done) }
      let n := e.link.inbox.length
      let e := { e with link := { e.link with fports := e.link.fports.modify port upd } }.bump 57 1
      if f.eop then ((e.countUnits 3 port us).deliver (.fabric port) us).wakeFor n else e

/-- FABRIC_CREDIT (R484); what waits for a flit to leave goes on. -/
def Eng.fabricCredit (rd : Nat → Byte) (port : Nat) (vcs : BitVec 4) (e : Eng) : Eng :=
  if !e.coreOn then e
  else (e.updFPort port fun p => { p with credits := p.credits.zipIdx.map fun c => c.1 + b2n (vcs.getLsbD c.2) }).afterSend rd

/-- NI_READY_RISE (R492): the port sends its CAPS; before start-up the rise is only noted. -/
def Eng.niRise (port : Nat) (e : Eng) : Eng :=
  let e := { e with link := { e.link with fports := e.link.fports.modify port fun p => { p with niReady := true } } }
  if port < 4 ∧ e.coreOn then e.capsFabric port else e

/-! ### The partner's CAPS (R492, R493) -/

/-- Whether a port that meets this CAPS enters MISMATCH. -/
def capsMismatch (fabric : Bool) (c : Nat) : Bool := fld c 0 8 != 4 || bit c 8 != fabric

/-- The receive buffers that a CAPS states. -/
def capsCredits (c : Nat) : List Nat := [fld c 32 8, fld c 40 8, fld c 48 8, fld c 56 8]

/-- CAPS (R492, R493). A CAPS whose data unit is uncorrectable is dropped. A link that is UP only learns its partner's identity
anew: the partner's ENGINE_ID was written (DEDUCED, log entry 42). -/
def Eng.takeCaps (via : Via) (e : Eng) : Eng :=
  match e.inFirst via fun p => p.hdr.cls == 4 with
  | none => e
  | some p =>
    let e := e.inDrop via p
    let c := leNat (p.data.take 32)
    if !p.bad.isEmpty ∨ p.data.length < 32 then e
    else
      match via with
      | .loopback => e
      | .fabric j => e.updFPort j fun q =>
        if capsMismatch true c then { q with st := 3 }
        else if q.st = 1 then { q with st := 2, credits := capsCredits c }
        else q
      | .splice n => e.updSLink n fun l =>
        let l := { l with pid := fld c 16 16, idv := bit c 9 }
        if capsMismatch false c then { l with st := 5, idv := false }
        else if l.st = 2 then { l with st := 3, re := false, credits := capsCredits c }
        else l

/-- CAPS; what waits for a flit to leave goes on. -/
def Eng.caps (rd : Nat → Byte) (via : Via) (e : Eng) : Eng := (e.takeCaps via).afterSend rd

/-! ### Splice flits (R496 to R499) -/

/-- The fields of a received Splice flit: its 128 header bits, and its units. -/
def spliceParse (b : List Byte) : Nat × List (List Byte) :=
  let h := leNat (b.take 16)
  (h, (List.range (min 8 (fld h 32 4))).map fun i => (b.drop (16 + 36 * i)).take 36)

/-- R499: the buffered flits up to ACKSEQ are freed. -/
def SLink.ack (q : Nat) (l : SLink) : SLink :=
  match l.buf.findIdx? fun f => f.seq == q with
  | some i => { l with buf := l.buf.drop (i + 1) }
  | none => l

/-- The units of an accepted flit join the packet of their VC; the packets that end in it. -/
def assemble (sop eop : Nat) : Nat → List (List Byte) → List (List Byte) → List (List (List Byte)) × List (List Byte)
  | _, [], cur => ([], cur)
  | i, u :: r, cur =>
    let cur := (if sop.testBit i then [] else cur) ++ [u]
    if eop.testBit i then
      let (ps, c) := assemble sop eop (i + 1) r []
      (cur :: ps, c)
    else assemble sop eop (i + 1) r cur

/-- A flit that is not accepted: NAK in the next flit, and in no later one until a flit is accepted (R498). -/
def SLink.refuse (l : SLink) : SLink := { l with nak := !l.nakSent }

/-- A DATA flit accepted (R498); a flit that begins with a CAPS took no credit and returns none. -/
def SLink.accept (vc : Nat) (caps : Bool) (cur : List (List Byte)) (l : SLink) : SLink :=
  { l with
    exp := (l.exp + 1) % 4096, accepted := true, nak := false, nakSent := false
    rx := lset l.rx vc fun _ => cur, owed := if caps then l.owed else lset l.owed vc (· + 1) }

/-- What leaves a link that carries flits in a flit time: DATA that waits, or else an IDLE flit (R499). -/
def Eng.spliceReply (link : Nat) (e : Eng) : Eng :=
  let n := fun (e : Eng) => ((e.link.slinks[link]?).map fun l => l.sent.length).getD 0
  let before := n e
  let e := e.updSLink link fun l => l
  if n e = before then
    { e with link := { e.link with slinks := e.link.slinks.modify link fun l =>
      if l.st = 2 ∨ l.st = 3 then { l with arb := l.arb.note 4 }.emit none else l } }
  else e

/-- The flit that a Splice link receives (R498, R499). -/
def Eng.takeSplice (link : Nat) (b : List Byte) (e : Eng) : Eng :=
  match e.link.slinks[link]? with
  | none => e
  | some l0 =>
    if !e.coreOn ∨ (l0.st ≠ 2 ∧ l0.st ≠ 3) ∨ b.length ≠ 320 then e
    else
      let put := fun (f : SLink → SLink) (e : Eng) => { e with link := { e.link with slinks := e.link.slinks.modify link f } }
      let inbox := e.link.inbox.length
      if crc32c (b.take 316) ≠ leNat (b.drop 316) then ((put SLink.refuse e).bump 64 1).spliceReply link
      else
        let (h, us) := spliceParse b
        let e := if bit h 6 then put (SLink.ack (fld h 20 12)) e else e
        let e := put (fun l => { l with credits := l.credits.zipIdx.map fun c => c.1 + fld h (64 + 8 * c.2) 8 }) e
        let e := if bit h 7 then e.spliceResend link else e
        let e :=
          if fld h 0 4 ≠ 1 then e
          else if fld h 8 12 ≠ l0.exp then put SLink.refuse e
          else
            let vc := fld h 4 2
            let (ps, cur) := assemble (fld h 36 8) (fld h 44 8) 0 us (l0.rx.getD vc [])
            let caps := bit h 36 && capsUnit (us.headD [])
            let e := (put (SLink.accept vc caps cur) e).bump 63 1
            ps.foldl (fun e p => (e.countUnits 4 link p).deliver (.splice link) p) e
        (e.spliceReply link).wakeFor inbox

/-- SPLICE_FLIT_RECEIVE (R498, R499); what waits for a flit to leave goes on. -/
def Eng.spliceFlit (rd : Nat → Byte) (link : Nat) (b : List Byte) (e : Eng) : Eng := (e.takeSplice link b).afterSend rd

/-- SPLICE_REPLAY_TIMEOUT (R499): the buffered flits are sent again. -/
def Eng.spliceTimeout (link : Nat) (e : Eng) : Eng :=
  match e.link.slinks[link]? with
  | none => e
  | some l => if e.coreOn ∧ (l.st = 2 ∨ l.st = 3) ∧ l.buf ≠ [] then e.spliceResend link else e

/-! ### Training (R495, R500, R501) -/

/-- The data rates of R494 by code 1 to 6. -/
def rateOf (code : Nat) : Nat := [0, 4, 8, 12, 16, 24, 32].getD code 0

/-- A link retrain (R495): a link that has been trained retrains, any other trains; a link that is not connected does nothing. -/
def Eng.startRetrain (link : Nat) (e : Eng) : Eng :=
  match e.link.slinks[link]? with
  | none => e
  | some l =>
    if !l.enabled then e
    else
      let again := l.st = 3 ∨ l.st = 5 ∨ l.re
      { e with link := { e.link with slinks := e.link.slinks.modify link fun l =>
        if again then l.retrain else { l with st := 1 } } }.bump 66 1

/-- What a first training leaves of the sequence state. -/
def SLink.fresh (l : SLink) : SLink :=
  { l with seq := 0, exp := 0, accepted := false, nak := false, nakSent := false, buf := [], caps := none, rx := [[], [], [], []], owed := [0, 0, 0, 0] }

/-- LINK_TRAINING_DONE (R494, R495, R500): the rate within SL_RATE_MAX and the partner's UCIe; after a retrain the
unacknowledged flits go first, then the CAPS. -/
def Eng.trainingDone (link rate ucie repaired : Nat) (e : Eng) : Eng :=
  match e.link.slinks[link]? with
  | none => e
  | some l =>
    let ok := decide (1 ≤ rate ∧ rate ≤ 6 ∧ rateOf rate ≤ l.rateMax.toNat) && (ucie == 2 || (ucie == 1 && decide (rateOf rate ≤ 16)))
    if !e.coreOn ∨ (l.st ≠ 1 ∧ l.st ≠ 4) ∨ !ok then e
    else
      let first := !l.re
      let upd := fun (l : SLink) =>
        let l := if first then l.fresh else l
        { l with rate := rate, ucie := ucie, repaired := repaired % 16 }
      let e := { e with link := { e.link with slinks := e.link.slinks.modify link upd } }.bump 67 (repaired % 16)
      (if first then e else e.spliceResend link).capsSplice 2 link

/-- R501: a link goes DOWN: its replay buffer and receive state are discarded, its partner leaves the routes, operations and
collectives with it end; the engine then trains it again (R495). -/
def Eng.linkLost (link : Nat) (e : Eng) : Eng :=
  match e.link.slinks[link]? with
  | none => e
  | some l =>
    let e := { e with link := { e.link with
      slinks := e.link.slinks.modify link fun l => { l.fresh with
        st := 1, re := false, idv := false, gone := l.gone.zipIdx.map fun (g : Nat × Nat) => g.1 + (l.txq.getD g.2 []).length
        txq := [[], [], [], []], credits := [0, 0, 0, 0] }
      inbox := e.link.inbox.filter fun x => x.via != Via.splice link } }.bump 68 1
    if l.idv then e.losePeer l.pid else e

/-- LINK_DOWN (R501): a retrain has failed. -/
def Eng.linkDown (link : Nat) (e : Eng) : Eng :=
  if e.coreOn ∧ (e.link.slinks[link]?).any fun l => l.re then e.linkLost link else e

/-- LINK_TRAINING_TIMEOUT (R495): a link that is not UP enters FAILED; a retrain that fails takes the link DOWN (R501). -/
def Eng.trainingTimeout (link : Nat) (e : Eng) : Eng :=
  match e.link.slinks[link]? with
  | none => e
  | some l =>
    if !e.coreOn ∨ (l.st ≠ 1 ∧ l.st ≠ 2 ∧ l.st ≠ 4) then e
    else if l.re then e.linkLost link
    else { e with link := { e.link with slinks := e.link.slinks.modify link fun l => { l with st := 6 } } }

/-- LINK_TRAINING_RETRY (R495). -/
def Eng.trainingRetry (link : Nat) (e : Eng) : Eng :=
  if e.coreOn ∧ (e.link.slinks[link]?).any (fun l => l.st == 6 && l.enabled) then
    { e with link := { e.link with slinks := e.link.slinks.modify link fun l => { l with st := 1 } } }
  else e

/-- R492: CAPS on every Splice link that is UP, when ENGINE_ID is written; such a link has its partner's CAPS and stays UP. -/
def Eng.capsAll (e : Eng) : Eng :=
  (List.range 4).foldl (fun e n =>
    if (e.link.slinks[n]?).any (fun l => l.st == 3) then e.capsSplice 3 n else e) e

end Sys2Proof.Machine
end

