-- ==== Sys2Proof/Machine/Objects.lean ====
section
/-!
DEFINITION. The objects of the dictionary (13, and the object tables of every chapter): the directory (R450 to R452), the value
that each object reads, and what a write of each object does or why it is refused (R454).
-/

namespace Sys2Proof.Machine

/-! ### The directory -/

/-- Objects of one index: subindexes `lo` to `hi`, type code, access code, persistence code, and length (exact, or the maximum for
STR and BLOB). -/
structure ObjHead where
  index : Nat
  lo : Nat
  hi : Nat
  typ : Nat
  acc : Nat
  pers : Nat
  len : Nat
  deriving DecidableEq, Repr

/-- The scalar types by code, with their lengths (Table — Types). -/
def typeLen (t : Nat) : Nat := [0, 1, 2, 4, 8, 4, 1].getD t 0

/-- Objects of a scalar type. -/
def obj (index lo hi typ acc pers : Nat) : ObjHead := ⟨index, lo, hi, typ, acc, pers, typeLen typ⟩

/-- Identity, reset, power, channels, placement and the drain. Types: 1 U8, 2 U16, 3 U32, 4 U64, 5 I32, 6 BOOL, 7 STR,
8 BLOB; access: 0 RO, 1 RW, 2 WO, 3 RWP, 4 ROF; persistence: 0 F, 1 K, 2 S, 3 V, 4 P. -/
def objTable1 : List ObjHead :=
  [⟨0x1000, 1, 2, 7, 4, 0, 64⟩, obj 0x1000 3 3 2 4 0, obj 0x1000 4 4 4 4 0, obj 0x1000 5 5 2 4 0,
   obj 0x1010 1 2 1 4 0, obj 0x1010 3 4 3 4 0,
   obj 0x1F00 1 1 2 4 0, ⟨0x1F00, 2, 2, 8, 4, 0, 0⟩,
   obj 0x2000 1 1 3 0 1, obj 0x2000 2 2 1 0 1, obj 0x2000 3 3 2 2 3,
   obj 0x2010 1 1 2 0 1, obj 0x2010 2 2 1 1 3, obj 0x2010 3 3 3 1 3, obj 0x2010 4 4 2 2 3, obj 0x2010 5 5 2 2 1,
   obj 0x2020 1 4 4 0 1, obj 0x2030 1 1 1 0 3, obj 0x2100 1 1 4 0 3,
   obj 0x2200 1 1 4 1 3, obj 0x2210 1 1 2 2 3, obj 0x2220 1 4 4 1 3, obj 0x2230 1 8 4 0 3, obj 0x2240 1 3 4 0 3,
   obj 0x2310 2 2 5 1 2, obj 0x2400 1 1 1 1 3, obj 0x2400 2 2 3 1 3,
   ⟨0x2610, 1, 5, 8, 0, 0, 1056⟩, ⟨0x2620, 1, 8, 8, 1, 3, 1056⟩, obj 0x2630 1 5 4 0 3,
   ⟨0x2F00, 1, 1, 8, 1, 3, 65536⟩, obj 0x2F00 2 2 4 0 3]

/-- Pods, the Stage, statistics and sparse inference. -/
def objTable2 : List ObjHead :=
  [obj 0x3000 1 1 3 0 2, obj 0x3000 2 2 1 0 2, obj 0x3000 3 3 2 0 3, obj 0x3010 1 34 3 0 2, obj 0x3020 1 34 3 0 2,
   obj 0x3030 1 3 4 0 3, obj 0x3040 1 34 3 0 4, obj 0x3050 1 1 1 2 3,
   obj 0x3400 1 1 3 0 2, obj 0x3400 2 2 3 1 3, obj 0x3400 3 4 3 0 3, obj 0x3410 1 32 4 0 2, obj 0x3420 1 32 3 0 3,
   obj 0x3430 1 5 4 0 3,
   obj 0x4000 1 1 4 0 3, obj 0x4000 2 2 4 1 3, obj 0x4000 3 3 4 0 3, ⟨0x4010, 1, 1, 8, 0, 3, 32⟩, obj 0x4020 1 80 4 0 3,
   obj 0x4030 1 48 4 0 3, obj 0x4040 1 48 4 0 3,
   obj 0x5000 1 1 2 1 3, obj 0x5010 1 1 2 1 3, obj 0x5020 1 9 4 0 3]

/-- Remote operations, collectives, faults, health. -/
def objTable3 : List ObjHead :=
  [obj 0x6000 1 1 4 1 3, obj 0x6000 2 2 3 1 3, obj 0x6000 3 3 3 1 2, obj 0x6000 4 4 1 1 3,
   obj 0x6010 1 2 2 2 3, obj 0x6010 3 3 3 0 3, obj 0x6020 1 1 2 1 3, obj 0x6020 2 2 4 0 3, obj 0x6020 3 3 3 0 3,
   obj 0x6030 1 5 4 0 3, obj 0x6040 1 1 4 1 3, obj 0x6040 2 2 3 1 3, obj 0x6040 3 3 1 0 3,
   obj 0x6050 1 1 4 1 3, obj 0x6050 2 2 2 1 3, obj 0x6050 3 3 1 1 3, obj 0x6050 4 4 3 1 3, obj 0x6050 5 6 2 2 3,
   obj 0x6050 7 7 3 0 3, obj 0x6060 1 4 1 1 3, obj 0x6070 1 8 4 0 3,
   obj 0x7000 1 1 3 0 2, obj 0x7000 2 2 1 1 3, ⟨0x7000, 3, 3, 8, 0, 2, 16⟩, obj 0x7000 4 4 2 1 3,
   obj 0x7010 1 2 1 1 2, obj 0x7010 3 3 3 1 2, obj 0x7020 1 12 4 0 3,
   obj 0x8000 1 1 1 0 1, obj 0x8000 2 2 3 0 3,
   obj 0x8020 1 2 3 1 2, obj 0x8020 3 3 3 3 2, obj 0x8020 4 4 6 1 2, obj 0x8020 5 5 1 2 3, obj 0x8021 1 34 3 0 2,
   obj 0x8030 1 1 6 3 3, obj 0x8040 1 1 1 0 2, obj 0x8040 2 2 6 3 3, obj 0x8050 1 1 6 3 3, obj 0x8050 2 2 3 0 2,
   obj 0x8060 1 1 4 1 3, obj 0x8060 2 3 3 1 3, obj 0x8060 4 4 6 2 3, obj 0x8060 5 5 3 0 3, obj 0x8060 6 6 3 4 0,
   obj 0x8061 1 34 3 0 3]

/-- Ports, links and the ring. -/
def objTable4 : List ObjHead :=
  [obj 0x9000 1 1 1 0 3, obj 0x9010 1 1 1 0 3, obj 0x9010 2 3 4 0 3, obj 0x9010 4 4 3 0 3, obj 0x9010 5 5 6 1 3,
   obj 0x9010 6 6 4 0 3, obj 0x9020 1 4 3 0 3, obj 0x9021 1 4 1 1 2, obj 0x9022 1 4 1 2 3, obj 0x9030 1 4 3 0 3,
   obj 0x9100 1 5 4 0 3, obj 0x9110 1 6 4 0 3, obj 0x9120 1 7 4 0 3, obj 0x9130 1 2 4 0 3, obj 0x9140 1 2 4 0 3,
   obj 0x9150 1 4 4 0 3]

/-- Every object but subindex 0, in ascending order of index, then subindex. -/
def objTable : List ObjHead := objTable1 ++ objTable2 ++ objTable3 ++ objTable4

/-- The highest subindex of an index (R451). -/
def objTop (index : Nat) : Nat := ((objTable.filter fun o => o.index == index).map (·.hi)).foldl max 0

/-- Subindex 0 of an index that holds objects (R451). -/
def objZero (index : Nat) : ObjHead := ⟨index, 0, 0, 1, 4, 0, 1⟩

/-- The object at an index and subindex (R450). -/
def findObj (index sub : Nat) : Option ObjHead :=
  if sub = 0 then (if objTable.any fun o => o.index == index then some (objZero index) else none)
  else objTable.find? fun o => o.index == index && decide (o.lo ≤ sub ∧ sub ≤ o.hi)

/-- Every object as (index, subindex) with its row, subindex 0 included. -/
def objList : List (Nat × ObjHead) :=
  let subs := fun (o : ObjHead) => (List.range (o.hi + 1 - o.lo)).map fun i => (o.lo + i, o)
  ((objTable.map (·.index)).eraseDups).flatMap fun x =>
    (0, objZero x) :: (objTable.filter fun o => o.index == x).flatMap subs

/-- OBJECT_COUNT. -/
def objCount : Nat := objList.length

/-- OBJECT_DIRECTORY: 8 bytes per object. -/
def objDirectory : List Byte :=
  objList.flatMap fun x =>
    let o := x.2
    let len := if o.index = 0x1F00 ∧ x.1 = 2 then 8 * objCount else o.len % 65536
    leBytes 8 (o.index + x.1 * 2 ^ 16 + o.typ * 2 ^ 24 + o.acc * 2 ^ 28 + o.pers * 2 ^ 32 + len * 2 ^ 48)

/-! ### What objects read -/

/-- POD_STATE of a pod. -/
def Eng.podState (e : Eng) (n : Nat) : Nat :=
  let d := e.pod n
  let code := match d.svc with
    | .inService => 0
    | .draining => 1
    | .out => 2
    | .screenTest => 3
    | .retired => 4
  match d.lpos with
  | none => code
  | some p => code + p % 32 * 2 ^ 8 + 2 ^ 13 + (if (e.gang (p / 4)).formed then 2 ^ 16 + p % 4 * 2 ^ 17 else 0)

/-- SLICE_STATE of a slice. -/
def Stage.sliceState (s : Stage) (n : Nat) : Nat :=
  s.operandBytes n / 1024 + (s.folds.filter fun x => x.1 == n).length * 2 ^ 16 + b2n (s.withdrawn.contains n) * 2 ^ 31

/-- STAGE_ACTIVE_BYTES. -/
def Stage.activeBytes (s : Stage) : Nat :=
  lsum ((List.range 32).map fun n =>
    if s.withdrawn.contains n then 0 else (128 - (s.folds.filter fun x => x.1 == n).length) * 65536)

/-- OPERAND_BYTES_MIN. -/
def Stage.operandMin (s : Stage) : Nat :=
  match ((List.range 32).filter fun n => !s.withdrawn.contains n).map s.operandBytes with
  | [] => 0
  | x :: r => r.foldl min x

/-- ACC_WINDOW_STATE. -/
def Eng.windowState (e : Eng) : Nat :=
  let faulted := e.remote.winFaulted || (e.win? e.remote.winLast).any fun w => w.faulted.isSome
  (e.remote.wins.countP fun w => w.opened) % 256 + b2n e.remote.winBusy.isSome * 2 ^ 8 + b2n e.remote.winFailed * 2 ^ 9
    + b2n faulted * 2 ^ 10 + e.remote.winLast % 2 ^ 16 * 2 ^ 16

/-- POWER_STATE: TRANSIT reads 1 during an entry to E3 that waits for replies; every other transition is whole within its step. -/
def PowerSt.stateWord (p : PowerSt) : Nat :=
  p.estate + b2n (p.entry == some .e3) * 2 ^ 2 + b2n (p.step != 0) * 2 ^ 3 + p.step % 8 * 2 ^ 4 + p.wake % 16 * 2 ^ 8

/-- SL_STATE of a link. -/
def SLink.stateWord (l : SLink) : Nat := l.st + l.ucie * 2 ^ 6 + l.rate * 2 ^ 8 + l.repaired * 2 ^ 12 + l.pid * 2 ^ 16

/-- CHANNEL_STATE of 32 channels from `c0`. -/
def Eng.channelStates (e : Eng) (c0 : Nat) : Nat :=
  lsum ((List.range 32).map fun i =>
    4 ^ i * (match (e.ch (c0 + i)).state with | .disabled => 0 | .active => 1 | .error => 2 | .resetting => 3))

/-- The counters of R447 by the object that holds them: number of subindex 1. -/
def counterBase (index : Nat) : Option Nat :=
  ([(0x2240, 1), (0x2630, 4), (0x3030, 9), (0x3430, 12), (0x5020, 17), (0x6030, 26), (0x6070, 31), (0x7020, 39), (0x9100, 51),
    (0x9110, 56), (0x9120, 62), (0x9130, 69), (0x9140, 71), (0x9150, 73)].find? fun x => x.1 == index).map (·.2)

/-- The images of the activation slots that ACT_TABLE holds. -/
def Eng.actImage (e : Eng) (i : Nat) : List Byte :=
  match e.drain.act.getD i .zero with
  | .zero => List.replicate 1056 0
  | .builtin k => (List.range 1056).map (Config.actBuiltin k)
  | .image b => b

/-- The number that a scalar object reads; a write-only trigger has none. -/
def Eng.objNat (e : Eng) (index sub : Nat) : Nat :=
  let i := sub - 1
  match counterBase index with
  | some k => nget e.cnt (k + i) 0
  | none =>
    match index with
    | 0x1000 => if sub = 3 then Config.siliconRev.toNat else if sub = 4 then Config.serial.toNat else 4
    | 0x1010 => [0x1C, 0x22, 0x10000000, 0x3F].getD i 0
    | 0x1F00 => objCount
    | 0x2000 => if sub = 1 then e.power.resetCount.toNat else e.power.resetCause.toNat
    | 0x2010 => if sub = 1 then e.power.stateWord else if sub = 2 then e.power.idleState.toNat else e.power.idleDelay.toNat
    | 0x2020 => (e.power.time.getD i 0).toNat
    | 0x2030 => e.throttle + 8 * b2n e.droop
    | 0x2100 => e.cue
    | 0x2200 => e.chan.table.toNat
    | 0x2220 => (e.chan.irq.getD i 0).toNat
    | 0x2230 => e.channelStates (32 * i)
    | 0x2310 => e.anchorDefault.toNat
    | 0x2400 => if sub = 1 then e.place.shapeMask.toNat else e.place.posMask.toNat
    | 0x2F00 => e.dict.imageState.toNat
    | 0x3000 =>
      if sub = 1 then lsum ((List.range 32).map fun p => 2 ^ p * b2n (e.served p))
      else if sub = 2 then (List.range 34).countP e.podFree
      else e.place.slates.countP e.slateWaits
    | 0x3010 => e.podState i
    | 0x3020 => lsum ((e.pod i).spares.map fun s => (s.2 + 128) * 256 ^ s.1)
    | 0x3040 => (e.pod i).fetches
    | 0x3400 =>
      if sub = 1 then e.stage.activeBytes else if sub = 2 then e.stage.stagingBytes.toNat
      else if sub = 3 then e.stage.operandMin else e.stage.stagingAvailable
    | 0x3410 => lsum ((List.range 8).map fun j => match nget? e.stage.spareMap (8 * i + j) with
        | some b => (b + 128) * 256 ^ j
        | none => 0)
    | 0x3420 => e.stage.sliceState i
    | 0x4000 =>
      if sub = 1 then e.health.reelNumber.toNat else if sub = 2 then e.health.reelInterval.toNat else e.health.reelStart.toNat
    | 0x4020 => nget e.daily sub 0
    | 0x4030 => nget e.setCnt sub 0
    | 0x4040 => nget e.setDaily sub 0
    | 0x5000 => e.segMax.toNat
    | 0x5010 => e.bias.toNat
    | 0x6000 =>
      if sub = 1 then e.remote.winBase.toNat else if sub = 2 then e.remote.winCount.toNat
      else if sub = 3 then e.link.engineId.toNat else e.link.fabricMask.toNat
    | 0x6010 => e.windowState
    | 0x6020 =>
      let t := e.trig e.remote.trigSelect.toNat
      if sub = 1 then e.remote.trigSelect.toNat else if sub = 2 then t.count.toNat
      else t.status % 256 + t.detail % 256 * 2 ^ 8 + b2n t.armed * 2 ^ 16
    | 0x6040 =>
      if sub = 1 then e.coll.groupBase.toNat else if sub = 2 then e.coll.groupCount.toNat else e.coll.cache.length
    | 0x6050 =>
      [e.coll.tableBase.toNat, e.coll.tableCount.toNat, e.coll.chunkDefault.toNat, e.coll.stallLimit.toNat, 0, 0,
        e.coll.lastRefusal.toNat].getD i 0
    | 0x6060 => e.link.weight i
    | 0x7000 =>
      if sub = 1 then e.health.logCount.toNat else if sub = 2 then e.health.logSelect.toNat else e.health.irqChannel.toNat
    | 0x7010 => if sub = 1 then e.health.reexec.toNat else if sub = 2 then e.health.replay.toNat else e.health.ceLimit.toNat
    | 0x8000 => if sub = 1 then 3 * b2n e.power.presence else e.dict.presenceRefusals.toNat
    | 0x8020 =>
      [e.health.screenSpacing.toNat, e.health.screenSettings.toNat, e.health.screenLimits.toNat, b2n e.health.screenNoSpare].getD i 0
    | 0x8021 => (e.pod i).screen.toNat
    | 0x8030 => b2n e.dict.debugUnlock
    | 0x8040 => if sub = 1 then b2n e.health.exPods + 2 * b2n e.health.exBanks + 4 * b2n e.health.acked else 0
    | 0x8050 =>
      if sub = 1 then 0
      else e.health.fusesUsed % 256 + e.unburnt.length % 256 * 2 ^ 8 + b2n (e.health.burning != []) * 2 ^ 16
        + b2n e.health.burnFailed * 2 ^ 17
    | 0x8060 =>
      [e.health.imgBase.toNat, e.health.imgLen.toNat, e.health.imgCrc.toNat, 0,
        e.health.updDone % 64 + b2n e.health.updBusy * 2 ^ 8 + b2n e.health.crcFail * 2 ^ 9, Config.shippedVersion.toNat].getD i 0
    | 0x8061 => (e.pod i).version.toNat
    | 0x9000 => b2n e.chkgen
    | 0x9010 =>
      if sub = 1 then e.ring.position.toNat else if sub = 5 then b2n e.dict.tunnelEnable else nget e.cnt (75 + min sub 5) 0
    | 0x9020 => ((e.link.slinks[i]?).map SLink.stateWord).getD 0
    | 0x9021 => ((e.link.slinks[i]?).map fun l => l.rateMax.toNat).getD 0
    | 0x9030 => ((e.link.fports[i]?).map fun p => p.st + b2n p.niReady * 2 ^ 3).getD 0
    | _ => 0

/-- The bytes that an object reads, DICT_IMAGE apart. -/
def Eng.objBytes (e : Eng) (o : ObjHead) (sub : Nat) : List Byte :=
  if sub = 0 then leBytes 1 (objTop o.index)
  else if o.typ < 7 then leBytes o.len (e.objNat o.index sub)
  else
    match o.index with
    | 0x1000 => if sub = 1 then [0x57, 0x65, 0x6C, 0x76, 0x69, 0x6B] else [0x4B, 0x77, 0x65, 0x62, 0x79, 0x2D, 0x34]
    | 0x1F00 => objDirectory
    | 0x2610 => (List.range 1056).map (Config.actBuiltin (sub - 1))
    | 0x2620 => e.actImage (sub - 1)
    | 0x4010 => e.health.header
    | 0x7000 => leBytes 16 ((e.health.log.getD e.health.logSelect.toNat 0).toNat)
    | _ => []

/-! ### Images (R471) -/

/-- The objects that an image holds: RW, of class S or V, but IRQ_PENDING and DICT_IMAGE. -/
def imageObjs : List (Nat × ObjHead) :=
  objList.filter fun x => x.2.acc == 1 && (x.2.pers == 2 || x.2.pers == 3) && x.2.index != 0x2220 && x.2.index != 0x2F00

/-- An image entry: index, subindex, type, value padded to a multiple of 8. -/
def imageEntry (index sub typ : Nat) (v : List Byte) : List Byte :=
  leBytes 8 (index + sub * 2 ^ 16 + typ * 2 ^ 24 + v.length * 2 ^ 32) ++ v ++ List.replicate (cdiv v.length 8 * 8 - v.length) 0

/-- The image that DICT_IMAGE reads. -/
def Eng.image (e : Eng) : List Byte :=
  let body := imageObjs.flatMap fun x => imageEntry x.2.index x.1 x.2.typ (e.objBytes x.2 x.1)
  leBytes 16 (4 + imageObjs.length * 2 ^ 32 + (16 + body.length) * 2 ^ 64 + crc32c body * 2 ^ 96) ++ body

/-- The entries that fill a byte string exactly: index, subindex, value. -/
def imageParse : Nat → List Byte → Option (List (Nat × Nat × List Byte))
  | _, [] => some []
  | 0, _ :: _ => none
  | n + 1, b =>
    let h := leNat (b.take 8)
    let len := fld h 32 16
    let size := 8 + cdiv len 8 * 8
    if b.length < size then none
    else (imageParse n (b.drop size)).map fun r => (fld h 0 16, fld h 16 8, (b.drop 8).take len) :: r

/-- The checks of R471 step 1, with the entries. -/
def imageCheck (b : List Byte) : Option (List (Nat × Nat × List Byte)) :=
  let h := leNat (b.take 16)
  if b.length < 16 ∨ fld h 0 8 ≠ 4 ∨ fld h 64 32 ≠ b.length ∨ fld h 96 32 ≠ crc32c (b.drop 16) then none
  else (imageParse (b.length / 8) (b.drop 16)).filter fun l => l.length == fld h 32 32

/-! ### What writes do -/

/-- R288: whether a table image may be written: its length, X0 and E. -/
def actImageOk (b : List Byte) : Bool :=
  let x := leNat (b.take 4)
  let ex := fld x 23 8
  let m := if ex = 0 then fld x 0 23 else 2 ^ 23 + fld x 0 23
  let q : Int := if ex = 0 then -149 else (ex : Int) - 150
  let E := sext 8 (leNat ((b.drop 4).take 1))
  b.length == 1056 && ex != 255 && decide (-32 ≤ E ∧ E ≤ 31) && (m == 0 || decide (E ≤ q) || m % 2 ^ (E - q).toNat == 0)

/-- The chain of a command: the loaded context of its channel, or its record in memory while the context is still to be loaded
(R296). -/
def Eng.chainOf (rd : Nat → Byte) (e : Eng) (m : Cmd) (p : Problem) : ChainRec :=
  match nget? e.drain.chains m.ch with
  | some c => if c.2 = m.seq then c.1.rcd else rdChain rd p.drain.chain
  | none => rdChain rd p.drain.chain

/-- Whether a command in progress selects an activation slot, through ACT or a table-lookup stage (R288). -/
def Eng.actInUse (rd : Nat → Byte) (e : Eng) (slot : Nat) : Bool :=
  e.chan.cmds.any fun m => m.phase == .running && m.prob.any fun p =>
    p.drain.act == slot + 8 ||
      (p.drain.chainEn && let r := e.chainOf rd m p; (r.stages.take r.nstages).any fun s => s.op == 11 && s.arg == slot)

/-- Whether a collective is in progress or waiting. -/
def Eng.collBusy (e : Eng) : Bool := !e.coll.colls.isEmpty || !e.coll.waiting.isEmpty

/-- R206: the shape choice applied again to the slates that waited. -/
def Eng.rechoose (waited : List Slate) (e : Eng) : Eng :=
  waited.foldl (fun e s =>
    match (e.cmd? s.ch s.seq).bind fun m => m.prob.bind fun p => m.kind.map fun k => (p, k) with
    | some (p, k) => e.updSlate s.ch s.seq fun s => { s with shape := e.chooseShape p k s.shape }
    | none => e) e

/-- SCREEN_LIMITS within the field ranges of R438. -/
def screenLimitsOk (n : Nat) : Bool :=
  decide (fld n 16 8 ≤ 25) && decide (125 ≤ fld n 8 8 ∧ fld n 8 8 ≤ 140) && decide (fld n 0 8 ≤ 60) && fld n 0 8 % 5 == 0

/-- Health state changed. -/
def Eng.updHealth (f : HealthSt → HealthSt) (e : Eng) : Eng := { e with health := f e.health }

/-- A write that is performed where a condition holds and refused where it does not. -/
def Eng.when (c : Bool) (f : Eng → Eng) (e : Eng) : Bool × Eng := if c then (true, f e) else (false, e)

/-- A write that an operation may refuse. -/
def Eng.tryOp (f : Eng → Option Eng) (e : Eng) : Bool × Eng :=
  match f e with
  | some e' => (true, e')
  | none => (false, e)

/-- Writes of 0x2000 to 0x2FFF; `n` is the value. -/
def Eng.write2 (rd : Nat → Byte) (index sub n : Nat) (v : List Byte) (e : Eng) : Bool × Eng :=
  match index with
  | 0x2000 => e.when (n == 0xE5) fun e => { e with power := { e.power with after := 1 } }
  | 0x2010 =>
    if sub = 2 then e.when (decide (n ≤ 2)) fun e => { e with power := { e.power with idleState := BitVec.ofNat 8 n } }
    else if sub = 3 then
      e.when (decide (10 ≤ n ∧ n ≤ 10000000)) fun e => { e with power := { e.power with idleDelay := BitVec.ofNat 32 n } }
    else if sub = 4 then
      e.when (n == 0xE3 && e.chan.cmds.isEmpty && !e.collBusy && e.health.burning.isEmpty && !e.health.updBusy) fun e =>
        { e with power := { e.power with after := 2 } }
    else (false, e)
  | 0x2200 =>
    e.when (n % 4096 == 0 && e.chan.chans.all fun c => c.2.state == .disabled) fun e =>
      { e with chan := { e.chan with table := BitVec.ofNat 64 n } }
  | 0x2210 => e.when (decide (n ≤ 255)) fun e => e.channelReset rd n
  | 0x2220 =>
    (true, { e with chan := { e.chan with irq := lset e.chan.irq (sub - 1) fun x => x &&& ~~~(BitVec.ofNat 64 n) } })
  | 0x2310 => e.when (decide (-2048 ≤ sext 32 n ∧ sext 32 n ≤ 2047)) fun e => { e with anchorDefault := BitVec.ofNat 32 n }
  | 0x2400 =>
    if sub = 1 then (true, { e with place := { e.place with shapeMask := BitVec.ofNat 8 (n % 32) } })
    else
      (true, { e with place := { e.place with posMask := BitVec.ofNat 32 n } }.rechoose (e.place.slates.filter e.slateWaits))
  | 0x2620 =>
    let img := v.take 5 ++ [0, 0, 0] ++ v.drop 8
    e.when (actImageOk v && !e.actInUse rd (sub - 1)) fun e =>
      { e with drain := { e.drain with act := lset e.drain.act (sub - 1) fun _ => .image img } }
  | _ => (false, e)

/-- Writes of 0x3000 to 0x5FFF. -/
def Eng.write3 (index n : Nat) (e : Eng) : Bool × Eng :=
  match index with
  | 0x3050 => e.tryOp fun e => e.podReset n
  | 0x3400 =>
    e.when (n % 131072 == 0 && decide (6291456 ≤ n ∧ n ≤ 100663296) && (e.chan.cmds.all fun m => !m.underWay) &&
        e.remote.wins.isEmpty && !e.collBusy) fun e =>
      e.updStage fun s => { s with stagingBytes := BitVec.ofNat 32 n }
  | 0x4000 =>
    e.when (n == 0 || decide (2 ^ 20 ≤ n)) fun e =>
      let due := if n = 0 then none else some (max (e.health.reelStart.toNat + n) (e.cue + 32))
      e.updHealth fun h => { h with reelInterval := BitVec.ofNat 64 n, reelDue := due }
  | 0x5000 => e.when (n % 32 == 0 && decide (32 ≤ n ∧ n ≤ 32768)) fun e => { e with segMax := BitVec.ofNat 16 n }
  | 0x5010 => e.when (n != 0) fun e => { e with bias := BitVec.ofNat 16 n }
  | _ => (false, e)

/-- Writes of 0x6000 to 0x60FF. -/
def Eng.write6 (rd : Nat → Byte) (index sub n : Nat) (e : Eng) : Bool × Eng :=
  match index with
  | 0x6000 =>
    if sub = 1 then
      e.when (n % 32 == 0 && e.remote.wins.isEmpty) fun e => { e with remote := { e.remote with winBase := BitVec.ofNat 64 n } }
    else if sub = 2 then
      e.when (decide (n ≤ 65536) && e.remote.wins.isEmpty) fun e =>
        { e with remote := { e.remote with winCount := BitVec.ofNat 32 n } }
    else if sub = 3 then
      e.when (e.chan.chans.all fun c => c.2.state == .disabled) fun e =>
        { e with link := { e.link with engineId := BitVec.ofNat 32 (n % 2 ^ 17) } }.capsAll
    else
      e.when e.remote.ops.isEmpty fun e => { e with link := { e.link with fabricMask := BitVec.ofNat 8 (n % 16) } }
  | 0x6010 => if sub = 1 then e.tryOp fun e => e.openWindow rd n else e.tryOp fun e => e.closeWindow n
  | 0x6020 => e.when (decide (n ≤ 4095)) fun e => { e with remote := { e.remote with trigSelect := BitVec.ofNat 16 n } }
  | 0x6040 =>
    if sub = 1 then
      e.when (n % 32 == 0 && !e.collBusy) fun e => { e with coll := { e.coll with groupBase := BitVec.ofNat 64 n, cache := [] } }
    else e.when (decide (n ≤ 65536) && !e.collBusy) fun e => { e with coll := { e.coll with groupCount := BitVec.ofNat 32 n } }
  | 0x6050 =>
    match sub with
    | 1 => e.when (n % 128 == 0 && !e.collBusy) fun e => { e with coll := { e.coll with tableBase := BitVec.ofNat 64 n } }
    | 2 => e.when (decide (n ≤ 4096) && !e.collBusy) fun e => { e with coll := { e.coll with tableCount := BitVec.ofNat 16 n } }
    | 3 => e.when (decide (n ≤ 8) && !e.collBusy) fun e => { e with coll := { e.coll with chunkDefault := BitVec.ofNat 8 n } }
    | 4 => (true, { e with coll := { e.coll with stallLimit := BitVec.ofNat 32 n } })
    | 5 => e.tryOp fun e => e.collAbort rd n
    | 6 => e.tryOp fun e => e.collEndLocal n
    | _ => (false, e)
  | 0x6060 =>
    e.when (n != 0) fun e => { e with link := { e.link with weights := lset e.link.weights (sub - 1) fun _ => BitVec.ofNat 8 n } }
  | _ => (false, e)

/-- Writes of 0x7000 to 0x9FFF. A trigger written 0 does nothing. -/
def Eng.write7 (rd : Nat → Byte) (index sub n : Nat) (e : Eng) : Bool × Eng :=
  match index with
  | 0x7000 =>
    if sub = 2 then e.when (decide (n ≤ 63)) fun e => e.updHealth fun h => { h with logSelect := BitVec.ofNat 8 n }
    else e.when (decide (n ≤ 0x100)) fun e => e.updHealth fun h => { h with irqChannel := BitVec.ofNat 16 n }
  | 0x7010 =>
    if sub = 1 then e.when (decide (1 ≤ n ∧ n ≤ 15)) fun e => e.updHealth fun h => { h with reexec := BitVec.ofNat 8 n }
    else if sub = 2 then e.when (decide (n ≤ 15)) fun e => e.updHealth fun h => { h with replay := BitVec.ofNat 8 n }
    else e.when (n != 0) fun e => e.updHealth fun h => { h with ceLimit := BitVec.ofNat 32 n }
  | 0x8020 =>
    match sub with
    | 1 => (true, e.updHealth fun h => { h with screenSpacing := BitVec.ofNat 32 n })
    | 2 => (true, e.updHealth fun h => { h with screenSettings := BitVec.ofNat 32 (n % 2 ^ 26) })
    | 3 => e.when (screenLimitsOk n) fun e => e.updHealth fun h => { h with screenLimits := BitVec.ofNat 32 (n % 2 ^ 24) }
    | 4 => (true, e.updHealth fun h => { h with screenNoSpare := n == 1 })
    | 5 => e.tryOp fun e => e.screenNow n
    | _ => (false, e)
  | 0x8030 => (true, { e with dict := { e.dict with debugUnlock := n == 1 } })
  | 0x8040 => if n = 1 then e.tryOp fun e => e.sparesAck else (true, e)
  | 0x8050 => if n = 1 then e.tryOp fun e => e.repairCommit else (true, e)
  | 0x8060 =>
    match sub with
    | 1 => e.when (n % 256 == 0) fun e => e.updHealth fun h => { h with imgBase := BitVec.ofNat 64 n }
    | 2 => (true, e.updHealth fun h => { h with imgLen := BitVec.ofNat 32 n })
    | 3 => (true, e.updHealth fun h => { h with imgCrc := BitVec.ofNat 32 n })
    | 4 => if n = 1 then e.builtinUpdate rd else (true, e)
    | _ => (false, e)
  | 0x9010 => (true, { e with dict := { e.dict with tunnelEnable := n == 1 } })
  | 0x9021 =>
    e.when ([4, 8, 12, 16, 24, 32].contains n) fun e =>
      { e with link := { e.link with slinks := e.link.slinks.modify (sub - 1) fun l => { l with rateMax := BitVec.ofNat 8 n } } }
  | 0x9022 => e.when (n == 1) fun e => e.startRetrain (sub - 1)
  | _ => (false, e)

/-- A write of an object's whole value, DICT_IMAGE apart: false where the object's own rule refuses it. -/
def Eng.objWrite (rd : Nat → Byte) (index sub : Nat) (v : List Byte) (e : Eng) : Bool × Eng :=
  let n := leNat v
  if index < 0x3000 then Eng.write2 rd index sub n v e
  else if index < 0x6000 then Eng.write3 index n e
  else if index < 0x7000 then Eng.write6 rd index sub n e
  else Eng.write7 rd index sub n e

end Sys2Proof.Machine
end

