-- ==== Sys2Proof/Machine/Dict.lean ====
section
/-!
DEFINITION. Dictionary accesses (R454 to R457, R467, R470, R471), the memory-mapped window (R458 to R460, R504), the Huaset ring
(R462 to R467) and the management tunnel (R469, R490).
-/

namespace Sys2Proof.Machine

/-! ### Accesses -/

/-- An access as a path presents it: scalar read and write, segment read (offset, length), segment write (offset, bytes, LAST). -/
inductive Access where
  | read
  | write (v : List Byte)
  | readSeg (offset len : Nat)
  | writeSeg (offset : Nat) (seg : List Byte) (last : Bool)
  deriving DecidableEq, Repr

/-- Whether an access writes. -/
def Access.isWrite : Access → Bool
  | .write _ => true
  | .writeSeg _ _ _ => true
  | _ => false

/-- The number of a path. -/
def pathNum : Path → Nat
  | .window => 0
  | .ring => 1
  | .tunnel => 2

/-- The buffers of a path. -/
def Eng.pathBuf (e : Eng) (p : Path) : PathBuf := e.dict.paths.getD (pathNum p) ⟨none, [], none, []⟩

/-- The buffers of a path changed. -/
def Eng.updPath (p : Path) (f : PathBuf → PathBuf) (e : Eng) : Eng :=
  { e with dict := { e.dict with paths := lset e.dict.paths (pathNum p) f } }

/-- R454, R470: presence refuses a write of an RWP object, and the refusal is counted. -/
def Eng.needsPresence (e : Eng) (p : Path) (o : ObjHead) : Bool := o.acc == 3 && (p == .tunnel || !e.power.presence)

/-- The write of a whole value once its object is known, DICT_IMAGE apart (R454). -/
def Eng.putObj (rd : Nat → Byte) (p : Path) (o : ObjHead) (sub : Nat) (v : List Byte) (e : Eng) : Nat × Eng :=
  if e.needsPresence p o then (4, { e with dict := { e.dict with presenceRefusals := e.dict.presenceRefusals + 1 } })
  else if o.typ = 6 ∧ v ≠ [0] ∧ v ≠ [1] then (5, e)
  else
    let (ok, e) := e.objWrite rd o.index sub v
    (if ok then 0 else 5, e)

/-- Whether a write of an object is refused by its access right. -/
def ObjHead.readOnly (o : ObjHead) : Bool := o.acc == 0 || o.acc == 4

/-- One entry of an image as a write through the same path (R471 step 2); DICT_IMAGE itself is busy. -/
def Eng.imageWrite (rd : Nat → Byte) (p : Path) (index sub : Nat) (v : List Byte) (e : Eng) : Nat × Eng :=
  match findObj index sub with
  | none => (1, e)
  | some o =>
    if o.readOnly then (2, e)
    else if o.typ < 7 ∧ v.length ≠ o.len then (6, e)
    else if o.index = 0x2F00 then (5, e)
    else e.putObj rd p o sub v

/-- The entries of an image applied in order: how many were applied, how many skipped, and the first skipped. -/
def Eng.imageApply (rd : Nat → Byte) (p : Path) :
    List (Nat × Nat × List Byte) → Nat → Nat → Option (Nat × Nat) → Eng → Nat × Nat × Option (Nat × Nat) × Eng
  | [], a, s, f, e => (a, s, f, e)
  | (i, j, v) :: r, a, s, f, e =>
    let (c, e) := e.imageWrite rd p i j v
    if c = 0 then Eng.imageApply rd p r (a + 1) s f e
    else Eng.imageApply rd p r a (s + 1) (if f.isNone then some (i, j) else f) e

/-- R471: the write of an image. -/
def Eng.putImage (rd : Nat → Byte) (p : Path) (v : List Byte) (e : Eng) : Nat × Eng :=
  match imageCheck v with
  | none => (5, { e with dict := { e.dict with imageState := e.dict.imageState ||| BitVec.ofNat 64 (2 ^ 56) } })
  | some l =>
    let (a, s, f, e) := Eng.imageApply rd p l 0 0 none e
    let st := a % 2 ^ 16 + s % 2 ^ 16 * 2 ^ 16 + (f.map fun x => x.1 % 2 ^ 16 * 2 ^ 32 + x.2 % 2 ^ 8 * 2 ^ 48).getD 0
    (0, { e with dict := { e.dict with imageState := BitVec.ofNat 64 st } })

/-- A segmented write (R457). -/
def Eng.putSeg (rd : Nat → Byte) (p : Path) (o : ObjHead) (sub offset : Nat) (seg : List Byte) (last : Bool) (e : Eng) : Nat × Eng :=
  let b := e.pathBuf p
  let me := some (o.index, sub)
  let held := if offset = 0 then [] else b.buf
  let empty := fun (b : PathBuf) => { b with bufObj := none, buf := [] }
  if offset ≠ 0 ∧ b.bufObj ≠ me then (7, e)
  else if offset ≠ held.length then (7, e.updPath p empty)
  else if 65536 < held.length + seg.length then (7, e)
  else if !last then (0, e.updPath p fun b => { b with bufObj := me, buf := held ++ seg })
  else
    let e := if offset = 0 then e.updPath p empty else e
    let (c, e) := if o.index = 0x2F00 then e.putImage rd p (held ++ seg) else e.putObj rd p o sub (held ++ seg)
    (c, if c = 0 then e.updPath p empty else e)

/-- The bytes that an object reads, with the state after. STATE_TIME has gone on by then. While presence is not asserted, PRESENCE
shows the level of PRESENCE_N, which no command tells: a free bit (DESIGN CHOICE, log entry 150); while POR_N is low it reads its
default (R523). -/
def Eng.readObj (o : ObjHead) (sub : Nat) (e : Eng) : List Byte × Eng :=
  if o.index = 0x2020 then (e.passTime.objBytes o sub, e.passTime)
  else if o.index = 0x8000 ∧ sub = 1 ∧ !e.power.presence ∧ !e.power.porLow then
    let (k, e) := e.fresh
    (leBytes 1 (2 * (Config.freeNat k % 2)), e)
  else if o.index = 0x2F00 ∧ sub = 1 then (e.image, e)
  else (e.objBytes o sub, e)

/-- R467, R538: what the ring performs while the engine is in reset, start-up or E3. -/
def Eng.ringPerforms (e : Eng) (o : ObjHead) (sub : Nat) (a : Access) : Bool :=
  if a.isWrite then e.power.estate == 3 && o.index == 0x2010 && sub == 5 else o.pers ≤ 1 || o.index == 0x1000

/-- R537: the return from E3 starts; START_UP is its T0. -/
def Eng.leaveE3 (e : Eng) : Eng :=
  let e := e.passTime
  { e with power := { e.power with estate := 0, step := 1, t0 := false, fromE3 := true } }

/-- An access (R454 to R457): its result, what it reads, and the state after. -/
def Eng.access (rd : Nat → Byte) (p : Path) (index sub : Nat) (a : Access) (e : Eng) : Nat × List Byte × Eng :=
  let e := if a.isWrite then e.wake 3 else e
  match findObj index sub with
  | none => (if e.inService then 1 else 8, [], e)
  | some o =>
    if !e.inService && !e.ringPerforms o sub a then (8, [], e)
    else
      match a with
      | .read =>
        if o.acc = 2 then (3, [], e) else if 7 ≤ o.typ then (6, [], e)
        else
          let (b, e) := e.readObj o sub
          (0, b, e)
      | .write v =>
        if o.readOnly then (2, [], e) else if 7 ≤ o.typ ∨ v.length ≠ o.len then (6, [], e)
        else if !e.inService then (if leNat v = 0xE0 then (0, [], e.leaveE3) else (5, [], e))
        else
          let (c, e) := e.putObj rd p o sub v
          (c, [], e)
      | .readSeg off len =>
        if o.acc = 2 then (3, [], e) else if o.typ < 7 ∨ len = 0 then (6, [], e)
        else
          let me := some (o.index, sub)
          let b := e.pathBuf p
          if off = 0 then
            let (v, e) := e.readObj o sub
            (0, v.take len, e.updPath p fun b => { b with snapObj := me, snap := v })
          else if b.snapObj = me ∧ off < b.snap.length then (0, (b.snap.drop off).take len, e)
          else (7, [], e)
      | .writeSeg off seg last =>
        if o.readOnly then (2, [], e) else if o.typ < 7 ∨ seg = [] then (6, [], e)
        else
          let (c, e) := e.putSeg rd p o sub off seg last
          (c, [], e)

/-- An access of a path with its result recorded. Before READY and in E3 the window and the tunnel reach nothing; a tunnel that is
off answers TUNNEL_OFF. -/
def Eng.accessBy (rd : Nat → Byte) (p : Path) (index sub : Nat) (a : Access) (e : Eng) : Nat × List Byte × Eng :=
  if p ≠ .ring ∧ !e.inService then (8, [], e)
  else
    let (c, b, e) := if p = .tunnel ∧ !e.dict.tunnelEnable then (9, [], e) else e.access rd p index sub a
    (c, b, { e with dict := { e.dict with results := lset e.dict.results (pathNum p) fun _ => c } })

/-- A dictionary write that an event of its own names: the scalar write of an object through a path. -/
def Eng.writeBy (rd : Nat → Byte) (p : Path) (index sub : Nat) (v : List Byte) (e : Eng) : Eng :=
  (e.accessBy rd p index sub (.write v)).2.2

/-! ### The window (R458 to R460, R504) -/

/-- WIN_STATUS after an access: SIZE, PERSIST, ACCESS, TYPE, RESULT, OVERRUN 0, BUSY 1. -/
def winStatusWord (size : Nat) (o : Option ObjHead) (result : Nat) : BitVec 64 :=
  BitVec.ofNat 64 (1 + result % 256 * 2 ^ 8 + (o.map (·.typ)).getD 0 * 2 ^ 16 + (o.map (·.acc)).getD 0 * 2 ^ 20
    + (o.map (·.pers)).getD 0 * 2 ^ 24 + size % 2 ^ 32 * 2 ^ 32)

/-- The length of an object as WIN_STATUS gives it. -/
def Eng.objSize (e : Eng) (o : ObjHead) (sub : Nat) : Nat :=
  if o.typ < 7 then o.len else if o.index = 0x2F00 then e.image.length else (e.objBytes o sub).length

/-- The result of an access through the window put into its registers. -/
def Eng.winDone (index sub : Nat) (a : Access) (r : Nat × List Byte × Eng) : Eng :=
  let (c, b, e) := r
  let o := findObj index sub
  let seg := match a with | .readSeg _ _ => true | _ => false
  let size := if seg then b.length else (o.map fun o => e.objSize o sub).getD 0
  let d := { e.dict with winStatus := winStatusWord size o c, winBusy := true, winOverrun := false, winReads := !a.isWrite }
  let d := match a with
    | .read => if c = 0 then { d with winData := BitVec.ofNat 64 (leNat b) } else d
    | .readSeg _ _ => if c = 0 then { d with winBuf := b ++ d.winBuf.drop b.length } else d
    | _ => d
  { e with dict := d }

/-- A write of WIN_CMD (R459). -/
def Eng.winAccess (rd : Nat → Byte) (index sub : Nat) (f : Eng → Access) (e : Eng) : Eng :=
  if !e.inService then e
  else if e.dict.winBusy then { e with dict := { e.dict with winOverrun := true } }
  else Eng.winDone index sub (f e) (e.accessBy rd .window index sub (f e))

/-- WIN_READ. -/
def Eng.winRead (rd : Nat → Byte) (index sub : Nat) (e : Eng) : Eng := e.winAccess rd index sub fun _ => .read

/-- WIN_WRITE: the value is as many bytes of WIN_DATA as the object has. -/
def Eng.winWrite (rd : Nat → Byte) (index sub : Nat) (e : Eng) : Eng :=
  e.winAccess rd index sub fun e => .write (leBytes (((findObj index sub).map (·.len)).getD 0) e.dict.winData.toNat)

/-- WIN_OFFSET as a byte offset. -/
def Eng.winOff (e : Eng) : Nat := fld e.dict.winOffset.toNat 0 32

/-- Segment bytes that WIN_BUF can hold; a LEN beyond 256 is no length (DEDUCED, log entry 43). -/
def winLen (len : Nat) : Nat := if len ≤ 256 then len else 0

/-- WIN_READ_SEG. -/
def Eng.winReadSeg (rd : Nat → Byte) (index sub len : Nat) (e : Eng) : Eng :=
  e.winAccess rd index sub fun e => .readSeg e.winOff (winLen len)

/-- WIN_WRITE_SEG. -/
def Eng.winWriteSeg (rd : Nat → Byte) (index sub len : Nat) (last : Bool) (e : Eng) : Eng :=
  e.winAccess rd index sub fun e => .writeSeg e.winOff (e.dict.winBuf.take (winLen len)) last

/-- A WIN_CMD with a reserved OP: the access performs nothing and ends with REFUSED. -/
def Eng.winReserved (index sub : Nat) (e : Eng) : Eng :=
  if e.dict.winBusy then { e with dict := { e.dict with winOverrun := true } }
  else Eng.winDone index sub (.write []) (5, [], { e with dict := { e.dict with results := lset e.dict.results 0 fun _ => 5 } })

/-- A write of the 64 bits of WIN_CMD. -/
def Eng.winCmd (rd : Nat → Byte) (v : Nat) (e : Eng) : Eng :=
  let index := fld v 0 16
  let sub := fld v 16 8
  let len := fld v 32 9
  match fld v 24 2, bit v 26 with
  | 0, false => e.winRead rd index sub
  | 1, false => e.winWrite rd index sub
  | 0, true => e.winReadSeg rd index sub len
  | 1, true => e.winWriteSeg rd index sub len (bit v 27)
  | _, _ => e.winReserved index sub

/-- A write to WIN_DATA, WIN_BUF or WIN_OFFSET while a read is in progress leaves the data of the access undefined: free values. -/
def Eng.winSpoil (e : Eng) : Eng :=
  if e.dict.winBusy ∧ e.dict.winReads then
    let k := e.free
    { e with
      free := k + 257
      dict := { e.dict with
        winData := BitVec.ofNat 64 (Config.freeNat k)
        winBuf := (List.range 256).map fun i => Config.freeByte (k + 1 + i) } }
  else e

/-- WIN_STATUS as it reads. -/
def DictSt.statusWord (d : DictSt) : Nat :=
  let v := d.winStatus.toNat
  v - v % 4 + b2n d.winBusy + 2 * b2n d.winOverrun

/-- What a read of a register of the port returns (R316, R458). -/
def Eng.portRead (e : Eng) (a : Nat) : Nat :=
  if a < 256 then e.bellRead a
  else if a = 257 then e.dict.winOffset.toNat
  else if a = 258 then e.dict.winData.toNat
  else if a = 259 then e.dict.statusWord
  else if 288 ≤ a ∧ a < 320 then leNat ((e.dict.winBuf.drop (8 * (a - 288))).take 8)
  else 0

/-- A write of a register of the port (R316, R458, R535). -/
def Eng.portWrite (rd : Nat → Byte) (a v : Nat) (e : Eng) : Eng :=
  if a < 256 then (e.wake 1).doorbell rd [] a
  else if a = 256 then e.winCmd rd v
  else if a = 257 then
    let e := e.winSpoil
    { e with dict := { e.dict with winOffset := BitVec.ofNat 64 (v % 2 ^ 32) } }
  else if a = 258 then
    let e := e.winSpoil
    { e with dict := { e.dict with winData := BitVec.ofNat 64 v } }
  else if 288 ≤ a ∧ a < 320 then
    let e := e.winSpoil
    { e with dict := { e.dict with winBuf := spliceBytes e.dict.winBuf (8 * (a - 288)) (leBytes 8 v) } }
  else e

/-- A read response of the port. -/
def Eng.portRsp (v : Nat) (err : Bool) (e : Eng) : Eng := { e with dict := { e.dict with rsp := e.dict.rsp ++ [(BitVec.ofNat 64 v, err)] } }

/-- DB_REQUEST (R504): taken while READY is 1; a request whose REQ_BE is not 0xFF is not performed. -/
def Eng.dbRequest (rd : Nat → Byte) (write : Bool) (a be v : Nat) (e : Eng) : Eng :=
  if !e.inService then e
  else
    let e := e.bump 71 1
    if be ≠ 0xFF then
      let e := e.bump 72 1
      if write then e else e.portRsp 0 true
    else if write then e.portWrite rd a v
    else e.portRsp (e.portRead a) false

/-! ### Huaset frames (R462 to R466) -/

/-- A frame with its CRC. -/
def frameWith (b : List Byte) : List Byte := b ++ (leBytes 2 (crc16 b)).reverse

/-- A frame's bytes without its CRC. -/
def frameBody (f : List Byte) : List Byte := f.take (f.length - 2)

/-- Byte `i` of a frame. -/
def fb (f : List Byte) (i : Nat) : Nat := (f.getD i 0).toNat

/-- The CRC that a frame carries. -/
def frameCrc (f : List Byte) : Nat := leNat (f.drop (f.length - 2)).reverse

/-- Whether a frame arrived whole with its CRC (R464). -/
def frameOk (f : List Byte) (cut : Bool) : Bool := !cut && decide (14 ≤ f.length) && crc16 (frameBody f) == frameCrc f

/-- The payload of a frame. -/
def framePayload (f : List Byte) : List Byte := (frameBody f).drop 12

/-- OP of a frame. -/
def frameOp (f : List Byte) : Nat := fb f 1 % 16

/-- The response to a request (R465); the reserved bits of its OP byte are zero (R5, R462). -/
def frameResponse (position result : Nat) (data : List Byte) (f : List Byte) : List Byte :=
  frameWith ([BitVec.ofNat 8 (128 + position % 64)] ++ [f.getD 1 0 &&& 0x1F, f.getD 2 0, BitVec.ofNat 8 result] ++ (f.drop 4).take 3 ++
    [BitVec.ofNat 8 data.length] ++ (f.drop 8).take 4 ++ data)

/-- The characters of a frame (R461, R462): SOF, its bytes, EOF, and IDLE behind it; ABORT in place of the CRC and EOF where `abort`
holds (R464). -/
def frameChars (f : List Byte) (abort : Bool) : List (BitVec 9) :=
  0x101 :: f.map (BitVec.setWidth 9) ++ [if abort then 0x103 else 0x102, 0x100]

/-- Data and strobe after one bit: the data signal carries it, and exactly one of the two changes (R461). -/
def strobeBit (p : Bool × Bool) (b : Bool) : Bool × Bool := (b, if p.1 == b then !p.2 else p.2)

/-- Data and strobe after some characters, each least significant bit first. -/
def strobeChars (p : Bool × Bool) (cs : List (BitVec 9)) : Bool × Bool :=
  cs.foldl (fun p c => (List.range 9).foldl (fun p i => strobeBit p (c.getLsbD i)) p) p

/-- A frame leaves on the ring. -/
def Eng.ringSend (f : List Byte) (abort : Bool) (e : Eng) : Eng :=
  let cs := frameChars f abort
  { e with ring := { e.ring with sent := e.ring.sent ++ cs, pins := strobeChars e.ring.pins cs } }

/-- A response of the engine's own leaves on the ring; while it does, arriving frames wait in the elastic buffer (R465). -/
def Eng.ringAnswer (f : List Byte) (e : Eng) : Eng :=
  let e := e.ringSend f false
  { e with ring := { e.ring with sending := true } }

/-- A frame forwarded, cut-through: whole, or ended by ABORT (R464). -/
def Eng.ringForward (ok : Bool) (f body : List Byte) (e : Eng) : Eng :=
  if ok then e.ringSend (if body = frameBody f then f else frameWith body) false else e.ringSend body true

/-- The response that the engine remembers for a request (R466). -/
def RingSt.known (r : RingSt) (f : List Byte) : Option (List Byte) :=
  (r.seen.find? fun x => x.1 == fb f 2 && x.2.1 == frameCrc f).map (·.2.2)

/-- A request and its response remembered among the last four. -/
def RingSt.remember (r : RingSt) (f rsp : List Byte) : RingSt := { r with seen := ((fb f 2, frameCrc f, rsp) :: r.seen).take 4 }

/-- A consumed request on the ring (R463, R465, R466): a repeat gets its response again, a reserved OP gets REFUSED, a broadcast that
is no WRITE does nothing; every other request waits for its access. -/
def Eng.ringConsume (f : List Byte) (bcast : Bool) (e : Eng) : Eng :=
  let e := e.bump 77 1
  match e.ring.known f with
  | some r =>
    let e := e.bump 79 1
    if bcast then e else e.ringAnswer r
  | none =>
    let op := frameOp f
    if bcast ∧ op ≠ 2 then { e with ring := e.ring.remember f [] }
    else if op = 0 ∨ 5 ≤ op then
      let r := frameResponse e.ring.position.toNat 5 [] f
      { e with ring := e.ring.remember f r }.ringAnswer r
    else { e with ring := { e.ring with queue := e.ring.queue ++ [(f, bcast)] } }

/-- HUASET_FRAME_ARRIVAL (R463, R464). -/
def Eng.ringFrame (f : List Byte) (cut : Bool) (e : Eng) : Eng :=
  let ok := frameOk f cut
  let e := if ok then e else e.bump 78 1
  let body := if ok then frameBody f else if cut then f else frameBody f
  let c := fb f 0
  if 128 ≤ c then e.ringForward ok f body
  else if 2 ≤ f.length ∧ frameOp f = 5 then
    let b := lset body 12 fun x => x + 1
    let e := if ok then { e with ring := { e.ring with position := b.getD 12 0 } } else e
    e.ringForward ok f b
  else if c / 64 % 2 = 1 then
    let e := e.ringForward ok f body
    if ok then e.ringConsume f true else e
  else if c % 64 = 1 then (if ok then e.ringConsume f false else e)
  else e.ringForward ok f (lset body 0 fun _ => BitVec.ofNat 8 ((c % 64 + 63) % 64))

/-- A frame arrives: while a response is being sent it waits in the elastic buffer of four (R465), and a fifth, which R468 rules out,
is lost. -/
def Eng.ringTake (f : List Byte) (cut : Bool) (e : Eng) : Eng :=
  if !e.ring.sending then e.ringFrame f cut
  else if e.ring.elastic.length < 4 then { e with ring := { e.ring with elastic := e.ring.elastic ++ [(f, cut)] } }
  else e

/-- The frames of the elastic buffer, treated in order up to one that the engine answers. -/
def Eng.ringDrain : List (List Byte × Bool) → Eng → Eng
  | [], e => e
  | x :: r, e => if e.ring.sending then { e with ring := { e.ring with elastic := x :: r } } else Eng.ringDrain r (e.ringFrame x.1 x.2)

/-- The response being sent has left, and the frames that waited go on (which step ends it is the model's: DESIGN CHOICE, log entry
151). -/
def Eng.ringDone (e : Eng) : Eng :=
  Eng.ringDrain e.ring.elastic { e with ring := { e.ring with sending := false, elastic := [] } }

/-- ENUM (R463): the arrival of an ENUM request. -/
def Eng.ringEnum (f : List Byte) (e : Eng) : Eng := if fb f 0 < 128 ∧ frameOp f = 5 then e.ringTake f false else e

/-- The access that a request asks for. A LEN that does not fit the payload is no length (DEDUCED, log entry 43). -/
def frameAccess (f : List Byte) : Access :=
  let d := framePayload f
  let off := leNat ((f.drop 8).take 4)
  let len := fb f 7
  let fits := d.length == len && decide (len ≤ 64)
  match frameOp f with
  | 1 => .read
  | 2 => .write (if fits then d else [])
  | 3 => .readSeg off (if len ≤ 64 then len else 0)
  | _ => .writeSeg off (if fits then d else []) (bit (fb f 1) 4)

/-- The object that a request names. -/
def frameObj (f : List Byte) : Nat × Nat := (leNat ((f.drop 4).take 2), fb f 6)

/-- A request performed through a path: its response. -/
def Eng.frameRun (rd : Nat → Byte) (p : Path) (f : List Byte) (e : Eng) : List Byte × Eng :=
  let x := frameObj f
  let (c, b, e) := e.accessBy rd p x.1 x.2 (frameAccess f)
  (frameResponse e.ring.position.toNat c b f, e)

/-- A consumed request with a given OP at the head of those that wait is performed and answered (R455, R465). -/
def Eng.ringServe (rd : Nat → Byte) (op : Nat) (e : Eng) : Eng :=
  match e.ring.queue with
  | [] => e
  | (f, bcast) :: r =>
    if frameOp f ≠ op ∨ e.ring.sending then e
    else
      let e := { e with ring := { e.ring with queue := r } }
      match e.ring.known f with
      | some rsp =>
        let e := e.bump 79 1
        if bcast then e else e.ringAnswer rsp
      | none =>
        let (rsp, e) := e.frameRun rd .ring f
        let e := { e with ring := e.ring.remember f (if bcast then [] else rsp) }
        if bcast then e else e.ringAnswer rsp

/-! ### The tunnel (R469, R490) -/

/-- A TUNNEL packet that carries a frame. -/
def Eng.tunnelPacket (dest : Nat) (f : List Byte) (e : Eng) : Packet where
  hdr := { PktHdr.ofNat 0 with
    dest := dest, src := e.link.ident, vc := 3, cls := 3, first := true, last := true, pbytes := f.length }
  data := f
  bad := []

/-- A tunnelled request consumed as a ring request, with its response. -/
def Eng.tunnelRun (rd : Nat → Byte) (f : List Byte) (e : Eng) : List Byte × Eng :=
  if !e.dict.tunnelEnable then (frameResponse e.ring.position.toNat 9 [] f, e)
  else
    let e := e.bump 80 1
    match e.ring.known f with
    | some r => (r, e.bump 79 1)
    | none =>
      let op := frameOp f
      let (r, e) := if op = 0 ∨ 5 ≤ op then (frameResponse e.ring.position.toNat 5 [] f, e) else e.frameRun rd .tunnel f
      (r, { e with ring := e.ring.remember f r })

/-- TUNNEL (R469, R486): a packet of CLASS 3 on a fabric port or a Splice link, whose response leaves where it came in (that a Splice
link serves it too is DEDUCED, log entry 152). One that carries no whole request frame is dropped. -/
def Eng.tunnel (rd : Nat → Byte) (via : Via) (e : Eng) : Eng :=
  match e.inFirst via fun p => p.hdr.cls == 3 with
  | none => e
  | some p =>
    if !e.inService then e
    else
      let e := e.inDrop via p
      if !p.bad.isEmpty || !frameOk p.data false || decide (128 ≤ fb p.data 0) then e.bump 78 (b2n (!frameOk p.data false))
      else
        let (r, e) := e.tunnelRun rd p.data
        e.sendPacket via (e.tunnelPacket p.hdr.src r)

end Sys2Proof.Machine
end

