-- ==== Sys2Proof/Machine/Power.lean ====
section
/-!
DEFINITION. Start-up, resets and power states (15): what each event keeps (R531), reset entry (R528), start-up (R524, R525), E1 to E3
(R532 to R538), presence (R470), the test access port (R510, R511), and what a cycle of ACLK does by itself.
-/

namespace Sys2Proof.Machine

/-! ### What a reset leaves (R157, R452, R531) -/

/-- Writes that wait at the ports and were never sent: their bytes have no specified contents (DESIGN CHOICE, log entry 45). -/
def Eng.unsent (e : Eng) : List Nat := e.mports.flatMap fun p => p.unsent.flatMap fun w => w.2.map (·.1)

/-- A memory port at a reset: what is outstanding is still answered (R516), nothing else is left. -/
def MemPort.bare (p : MemPort) : MemPort :=
  { MemPort.idle with rd := p.rd.map fun r => { r with ch := 256, again := 255 }, wr := p.wr.map fun w => { w with owner := .none } }

/-- R378: the packets that still wait at a fabric port of operations whose first flit has been sent: the target performs such an
operation. -/
def Eng.underWayFlits (e : Eng) (q : List Flit) : List Flit :=
  let sent := (e.remote.ops.filter fun o => !e.unsentOp o).map (·.ptag)
  dropPackets flitHead (fun h => !(h.cls == 0 && sent.contains h.ptag)) false q

/-- A fabric port at a reset: DOWN, with what R378 lets go on. -/
def Eng.bareFPort (e : Eng) (p : FPort) : FPort :=
  { FPort.reset with niReady := p.niReady, txq := [e.underWayFlits (p.txq.getD 0 []), [], [], []] }

/-- The engine with every class S, V and P object at its default and all work ended; class K objects, the ring front end, the fuses
with a burn in progress, the input pins, the replies owed, and what tells an operation from those before the reset (R378) are kept. -/
def Eng.bare (e : Eng) : Eng :=
  let d := e.freeBytes e.unsent
  { Eng.reset with
    mports := e.mports.map MemPort.bare
    ring := { e.ring with position := 0 }
    power := { PowerSt.reset with
      time := e.power.time, wake := e.power.wake, resetCount := e.power.resetCount, resetCause := e.power.resetCause
      presence := e.power.presence, fromE3 := e.power.fromE3, tdo := e.power.tdo }
    health := { HealthSt.reset with fuses := e.health.fuses, fusesUsed := e.health.fusesUsed, burning := e.health.burning }
    link := { LinkSt.reset with fports := e.link.fports.map e.bareFPort }
    remote := { RemoteSt.reset with tag := e.remote.tag }
    throttle := e.throttle, throttleNext := e.throttleNext, throttleSeen := e.throttleSeen, droop := e.droop
    wr := d.wr, free := d.free }

/-- Whether a memory port still owes a reply (R516). -/
def Eng.owesReply (e : Eng) : Bool := e.mports.any fun p => !p.rd.isEmpty || !p.wr.isEmpty

/-- Steps 1 and 2 of R528: READY falls, and nothing further is issued (R516). -/
def Eng.halt (g : Entering) (e : Eng) : Eng :=
  let e := e.freeBytes e.unsent
  { e with
    ready := false, mports := e.mports.map MemPort.bare
    power := { e.power with entry := some g, t0 := false, fromE3 := false } }

/-- Steps 4 and 5 of R528 for an engine reset; for E3 step 4, and the core and pod domains lose power (R536). -/
def Eng.arrive (g : Entering) (e : Eng) : Eng :=
  let e := e.passTime.bare
  match g with
  | .reset cause => { e with power := { e.power with resetCount := e.power.resetCount + 1, resetCause := BitVec.ofNat 8 cause } }
  | .e3 => { e with power := { e.power with estate := 3, step := 0 } }

/-- Step 3 of R528: the entry goes on once every reply owed has come and no burn is in progress. -/
def Eng.settleEntry (e : Eng) : Eng :=
  match e.power.entry with
  | none => e
  | some g => if e.owesReply ∨ e.health.burning ≠ [] then e else e.arrive g

/-- R528: an engine reset with its cause begins, and goes as far as it can at once. -/
def Eng.resetEntry (cause : Nat) (e : Eng) : Eng := (e.halt (.reset cause)).settleEntry

/-- R536: entry to E3 begins, and goes as far as it can at once. -/
def Eng.enterE3 (e : Eng) : Eng := (e.halt .e3).settleEntry

/-- What follows the dictionary access of a step (R472, R536): an engine reset, E3, or nothing. -/
def Eng.settleAfter (e : Eng) : Eng :=
  match e.power.after with
  | 0 => e
  | 1 => { e with power := { e.power with after := 0 } }.resetEntry 3
  | _ => { e with power := { e.power with after := 0 } }.enterE3

/-- POWER_ON_RESET (R530, R531): POR_N goes low; everything but the fuses and the input pins is lost, and a record being burnt counts
as used. -/
def Eng.powerOnReset (e : Eng) : Eng :=
  let b := e.bare
  { b with
    ring := RingSt.reset
    power := { PowerSt.reset with porLow := true }
    link := { b.link with fports := e.link.fports.map fun p => { FPort.reset with niReady := p.niReady } }
    remote := RemoteSt.reset
    health := { b.health with fusesUsed := e.health.fusesUsed + e.health.burning.length, burning := [] } }

/-- ERST_N_LOW (R527, R530, R537): while POR_N is low nothing; in E3 the return starts; before T0 an engine reset in progress takes
cause 2 and no other follows, and an entry to E3 in progress becomes that of an engine reset (DESIGN CHOICE, log entry 148);
otherwise an engine reset begins. No undefined case outlasts it (R7). -/
def Eng.erstLow (e : Eng) : Eng :=
  if e.power.porLow then e
  else if e.power.estate = 3 then e.leaveE3
  else if e.power.entry.isSome then { e with power := { e.power with entry := some (.reset 2) } }
  else if e.power.t0 then e.resetEntry 2
  else if e.power.resetCause = 3 ∧ !e.power.fromE3 then { e with power := { e.power with resetCause := 2 } }
  else e

/-- POR_N is high (which step ends its low level is the model's: DESIGN CHOICE, log entry 144). -/
def Eng.porHigh (e : Eng) : Eng := { e with power := { e.power with porLow := false } }

/-! ### Start-up (R524, R525) -/

/-- A fuse record applied to the pods and the Stage: spare column, spare bank, fold, retired pod. A later record of the same column or
bank supersedes an earlier one (DEDUCED, log entry 106). -/
def Eng.applyFuse (e : Eng) (r : Nat) : Eng :=
  let a := r / 65536 % 256
  let b := r / 256 % 256
  let c := r % 256
  match r / 16777216 with
  | 0 => e.updPod a fun d => { d with spares := (d.spares.filter fun x => x.2 != c) ++ [(b, c)] }
  | 1 => e.updStage fun s => { s with spareMap := nput (s.spareMap.filter fun x => x.1 / 8 != a || x.2 != c) (a * 8 + b) c }
  | 2 => e.updStage fun s => { s with folds := s.folds ++ [(a, b)] }
  | _ => e.updPod a fun d => { d with svc := .retired }

/-- A logical bank that no longer has its bank at start-up: a spare, a fold or the slice's withdrawal, with no copy (R151 to R153). -/
def Eng.bistMap (slice bank : Nat) (e : Eng) : Eng :=
  let s := e.stage
  match (List.range 8).find? fun i => (nget? s.spareMap (slice * 8 + i)).isNone && !s.spareBad.contains (slice, i) with
  | some i => (e.updStage fun s => { s with spareMap := nput s.spareMap (slice * 8 + i) bank }).logFault 0x30 1 slice bank none false
  | none =>
    if s.folds.contains (slice, bank ^^^ 64) then
      (e.updStage fun s => { s with withdrawn := slice :: s.withdrawn }).logFault 0x32 1 slice 0 none false
    else (e.updStage fun s => { s with folds := (slice, bank) :: s.folds }).logFault 0x31 1 slice bank none false

/-- A failing bank that the Stage BIST finds, of the 136 of a slice (R524 step 2). -/
def Eng.bistBank (slice bank : Nat) (e : Eng) : Eng :=
  let s := e.stage
  if 32 ≤ slice ∨ 136 ≤ bank ∨ s.withdrawn.contains slice then e
  else if 128 ≤ bank then
    let e := e.updStage fun s => { s with spareBad := (slice, bank - 128) :: s.spareBad }
    match nget? s.spareMap (slice * 8 + (bank - 128)) with
    | some b => (e.updStage fun s => { s with spareMap := ndel s.spareMap (slice * 8 + (bank - 128)) }).bistMap slice b
    | none => e
  else if (List.range 8).any (fun i => nget? s.spareMap (slice * 8 + i) == some bank) ∨ s.folds.contains (slice, bank) then e
  else e.bistMap slice bank

/-- A pod that starts up with its failing physical columns: mapped to spares, or retired (R524 step 3). -/
def Eng.bistPod (failing : List (Nat × Nat)) (e : Eng) (n : Nat) : Eng :=
  let d := e.pod n
  let bad := ((failing.filter fun x => x.1 == n && decide (x.2 < 132)).map (·.2)).eraseDups
  let new := bad.filter fun p => decide (128 ≤ p) || !(d.spares.any fun s => s.2 == p)
  if d.svc = .retired then e.updPod n fun d => { d with lpos := none }
  else
    let e := e.updPod n fun d => { d with svc := .out, lpos := none, pwrReq := true }
    if new = [] then e else if d.repairable new then e.repairPod n new else e.retirePod n

/-- R201: positions in ascending order to the pods that passed, lowest numbers first; the rest are spares in OUT. The position of a
withdrawn slice stays unserved (R153). -/
def Eng.assignPositions (e : Eng) : Eng :=
  let pos := (List.range 32).filter fun p => !e.stage.withdrawn.contains p
  let ok := (List.range 34).filter fun n => (e.pod n).svc == .out
  (ok.zip pos).foldl (fun e x => e.updPod x.1 fun d => { d with svc := .inService, lpos := some x.2 }) e

/-- R443: EX_PODS or EX_BANKS set, with fault code 0x50: one entry for the unserved positions, one for each fold. -/
def Eng.setExhausted (pods banks : Bool) (e : Eng) : Eng :=
  let p := pods && !e.health.exPods
  let b := banks && !e.health.exBanks
  let e := e.updHealth fun h => { h with exPods := h.exPods || pods, exBanks := h.exBanks || banks }
  let e := if p then e.logFault 0x50 0 0 0 none false else e
  if b then e.stage.folds.foldl (fun e f => e.logFault 0x50 1 f.1 0 none false) e else e

/-- Step 4 of R524: enabled links train, and fabric ports whose NI_READY is 1 send their CAPS. -/
def Eng.startPorts (b : Bist) (e : Eng) : Eng :=
  let sl := e.link.slinks.zipIdx.map fun l => { l.1 with enabled := b.spliceEn.getLsbD l.2, st := b2n (b.spliceEn.getLsbD l.2) }
  let fp := e.link.fports.zipIdx.map fun p => { p.1 with niReady := p.1.niReady || b.niReady.getLsbD p.2 }
  let e := { e with link := { e.link with slinks := sl, fports := fp } }
  (List.range 4).foldl (fun e j => if (e.link.fports[j]?).any (·.niReady) then e.capsFabric j else e) e

/-- Replies that will never come are waited for no more (R7): what the writes among them held is not known. -/
def Eng.forgo (e : Eng) : Eng :=
  let e := e.freeBytes (e.mports.flatMap fun p => p.wr.flatMap (·.addrs))
  { e with mports := e.mports.map fun p => { p with rd := [], wr := [] } }

/-- The steps of R524 from T0 on: the straps (R509), the fuses, the banks, the pods, their positions (R201) and the ports. -/
def Eng.boot (b : Bist) (e : Eng) : Eng :=
  let back := e.power.fromE3
  let e := e.porHigh
  let e := { e with
    chkgen := b.chkgen
    power := { e.power with
      t0 := true, step := 4, fromE3 := false, spliceEn := b.spliceEn
      resetCount := if back then e.power.resetCount + 1 else e.power.resetCount
      resetCause := if back then 4 else e.power.resetCause } }
  let e := e.health.fuses.foldl (fun e r => e.applyFuse r) e
  let e := b.banks.foldl (fun e x => e.bistBank x.1 x.2) e
  let e := (List.range 34).foldl (fun e n => e.bistPod b.columns n) e
  ((e.assignPositions).setExhausted false (!e.stage.folds.isEmpty)).startPorts b

/-- START_UP (R524): at T0, once every reply owed has come, or will never come (R7), and no burn is in progress; entry steps that
waited for those replies are made first. -/
def Eng.startUp (b : Bist) (e : Eng) : Eng :=
  if e.power.estate = 3 ∨ e.power.t0 ∨ e.health.burning ≠ [] ∨ (e.owesReply ∧ !b.forgone) then e
  else
    let e := (if e.owesReply then e.forgo else e).settleEntry
    if e.power.estate = 3 then e else e.boot b

/-- READY_RISE (R515, R524, R525): once every enabled link is UP, MISMATCH or FAILED. -/
def Eng.readyRise (e : Eng) : Eng :=
  let settled := e.link.slinks.all fun l => !l.enabled || l.st == 3 || l.st == 5 || l.st == 6
  if e.power.t0 ∧ e.power.estate ≠ 3 ∧ !e.ready ∧ settled then
    { e with ready := true, power := { e.power with step := 0 } }.setExhausted (!e.vacant.isEmpty) false
  else e

/-! ### Power states (R532 to R537) -/

/-- R532: whether the engine is idle. A reel boundary on interval and the start of a periodic test may stay armed. -/
def Eng.idle (e : Eng) : Bool :=
  e.chan.cmds.isEmpty && e.remote.ops.isEmpty && e.remote.fired.isEmpty && e.remote.tgts.isEmpty &&
    !(e.link.inbox.any fun x => x.pkt.hdr.cls == 0) && !e.collBusy && e.remote.winBusy.isNone &&
    !(e.pods.any fun d => d.svc == .screenTest || d.task == .loading) && e.health.burning.isEmpty && !e.health.updBusy &&
    e.stage.copies.isEmpty && e.place.trans.isEmpty && (e.health.screenArmed.all fun a => e.health.screenTurn == some a.1 && e.turnPending)

/-- IDLE_ENTRY (R533): the step says that IDLE_DELAY has passed. In E2 the pods lose power. -/
def Eng.idleEntry (e : Eng) : Eng :=
  let s := e.power.idleState.toNat
  if e.runs ∧ (s = 1 ∨ s = 2) ∧ e.idle then
    let e := e.passTime
    { e with
      power := { e.power with estate := s }
      pods := if s = 2 then e.pods.map fun d => { d with pwrReq := false } else e.pods }
  else e

/-! ### Presence and the test access port -/

/-- PRESENCE_ASSERT (R470). -/
def Eng.presenceOn (e : Eng) : Eng := { e with power := { e.power with presence := true } }

/-- PRESENCE_DEASSERT (R470). -/
def Eng.presenceOff (e : Eng) : Eng :=
  { e with power := { e.power with presence := false }, dict := { e.dict with debugUnlock := false } }

/-- IDCODE (R510). -/
def idcode : BitVec 32 := Config.siliconRev.extractLsb' 0 4 ++ (0x4B04 : BitVec 16) ++ Config.manufacturer ++ (1 : BitVec 1)

/-- Words shifted out of the test access port. -/
def Eng.shiftOut (vs : List (BitVec 64)) (e : Eng) : Eng := { e with power := { e.power with tdo := e.power.tdo ++ vs } }

/-- A value that the physical world gives an instrument: a free value. -/
def Eng.measure (n : Nat) (e : Eng) : Eng :=
  let (k, e) := e.fresh
  e.shiftOut [Config.instrument n k]

/-- Whether the scan chains of a pod are reachable: it is in OUT or RETIRED, under DEBUG_UNLOCK. -/
def Eng.scans (e : Eng) (n : Nat) : Bool := e.dict.debugUnlock && decide (n < 34) && ((e.pod n).svc == .out || (e.pod n).svc == .retired)

/-- TEST_ACCESS_PORT (R510, R511): what is shifted out, of the instruments that are reachable. How the instruments lay out what they
give is the model's (DESIGN CHOICE, log entry 124). -/
def Eng.tap (op : TapOp) (e : Eng) : Eng :=
  match op with
  | .idcode => e.shiftOut [idcode.setWidth 64]
  | .bypass b => e.shiftOut [if b then 1 else 0]
  | .sensor n => e.measure n
  | .pllLock => e.measure 65536
  | .fuse i => e.shiftOut [BitVec.ofNat 64 (e.health.fuses.getD i 0)]
  | .bistPod n => e.shiftOut [BitVec.ofNat 64 (e.objNat 0x3020 (n + 1) + b2n ((e.pod n).svc == .retired) * 2 ^ 32)]
  | .bistSlice n => e.shiftOut [BitVec.ofNat 64 (e.objNat 0x3410 (n + 1)), BitVec.ofNat 64 (e.stage.sliceState n)]
  | .scan n v =>
    if e.scans n then
      let e := e.measure (65537 + n)
      match v with
      | some w => e.updPod n fun d => { d with scan := w }
      | none => e
    else e
  | .sector slice bank slot =>
    if e.dict.debugUnlock ∧ slice < 32 ∧ bank < 136 ∧ slot < 2048 then
      let b := if bank < 128 then e.sectorImage slice bank slot else
        ((nget? e.stage.spareMap (slice * 8 + (bank - 128))).map fun b => e.sectorImage slice b slot).getD sectorClear
      e.shiftOut ((List.range 6).map fun i => BitVec.ofNat 64 (leNat ((b.drop (8 * i)).take 8)))
    else e
  | .observe on => if e.dict.debugUnlock then { e with power := { e.power with observe := on } } else e

/-! ### A cycle by itself -/

/-- Whether a gang's row 0 falls due in this cycle: C0 has come, no member holds it back (R80), and the issue mask is open. -/
def Eng.gangDue (e : Eng) (q : Nat) : Bool :=
  (e.gang q).formed && (e.gang q).c0.any (fun c => decide (c ≤ e.cue)) && (e.gang q).holds.isEmpty && e.slotOpen &&
    !(e.gangSteps q).isEmpty

/-- Whether a cue-launched action falls due in this cycle (R222). -/
def Eng.dueNow (e : Eng) : Bool :=
  (e.place.trans.any fun t => t.cue == e.cue) || (e.health.screenArmed.any fun a => a.2 == e.cue) || e.health.reelDue == some e.cue ||
    (List.range 8).any e.gangDue

/-- The streams that may hold updates. -/
def Eng.streams (e : Eng) : List Stream := e.stage.links.map (·.1) ++ e.stage.xlinks.map (·.1)

/-- A drain that waits for a write credit: it has output and its port's queue is full (R481). -/
def Eng.drainWaits (e : Eng) (u : DrainUnit) : Bool :=
  match u.out.head? with
  | some l => !e.outputRoom l
  | none => false

/-- The stall counters of one cycle. -/
def Eng.countStalls (e : Eng) : Eng :=
  let e := e.bump 7 (e.drain.units.countP e.drainWaits)
  let e := e.bump 8 (e.drain.ports.zipIdx.countP fun p => p.1.credits == 0 && (List.range 4).any fun i =>
    (e.drain.units[4 * p.2 + i]?).any fun u => !u.hand.isEmpty)
  let e := e.bump 16 (b2n (e.streams.any fun s => e.stalls s))
  let e := e.bump 55 (e.mports.countP fun p => (!p.rq.isEmpty && p.rdCred == 0) || (!p.wq.isEmpty && p.wrCred == 0))
  let waits := fun (p : FPort) (v : Nat) => !(p.txq.getD v []).isEmpty
  let e := e.bump 60 (e.link.fports.countP fun p => p.st == 2 && (List.range 4).any fun v => waits p v && p.credits.getD v 0 == 0)
  let e := e.bump 61 (e.link.fports.countP fun p => p.st == 2 && waits p 2 && decide (0 < p.credits.getD 2 0) &&
    decide (e.link.weight 2 ≤ p.arb.recent.count 2))
  (e.bump 74 (b2n e.droop)).bump 75 (b2n (e.throttle != 0))

/-- A flit time on every port: on a fabric port without a flit (R405), on a Splice link that carries flits with an IDLE flit where no
DATA flit may be sent (R499); and what may be sent after it. -/
def Eng.idleFlits (e : Eng) : Eng :=
  let e := (List.range e.link.fports.length).foldl (fun e j => e.updFPort j fun p => { p with arb := p.arb.note 4 }) e
  (List.range e.link.slinks.length).foldl (fun e n =>
    if (e.link.slinks[n]?).any (fun l => l.st == 2 || l.st == 3) then e.spliceReply n
    else e.updSLink n fun l => { l with arb := l.arb.note 4 }) e

/-- The cue advances by one (R221); a throttle level that waits takes effect at a multiple of 8 (R540). -/
def Eng.advance (e : Eng) : Eng :=
  let c := e.cue + 1
  match e.throttleNext with
  | some t => if c % 8 = 0 then { e with cue := c, throttle := t, throttleNext := none } else { e with cue := c }
  | none => { e with cue := c }

/-- What the block does with no command: POR_N is high, window accesses end (R460), a response on the ring ends, ports have a flit
time, and in E0 one cycle of ACLK passes; what waits for a flit to leave goes on. A cycle in which a cue-launched action falls due
does not pass before the action, and ACLK's domain does nothing after an undefined case (log entry 51). -/
def Eng.tick (rd : Nat → Byte) (e : Eng) : Eng :=
  let e := { e with dict := { e.dict with winBusy := false, winReads := false } }.porHigh.ringDone
  if !e.coreOn then e
  else
    let e := e.idleFlits
    if e.power.estate != 0 || e.lost then e
    else (if e.dueNow then e else (e.countStalls).advance).afterSend rd

end Sys2Proof.Machine
end

