-- ==== Sys2Proof/Machine/Run.lean ====
section
/-!
DEFINITION. How a command acts on the state: its writes are committed to memory, an event that cannot occur in a state leaves the
state as it is (DESIGN CHOICE, log entry 9), reads that the memory ports cannot make yet hold a command back (R476, R479), and what
follows a dictionary access happens at the end of its step.
-/

namespace Sys2Proof.Machine

/-- The state after a step whose effect on the engine is `e`: its writes are made in memory, at addresses of 64 bits (R474). -/
def State.commit (s : State) (e : Eng) : State :=
  { s with mem := Memory.apply s.mem (wrapWrites e.wr), e := { e with wr := [], took := [] } }

/-- The byte that the chip's memory presents at an address (R474, DEDUCED, log entry 47). -/
def State.rd (s : State) (a : Nat) : Byte := Memory.get s.mem (a % 2 ^ 64)

/-- An effect on the engine, given the memory. -/
def State.run (s : State) (f : (Nat → Byte) → Eng → Eng) : Host.Outcome State Fault Refusal := .next (s.commit (f s.rd s.e))

/-- The effect `e` of a step that reads memory: while the ports cannot make its reads (R476, R479) the command waits, and nothing
changes. -/
def State.held (s : State) (e : Eng) : Host.Outcome State Fault Refusal :=
  .next (if s.e.holdsBack (e.took.drop s.e.took.length) then s else s.commit e)

/-- An effect that reads memory, given what the reads of the step meet (R482, R483). -/
def State.runUnits (s : State) (us : List UnitRead) (f : (Nat → Byte) → List BadUnit → Eng → Eng) : Host.Outcome State Fault Refusal :=
  s.held (f (received s.e.chkgen us s.rd) (fates s.e.chkgen us) s.e)

/-- Whether the events of the ACLK domain occur: in service in E0, while no undefined case has left it stuck (log entry 51). -/
def Eng.aclkOn (e : Eng) : Bool := e.runs && !e.lost

/-- An event of the ACLK domain. -/
def State.runAclk (s : State) (f : (Nat → Byte) → Eng → Eng) : Host.Outcome State Fault Refusal :=
  if s.e.aclkOn then s.run f else .next s

/-- An event of the ACLK domain that reads memory. -/
def State.runReads (s : State) (us : List UnitRead) (f : (Nat → Byte) → List BadUnit → Eng → Eng) : Host.Outcome State Fault Refusal :=
  if s.e.aclkOn then s.runUnits us f else .next s

/-- An event that occurs in service, in E0, E1 or E2. -/
def State.runService (s : State) (f : (Nat → Byte) → Eng → Eng) : Host.Outcome State Fault Refusal :=
  if s.e.inService then s.run f else .next s

/-- A reply of a memory port; one that no outstanding request has is an undefined case (14, Undefined cases) in service, and is
nothing to an engine in reset, which no undefined case holds up (R7). -/
def State.runReply (s : State) (f : (Nat → Byte) → Eng → Option Eng) : Host.Outcome State Fault Refusal :=
  s.run fun rd e => ((f rd e).map Eng.settleEntry).getD { e with lost := e.lost || e.ready }

/-- An access of the dictionary, and what follows it. -/
def State.runDict (s : State) (f : (Nat → Byte) → Eng → Eng) : Host.Outcome State Fault Refusal := s.held (f s.rd s.e).settleAfter

/-- A dictionary write that has an event of its own: the scalar write of an object through a path, and what follows it. -/
def State.runWrite (s : State) (p : Path) (index sub : Nat) (v : List Byte) : Host.Outcome State Fault Refusal :=
  s.runDict fun rd e => e.writeBy rd p index sub v

end Sys2Proof.Machine
end

