-- ==== Sys2Proof/Machine/ExecArray.lean ====
section
/-!
DEFINITION. Placement and the pods (02, 03, 06, 07): runs, gangs, operand lines, loads, rows, partials, lane batches, and pods that change state.
-/

namespace Sys2Proof.Machine

/-- RUN_DRAW (R209). -/
def execRunDraw (u : Taker) (s : State) : Host.Outcome State Fault Refusal :=
  s.runAclk fun rd e => e.runDraw rd u

/-- GANG_FORM (R203). -/
def execGangForm (q : Nat) (s : State) : Host.Outcome State Fault Refusal :=
  s.runAclk fun _ e => e.gangForm q

/-- PROGRAM_FETCH (R184). -/
def execProgramFetch (pod ch seq bucket : Nat) (bad : List UnitRead) (s : State) : Host.Outcome State Fault Refusal :=
  s.runReads bad fun _ bad e => e.programFetch pod ch seq bucket bad

/-- OPERAND_FILL (R219, R425); a buffered unit that cannot be read is refilled (R427). -/
def execOperandFill (pos run : Nat) (t : Tensor) (line : Nat) (units : List Nat) (reads : FillReads) (s : State) :
    Host.Outcome State Fault Refusal :=
  s.runReads [] fun rd _ e => e.operandFillF rd pos run t line (units.zip reads.upsets) reads.moved

/-- B_LOAD_ROW (R72). -/
def execBLoadRow (pod ctx kstep row : Nat) (s : State) : Host.Outcome State Fault Refusal :=
  s.runAclk fun _ e => e.bLoadRow pod ctx kstep row

/-- GANG_ROW_ALIGNMENT (R79). -/
def execGangRowAlignment (q ctx kstep : Nat) (s : State) : Host.Outcome State Fault Refusal :=
  s.runAclk fun rd e => e.gangRowAlignment rd q ctx kstep

/-- A_ROW_ISSUE (R68). -/
def execARowIssue (pod ctx kstep : Nat) (s : State) : Host.Outcome State Fault Refusal :=
  s.runAclk fun rd e => e.aRowIssue rd pod ctx kstep

/-- COLUMN_SWAP (R73). -/
def execColumnSwap (pod col : Nat) (s : State) : Host.Outcome State Fault Refusal :=
  s.runAclk fun _ e => e.columnSwap pod col

/-- GANG_HOLD (R80). -/
def execGangHold (q member : Nat) (s : State) : Host.Outcome State Fault Refusal :=
  s.runAclk fun _ e => e.gangHold q member

/-- GANG_RESUME (R80). -/
def execGangResume (q : Nat) (s : State) : Host.Outcome State Fault Refusal :=
  s.runAclk fun _ e => e.gangResume q

/-- PARTIAL_EMIT (R71); a residue fault is a pod fault (R428). -/
def execPartialEmit (pod col : Nat) (fault : Bool) (s : State) : Host.Outcome State Fault Refusal :=
  s.runAclk fun _ e => e.partialEmitF pod col fault

/-- GANG_COMBINE (R79). -/
def execGangCombine (q col : Nat) (add : CombineAdd) (s : State) : Host.Outcome State Fault Refusal :=
  s.runAclk fun _ e => e.gangCombineF q col add

/-- LANE_BATCH_ISSUE (R249). -/
def execLaneBatchIssue (pod ctx : Nat) (b : BatchIssue) (s : State) : Host.Outcome State Fault Refusal :=
  s.runReads b.bad fun rd bad e => e.laneBatchIssue rd pod ctx b.batch bad

/-- LANE_PAIR_STEP (R252); a residue fault is a pod fault (R428). -/
def execLanePairStep (pod lane : Nat) (fault : Bool) (s : State) : Host.Outcome State Fault Refusal :=
  s.runAclk fun rd e => e.lanePairStepF rd pod lane fault

/-- POD_FAULT (R428). -/
def execPodFault (pod : Nat) (cause : PodCause) (col : Nat) (s : State) : Host.Outcome State Fault Refusal :=
  s.runAclk fun _ e => e.podFault pod cause col

/-- SERVICE_TRANSITION (R226). -/
def execServiceTransition (pod : Nat) (s : State) : Host.Outcome State Fault Refusal :=
  s.runAclk fun _ e => e.serviceTransition pod

/-- POD_ROTATION_REQUEST (R224). -/
def execPodRotationRequest (pod : Nat) (why : RotateFor) (s : State) : Host.Outcome State Fault Refusal :=
  s.runAclk fun _ e => e.podRotation pod why

/-- TILE_REPLAY (R431); a parity error of the context asks for it (R427). -/
def execTileReplay (ctx : Nat) (parity : Bool) (s : State) : Host.Outcome State Fault Refusal :=
  s.runAclk fun _ e => e.tileReplayF ctx parity

/-- ZERO_SWEEP (R150). -/
def execZeroSweep (ctx : Nat) (s : State) : Host.Outcome State Fault Refusal :=
  s.runAclk fun _ e => e.sweepStep ctx

end Sys2Proof.Machine
end

