-- ==== Sys2Proof/Machine/ExecCommands.lean ====
section
/-!
DEFINITION. Channels and commands (09, 05, 07): doorbells, fetches, the start of every command of a channel, and its completion.
-/

namespace Sys2Proof.Machine

/-- DOORBELL (R316, R504, R535): a request taken on the doorbell/window port. -/
def execDoorbell (ch : Nat) (bad : List UnitRead) (s : State) : Host.Outcome State Fault Refusal :=
  if s.e.inService then s.runUnits bad fun rd bad e => if ch < 256 then ((e.bump 71 1).wake 1).doorbell rd bad ch else e
  else .next s

/-- HELD_DOORBELL_SERVED (R314). -/
def execHeldDoorbellServed (ch : Nat) (bad : List UnitRead) (s : State) : Host.Outcome State Fault Refusal :=
  s.runReads bad fun rd bad e => e.heldBell rd bad ch

/-- COMMAND_FETCH (R317, R320). -/
def execCommandFetch (ch : Nat) (bad : List UnitRead) (s : State) : Host.Outcome State Fault Refusal :=
  s.runReads bad fun rd bad e => e.fetch rd bad ch

/-- GEMM (R158), also through the legacy translation (R344). -/
def execGemm (ch seq : Nat) (bad : List UnitRead) (s : State) : Host.Outcome State Fault Refusal :=
  s.runReads bad fun rd bad e => e.startGemm rd .gemm 0x01 ch seq bad

/-- GEMM_SPARSE (R230). -/
def execGemmSparse (ch seq : Nat) (bad : List UnitRead) (s : State) : Host.Outcome State Fault Refusal :=
  s.runReads bad fun rd bad e => e.startGemm rd .sparse 0x02 ch seq bad

/-- TAKE_GEMM (R111). -/
def execTakeGemm (ch seq : Nat) (bad : List UnitRead) (s : State) : Host.Outcome State Fault Refusal :=
  s.runReads bad fun rd bad e => e.startGemm rd .take 0x03 ch seq bad

/-- COMPRESS (R269 to R274). -/
def execCompress (ch seq : Nat) (bad : List UnitRead) (s : State) : Host.Outcome State Fault Refusal :=
  s.runReads bad fun rd bad e => e.compress rd ch seq bad

/-- COPY (R323, R367). -/
def execCopy (ch seq : Nat) (r : CopyReads) (s : State) : Host.Outcome State Fault Refusal :=
  s.runReads r.bad fun rd bad e => e.copyF rd ch seq bad r.reads

/-- PUT (R354). -/
def execPut (ch seq : Nat) (bad : List UnitRead) (s : State) : Host.Outcome State Fault Refusal :=
  s.runReads bad fun rd bad e => e.startRemote rd 0x10 ch seq bad

/-- GET (R354). -/
def execGet (ch seq : Nat) (s : State) : Host.Outcome State Fault Refusal :=
  s.runAclk fun rd e => e.startRemote rd 0x11 ch seq []

/-- ADDX (R354). -/
def execAddx (ch seq : Nat) (bad : List UnitRead) (s : State) : Host.Outcome State Fault Refusal :=
  s.runReads bad fun rd bad e => e.startRemote rd 0x12 ch seq bad

/-- FADD (R354). -/
def execFadd (ch seq : Nat) (s : State) : Host.Outcome State Fault Refusal :=
  s.runAclk fun rd e => e.startRemote rd 0x13 ch seq []

/-- SIGNAL (R354). -/
def execSignal (ch seq : Nat) (s : State) : Host.Outcome State Fault Refusal :=
  s.runAclk fun rd e => e.startRemote rd 0x14 ch seq []

/-- TRIGGER_LOAD (R324). -/
def execTriggerLoad (ch seq : Nat) (bad : List UnitRead) (s : State) : Host.Outcome State Fault Refusal :=
  s.runReads bad fun rd bad e => e.triggerLoad rd ch seq bad

/-- FENCE (R327). -/
def execFence (ch : Nat) (c : Completing) (s : State) : Host.Outcome State Fault Refusal :=
  s.runReads c.bad fun rd bad e => e.fence rd ch c.seq bad

/-- WAIT (R328). -/
def execWait (ch : Nat) (c : Completing) (s : State) : Host.Outcome State Fault Refusal :=
  s.runReads c.bad fun rd bad e => e.wait rd ch c.seq bad

/-- REEL_MARK (R329). -/
def execReelMark (ch : Nat) (c : Completing) (s : State) : Host.Outcome State Fault Refusal :=
  s.runReads c.bad fun rd bad e => e.reelMark rd ch c.seq bad

/-- NOP (R325). -/
def execNop (ch : Nat) (c : Completing) (s : State) : Host.Outcome State Fault Refusal :=
  s.runReads c.bad fun rd bad e => e.nop rd ch c.seq bad

/-- CHAIN_CONTEXT_LOAD (R296). -/
def execChainContextLoad (ch seq : Nat) (bad : List UnitRead) (s : State) : Host.Outcome State Fault Refusal :=
  s.runReads bad fun rd bad e => e.chainContext rd ch seq bad

/-- SLATE_OPEN (R208). -/
def execSlateOpen (ch seq : Nat) (s : State) : Host.Outcome State Fault Refusal :=
  s.runAclk fun _ e => e.slateOpen ch seq

/-- COMMAND_COMPLETE (R220, R330). -/
def execCommandComplete (ch seq : Nat) (bad : List UnitRead) (s : State) : Host.Outcome State Fault Refusal :=
  s.runReads bad fun rd bad e => e.commandComplete rd ch seq bad

end Sys2Proof.Machine
end

