-- ==== Sys2Proof/Machine/ExecDict.lean ====
section
/-!
DEFINITION. The dictionary (13): the window, the ring, and the dictionary writes that are events of their own.
-/

namespace Sys2Proof.Machine

/-- DB_REQUEST (R504). -/
def execDbRequest (write : Bool) (addr : BitVec 9) (be : BitVec 8) (data : BitVec 64) (s : State) : Host.Outcome State Fault Refusal :=
  s.runDict fun rd e => e.dbRequest rd write addr.toNat be.toNat data.toNat

/-- WIN_READ (R459). -/
def execWinRead (index : BitVec 16) (sub : BitVec 8) (s : State) : Host.Outcome State Fault Refusal :=
  s.runService fun rd e => (e.bump 71 1).winRead rd index.toNat sub.toNat

/-- WIN_WRITE (R459). -/
def execWinWrite (index : BitVec 16) (sub : BitVec 8) (s : State) : Host.Outcome State Fault Refusal :=
  if s.e.inService then s.runDict fun rd e => (e.bump 71 1).winWrite rd index.toNat sub.toNat else .next s

/-- WIN_READ_SEG (R457). -/
def execWinReadSeg (index : BitVec 16) (sub : BitVec 8) (len : BitVec 9) (s : State) : Host.Outcome State Fault Refusal :=
  s.runService fun rd e => (e.bump 71 1).winReadSeg rd index.toNat sub.toNat len.toNat

/-- WIN_WRITE_SEG (R457). -/
def execWinWriteSeg (index : BitVec 16) (sub : BitVec 8) (len : BitVec 9) (last : Bool) (s : State) : Host.Outcome State Fault Refusal :=
  if s.e.inService then s.runDict fun rd e => (e.bump 71 1).winWriteSeg rd index.toNat sub.toNat len.toNat last else .next s

/-- HUASET_FRAME_ARRIVAL (R463). -/
def execHuasetFrameArrival (frame : List Byte) (cut : Bool) (s : State) : Host.Outcome State Fault Refusal :=
  s.run fun _ e => e.ringTake frame cut

/-- HUASET_READ (R465). -/
def execHuasetRead (s : State) : Host.Outcome State Fault Refusal :=
  s.run fun rd e => e.ringServe rd 1

/-- HUASET_WRITE (R465). -/
def execHuasetWrite (s : State) : Host.Outcome State Fault Refusal :=
  s.runDict fun rd e => e.ringServe rd 2

/-- HUASET_READ_SEG (R457). -/
def execHuasetReadSeg (s : State) : Host.Outcome State Fault Refusal :=
  s.run fun rd e => e.ringServe rd 3

/-- HUASET_WRITE_SEG (R457). -/
def execHuasetWriteSeg (s : State) : Host.Outcome State Fault Refusal :=
  s.runDict fun rd e => e.ringServe rd 4

/-- ENUM (R463). -/
def execEnum (frame : List Byte) (s : State) : Host.Outcome State Fault Refusal :=
  s.run fun _ e => e.ringEnum frame

/-- ACC_WINDOW_OPEN (R364): object 0x6010.01. -/
def execAccWindowOpen (p : Path) (w : BitVec 16) (s : State) : Host.Outcome State Fault Refusal :=
  s.runWrite p 0x6010 1 (leBytes 2 w.toNat)

/-- ACC_WINDOW_CLOSE (R366): object 0x6010.02. -/
def execAccWindowClose (p : Path) (w : BitVec 16) (s : State) : Host.Outcome State Fault Refusal :=
  s.runWrite p 0x6010 2 (leBytes 2 w.toNat)

/-- COLL_ABORT (R408): object 0x6050.05. -/
def execCollAbort (p : Path) (num : BitVec 16) (s : State) : Host.Outcome State Fault Refusal :=
  s.runWrite p 0x6050 5 (leBytes 2 num.toNat)

/-- COLL_END_LOCAL (R412): object 0x6050.06. -/
def execCollEndLocal (p : Path) (num : BitVec 16) (s : State) : Host.Outcome State Fault Refusal :=
  s.runWrite p 0x6050 6 (leBytes 2 num.toNat)

/-- SL_RETRAIN (R495): object 0x9022. -/
def execSlRetrain (p : Path) (link : Nat) (v : BitVec 8) (s : State) : Host.Outcome State Fault Refusal :=
  s.runWrite p 0x9022 (link + 1) (leBytes 1 v.toNat)

/-- CHANNEL_RESET (R345): object 0x2210.01. -/
def execChannelReset (p : Path) (v : BitVec 16) (s : State) : Host.Outcome State Fault Refusal :=
  s.runWrite p 0x2210 1 (leBytes 2 v.toNat)

/-- ENGINE_RESET (R472): object 0x2000.03. -/
def execEngineReset (p : Path) (v : BitVec 16) (s : State) : Host.Outcome State Fault Refusal :=
  s.runWrite p 0x2000 3 (leBytes 2 v.toNat)

/-- POD_RESET (R473): object 0x3050.01. -/
def execPodReset (p : Path) (v : BitVec 8) (s : State) : Host.Outcome State Fault Refusal :=
  s.runWrite p 0x3050 1 (leBytes 1 v.toNat)

/-- SCREEN_NOW (R439): object 0x8020.05. -/
def execScreenNow (p : Path) (v : BitVec 8) (s : State) : Host.Outcome State Fault Refusal :=
  s.runWrite p 0x8020 5 (leBytes 1 v.toNat)

/-- SPARES_EXHAUSTED_ACK (R443): object 0x8040.02. -/
def execSparesExhaustedAck (p : Path) (v : BitVec 8) (s : State) : Host.Outcome State Fault Refusal :=
  s.runWrite p 0x8040 2 (leBytes 1 v.toNat)

/-- REPAIR_COMMIT (R444, R508): object 0x8050.01, with VFUSE_OK as it is at the write. -/
def execRepairCommit (p : Path) (v : BitVec 8) (vfuse : Bool) (s : State) : Host.Outcome State Fault Refusal :=
  s.runDict fun rd e => (e.updHealth fun h => { h with vfuse := vfuse }).writeBy rd p 0x8050 1 (leBytes 1 v.toNat)

/-- BUILTIN_UPDATE (R445): object 0x8060.04. -/
def execBuiltinUpdate (p : Path) (v : BitVec 8) (s : State) : Host.Outcome State Fault Refusal :=
  s.runWrite p 0x8060 4 (leBytes 1 v.toNat)

/-- DICT_IMAGE write (R471): the LAST segment, at `offset`, of object 0x2F00.01. -/
def execDictImageWrite (p : Path) (offset : Nat) (seg : List Byte) (s : State) : Host.Outcome State Fault Refusal :=
  s.runDict fun rd e => (e.accessBy rd p 0x2F00 1 (.writeSeg offset seg true)).2.2

/-- ACT_TABLE write (R288): the LAST segment, at `offset`, of object 0x2620. -/
def execActTableWrite (p : Path) (slot offset : Nat) (seg : List Byte) (s : State) : Host.Outcome State Fault Refusal :=
  s.runDict fun rd e => (e.accessBy rd p 0x2620 (slot + 1) (.writeSeg offset seg true)).2.2

/-- STAGING_BYTES write (R124): object 0x3400.02. -/
def execStagingBytesWrite (p : Path) (v : BitVec 32) (s : State) : Host.Outcome State Fault Refusal :=
  s.runWrite p 0x3400 2 (leBytes 4 v.toNat)

/-- IRQ_PENDING write (R336): object 0x2220. -/
def execIrqPendingWrite (p : Path) (sub : Nat) (v : BitVec 64) (s : State) : Host.Outcome State Fault Refusal :=
  s.runWrite p 0x2220 sub (leBytes 8 v.toNat)

/-- PLACE_POS_MASK write (R206): object 0x2400.02. -/
def execPlacePosMaskWrite (p : Path) (v : BitVec 32) (s : State) : Host.Outcome State Fault Refusal :=
  s.runWrite p 0x2400 2 (leBytes 4 v.toNat)

/-- ENGINE_ID write (R351): object 0x6000.03. -/
def execEngineIdWrite (p : Path) (v : BitVec 32) (s : State) : Host.Outcome State Fault Refusal :=
  s.runWrite p 0x6000 3 (leBytes 4 v.toNat)

/-- GROUP_TABLE_BASE write (R387): object 0x6040.01. -/
def execGroupTableBaseWrite (p : Path) (v : BitVec 64) (s : State) : Host.Outcome State Fault Refusal :=
  s.runWrite p 0x6040 1 (leBytes 8 v.toNat)

/-- A write of any other object (R454). -/
def execObjectWrite (p : Path) (index : BitVec 16) (sub : BitVec 8) (bytes : List Byte) (s : State) : Host.Outcome State Fault Refusal :=
  s.runWrite p index.toNat sub.toNat bytes

/-- E3_ENTER (R536): object 0x2010.04. -/
def execE3Enter (p : Path) (v : BitVec 16) (s : State) : Host.Outcome State Fault Refusal :=
  s.runWrite p 0x2010 4 (leBytes 2 v.toNat)

/-- E3_EXIT (R537): object 0x2010.05. -/
def execE3Exit (p : Path) (v : BitVec 16) (s : State) : Host.Outcome State Fault Refusal :=
  s.runWrite p 0x2010 5 (leBytes 2 v.toNat)

end Sys2Proof.Machine
end

