-- ==== Sys2Proof/Machine/ExecHealth.lean ====
section
/-!
DEFINITION. Health and repair (12): screen tests, reels, pods under reset, fuses, the built-in programs, droop, throttle and the power port.
-/

namespace Sys2Proof.Machine

/-- SCREEN_SPACING_EXPIRY (R439). -/
def execScreenSpacingExpiry (s : State) : Host.Outcome State Fault Refusal :=
  s.runAclk fun _ e => e.screenSpacing

/-- SCREEN_TEST_START (R438). -/
def execScreenTestStart (pod : Nat) (s : State) : Host.Outcome State Fault Refusal :=
  s.runAclk fun _ e => e.screenStart pod

/-- SCREEN_TEST_END (R441). -/
def execScreenTestEnd (pod : Nat) (failing : List Nat) (s : State) : Host.Outcome State Fault Refusal :=
  s.runAclk fun _ e => e.screenEnd pod failing

/-- REEL_BOUNDARY_INTERVAL (R447). -/
def execReelBoundaryInterval (s : State) : Host.Outcome State Fault Refusal :=
  s.runAclk fun _ e => e.reelInterval

/-- POD_BIST_DONE (R529). -/
def execPodBistDone (pod : Nat) (failing : List Nat) (s : State) : Host.Outcome State Fault Refusal :=
  s.runAclk fun _ e => e.podBistDone pod failing

/-- FUSE_BURN_COMPLETE (R444). -/
def execFuseBurnComplete (ok : Bool) (s : State) : Host.Outcome State Fault Refusal :=
  s.run fun _ e => (e.burnComplete ok).settleEntry

/-- BUILTIN_UPDATE_POD_DONE (R445). -/
def execBuiltinUpdatePodDone (pod : Nat) (failing : List Nat) (s : State) : Host.Outcome State Fault Refusal :=
  s.runAclk fun _ e => e.updatePodDone pod failing

/-- DROOP_APPLY (R541). -/
def execDroopApply (s : State) : Host.Outcome State Fault Refusal :=
  s.run fun _ e => if e.power.estate = 0 then e.droopApply else e

/-- DROOP_LIFT (R542). -/
def execDroopLift (s : State) : Host.Outcome State Fault Refusal :=
  s.run fun _ e => if e.power.estate = 0 then e.droopLift else e

/-- THROTTLE_CHANGE (R540). -/
def execThrottleChange (level : BitVec 3) (s : State) : Host.Outcome State Fault Refusal :=
  s.run fun _ e => if e.power.estate = 0 then e.throttleChange level.toNat else e

/-- POD_VACK (R506). -/
def execPodVack (pod : Nat) (s : State) : Host.Outcome State Fault Refusal :=
  s.runService fun _ e => e.podVack pod

/-- POD_VACK_TIMEOUT (R507). -/
def execPodVackTimeout (pod : Nat) (s : State) : Host.Outcome State Fault Refusal :=
  s.runService fun _ e => e.podVackTimeout pod

/-- POD_PGOOD_FALL (R507). -/
def execPodPgoodFall (pod : Nat) (s : State) : Host.Outcome State Fault Refusal :=
  s.runService fun _ e => e.pgoodFall pod

end Sys2Proof.Machine
end

