-- ==== Sys2Proof/Machine/ExecPorts.lean ====
section
/-!
DEFINITION. Ports and links (14): flits, credits, capability messages, training, memory replies, and the vector ports.
-/

namespace Sys2Proof.Machine

/-- FABRIC_FLIT_RECEIVE (R484). -/
def execFabricFlitReceive (port : Nat) (flit : Flit) (s : State) : Host.Outcome State Fault Refusal :=
  s.run fun _ e => e.fabricFlit port flit

/-- FABRIC_CREDIT (R484). -/
def execFabricCredit (port : Nat) (vcs : BitVec 4) (s : State) : Host.Outcome State Fault Refusal :=
  s.run fun rd e => e.fabricCredit rd port vcs

/-- NI_READY_RISE (R492). -/
def execNiReadyRise (port : Nat) (s : State) : Host.Outcome State Fault Refusal :=
  s.run fun _ e => e.niRise port

/-- CAPS (R492). -/
def execCaps (via : Via) (s : State) : Host.Outcome State Fault Refusal :=
  s.run fun rd e => if e.coreOn then e.caps rd via else e

/-- TUNNEL (R469). -/
def execTunnel (via : Via) (s : State) : Host.Outcome State Fault Refusal :=
  s.runDict fun rd e => e.tunnel rd via

/-- SPLICE_FLIT_RECEIVE (R498). -/
def execSpliceFlitReceive (link : Nat) (bytes : List Byte) (s : State) : Host.Outcome State Fault Refusal :=
  s.run fun rd e => e.spliceFlit rd link bytes

/-- SPLICE_REPLAY_TIMEOUT (R499). -/
def execSpliceReplayTimeout (link : Nat) (s : State) : Host.Outcome State Fault Refusal :=
  s.run fun _ e => e.spliceTimeout link

/-- LINK_TRAINING_DONE (R495). -/
def execLinkTrainingDone (link rate ucie repaired : Nat) (s : State) : Host.Outcome State Fault Refusal :=
  s.run fun _ e => e.trainingDone link rate ucie repaired

/-- LINK_TRAINING_TIMEOUT (R495). -/
def execLinkTrainingTimeout (link : Nat) (s : State) : Host.Outcome State Fault Refusal :=
  s.run fun _ e => e.trainingTimeout link

/-- LINK_TRAINING_RETRY (R495). -/
def execLinkTrainingRetry (link : Nat) (s : State) : Host.Outcome State Fault Refusal :=
  s.run fun _ e => e.trainingRetry link

/-- LINK_DOWN (R501). -/
def execLinkDown (link : Nat) (s : State) : Host.Outcome State Fault Refusal :=
  s.run fun _ e => e.linkDown link

/-- MEMORY_READ_BEAT (R478). -/
def execMemoryReadBeat (port tag : Nat) (half : Bool) (err : BitVec 4) (upsets : List (Nat × Upset)) (s : State) : Host.Outcome State Fault Refusal :=
  s.runReply fun rd e => e.readBeat rd port tag half err upsets

/-- MEMORY_WRITE_ACK (R480). -/
def execMemoryWriteAck (port tag : Nat) (err : Bool) (s : State) : Host.Outcome State Fault Refusal :=
  s.runReply fun rd e => e.ackStep rd port tag err

/-- MEMORY_CREDIT (R476). -/
def execMemoryCredit (port : Nat) (write : Bool) (s : State) : Host.Outcome State Fault Refusal :=
  s.run fun _ e => if e.coreOn then e.memoryCredit port write else e

/-- VP_CREDIT (R502). -/
def execVpCredit (port : Nat) (s : State) : Host.Outcome State Fault Refusal :=
  s.run fun _ e => if e.coreOn then e.vpCredit port else e

end Sys2Proof.Machine
end

