-- ==== Sys2Proof/Machine/ExecPower.lean ====
section
/-!
DEFINITION. Presence, resets, start-up, power states and the test access port (13, 15).
-/

namespace Sys2Proof.Machine

/-- PRESENCE_ASSERT (R470). -/
def execPresenceAssert (s : State) : Host.Outcome State Fault Refusal :=
  s.run fun _ e => e.presenceOn

/-- PRESENCE_DEASSERT (R470). -/
def execPresenceDeassert (s : State) : Host.Outcome State Fault Refusal :=
  s.run fun _ e => e.presenceOff

/-- POWER_ON_RESET (R530). -/
def execPowerOnReset (s : State) : Host.Outcome State Fault Refusal :=
  s.run fun _ e => e.powerOnReset

/-- ERST_N_LOW (R527). -/
def execErstNLow (s : State) : Host.Outcome State Fault Refusal :=
  s.run fun _ e => e.erstLow

/-- START_UP (R524). -/
def execStartUp (bist : Bist) (s : State) : Host.Outcome State Fault Refusal :=
  s.run fun _ e => e.startUp bist

/-- READY_RISE (R515). -/
def execReadyRise (s : State) : Host.Outcome State Fault Refusal :=
  s.run fun _ e => e.readyRise

/-- IDLE_ENTRY (R533). -/
def execIdleEntry (s : State) : Host.Outcome State Fault Refusal :=
  s.run fun _ e => e.idleEntry

/-- TEST_ACCESS_PORT (R510). -/
def execTestAccessPort (op : TapOp) (s : State) : Host.Outcome State Fault Refusal :=
  s.run fun _ e => e.tap op

end Sys2Proof.Machine
end

