-- ==== Sys2Proof/Machine/ExecRemote.lean ====
section
/-!
DEFINITION. Remote operations, triggers and collectives (10, 11).
-/

namespace Sys2Proof.Machine

/-- REMOTE_OP_ARRIVAL (R357, R436). -/
def execRemoteOpArrival (via : Via) (bad : List UnitRead) (add : StagingAdd) (s : State) : Host.Outcome State Fault Refusal :=
  s.runReads bad fun rd bad e => (e.readSlots add.reads (e.arrivalSlots via)).remoteOpArrival rd bad add.fault via

/-- RESP_ARRIVAL (R358). -/
def execRespArrival (via : Via) (s : State) : Host.Outcome State Fault Refusal :=
  s.runAclk fun _ e => e.respArrival via

/-- TRIGGER_FIRE (R371). -/
def execTriggerFire (entry : Nat) (s : State) : Host.Outcome State Fault Refusal :=
  s.runReads [] fun rd _ e => e.triggerFire rd entry

/-- TRIGGER_ACTION_ISSUE (R372). -/
def execTriggerActionIssue (bad : List UnitRead) (s : State) : Host.Outcome State Fault Refusal :=
  s.runReads bad fun rd bad e => e.actionIssue rd bad

/-- ACC_WINDOW_OPENED (R365). -/
def execAccWindowOpened (bad : List UnitRead) (s : State) : Host.Outcome State Fault Refusal :=
  s.runReads bad fun rd bad e => e.windowOpened rd bad

/-- ACC_WINDOW_CLOSED (R366, R436). -/
def execAccWindowClosed (reads : List StageRead) (s : State) : Host.Outcome State Fault Refusal :=
  s.runAclk fun _ e => (e.readSlots reads e.closeSlots).windowClosed

/-- COLL_START (R383). -/
def execCollStart (bad : List UnitRead) (s : State) : Host.Outcome State Fault Refusal :=
  s.runReads bad fun rd bad e => e.collStart rd bad

/-- JOIN (R407). -/
def execJoin (via : Via) (s : State) : Host.Outcome State Fault Refusal :=
  s.runAclk fun rd e => e.collJoin rd via

/-- CREDIT (R392). -/
def execCredit (via : Via) (s : State) : Host.Outcome State Fault Refusal :=
  s.runAclk fun rd e => e.collCreditMsg rd via

/-- CHUNK_UP (R392, R436). -/
def execChunkUp (via : Via) (add : StagingAdd) (s : State) : Host.Outcome State Fault Refusal :=
  s.runAclk fun rd e => (e.readSlots add.reads (e.chunkUpSlots via)).collChunkUp rd via add.fault

/-- CHUNK_DOWN (R395). -/
def execChunkDown (via : Via) (s : State) : Host.Outcome State Fault Refusal :=
  s.runAclk fun rd e => e.collChunkDown rd via

/-- SHORT_UP (R402). -/
def execShortUp (arrival : ShortArrival) (s : State) : Host.Outcome State Fault Refusal :=
  s.runAclk fun rd e => e.collShortUp rd arrival.via arrival.fault

/-- SHORT_DOWN (R402). -/
def execShortDown (via : Via) (s : State) : Host.Outcome State Fault Refusal :=
  s.runAclk fun rd e => e.collShortDown rd via

/-- REPORT (R415). -/
def execReport (via : Via) (s : State) : Host.Outcome State Fault Refusal :=
  s.runAclk fun rd e => e.collReport rd via

/-- COMMIT message (R409). -/
def execCommitMessage (via : Via) (s : State) : Host.Outcome State Fault Refusal :=
  s.runAclk fun rd e => e.collCommit rd via

/-- COMMIT_ACK (R409). -/
def execCommitAck (via : Via) (s : State) : Host.Outcome State Fault Refusal :=
  s.runAclk fun rd e => e.collCommitAck rd via

/-- ABORT_REQ (R408). -/
def execAbortReq (via : Via) (s : State) : Host.Outcome State Fault Refusal :=
  s.runAclk fun rd e => e.collAbortReq rd via

/-- OUTCOME (R410). -/
def execOutcome (via : Via) (s : State) : Host.Outcome State Fault Refusal :=
  s.runAclk fun rd e => e.collOutcomeMsg rd via

/-- LOSS (R417). -/
def execLoss (via : Via) (s : State) : Host.Outcome State Fault Refusal :=
  s.runAclk fun rd e => e.collLossMsg rd via

/-- HEARTBEAT (R416, R534). -/
def execHeartbeat (via : Via) (s : State) : Host.Outcome State Fault Refusal :=
  s.runService fun _ e => e.heartbeat via

/-- ECHO (R416). -/
def execEcho (via : Via) (s : State) : Host.Outcome State Fault Refusal :=
  s.runService fun _ e => e.echo via

/-- HEARTBEAT_TIMER (R416). -/
def execHeartbeatTimer (s : State) : Host.Outcome State Fault Refusal :=
  s.runAclk fun _ e => e.heartbeatTimer

/-- COLL_STALL_WATCHDOG (R414). -/
def execCollStallWatchdog (num : Nat) (s : State) : Host.Outcome State Fault Refusal :=
  s.runAclk fun _ e => e.collStall num

end Sys2Proof.Machine
end

