-- ==== Sys2Proof/Machine/ExecStage.lean ====
section
/-!
DEFINITION. The Stage and the drains (04, 08): updates, commits, initial loads, drains, output, hand-offs, and banks.
-/

namespace Sys2Proof.Machine

/-- INITIAL_ACCUMULATOR_LOAD (R170). -/
def execInitialAccumulatorLoad (ctx : Nat) (add : LoadAdd) (s : State) : Host.Outcome State Fault Refusal :=
  s.runReads add.bad fun rd bad e => e.initialLoad rd ctx bad add.fault

/-- UPDATE_ARRIVAL (R138). -/
def execUpdateArrival (u : LinkArrival) (s : State) : Host.Outcome State Fault Refusal :=
  s.runAclk fun _ e => e.updateArrivalF u.src u.upset

/-- READ_MODIFY_WRITE (R133). -/
def execReadModifyWrite (slice bank : Nat) (read : SlotRead) (fault : Bool) (s : State) : Host.Outcome State Fault Refusal :=
  s.runAclk fun rd e => e.readModifyWrite rd slice bank read.upset fault read.moved

/-- CREDIT_RETURN (R140). -/
def execCreditReturn (slice bank : Nat) (xbar : Bool) (s : State) : Host.Outcome State Fault Refusal :=
  s.runAclk fun _ e => e.creditReturn slice bank xbar

/-- COMMIT (R147). -/
def execCommit (attempt : Nat) (s : State) : Host.Outcome State Fault Refusal :=
  s.runAclk fun _ e => e.commit attempt

/-- DUPLICATE_COMMIT (R144). -/
def execDuplicateCommit (attempt : Nat) (s : State) : Host.Outcome State Fault Refusal :=
  s.runAclk fun _ e => e.duplicateCommit attempt

/-- DRAIN_START (R276). -/
def execDrainStart (slice : Nat) (s : State) : Host.Outcome State Fault Refusal :=
  s.runAclk fun _ e => e.drainStart slice

/-- DRAIN_ROW (R277). -/
def execDrainRow (slice : Nat) (reads : RowReads) (s : State) : Host.Outcome State Fault Refusal :=
  s.runAclk fun rd e => e.drainRow rd slice reads.upsets reads.faults reads.moved

/-- DRAIN_CLEAR (R149). -/
def execDrainClear (slice : Nat) (s : State) : Host.Outcome State Fault Refusal :=
  s.runAclk fun _ e => e.drainClear slice

/-- OUTPUT_WRITE (R300). -/
def execOutputWrite (o : OutputOffer) (s : State) : Host.Outcome State Fault Refusal :=
  s.runAclk fun rd e => e.outputWriteF rd o.slice o.upset

/-- HANDOFF (R301). -/
def execHandoff (slice : Nat) (s : State) : Host.Outcome State Fault Refusal :=
  s.runAclk fun _ e => e.handoff slice

/-- PANEL_CHECK_WRITE (R294). -/
def execPanelCheckWrite (ch seq panel : Nat) (bad : List UnitRead) (s : State) : Host.Outcome State Fault Refusal :=
  s.runReads bad fun rd bad e => e.panelCheckWrite rd ch seq panel bad

/-- SLOT_READ_BACK (R435). -/
def execSlotReadBack (slice bank slot : Nat) (read : SlotRead) (s : State) : Host.Outcome State Fault Refusal :=
  s.runAclk fun _ e => e.slotReadBack slice bank slot read.upset read.moved

/-- BANK_COPY_COMPLETE (R151). -/
def execBankCopyComplete (slice bank : Nat) (lost : List Nat) (s : State) : Host.Outcome State Fault Refusal :=
  s.runAclk fun _ e => e.bankCopyComplete slice bank lost

end Sys2Proof.Machine
end

