-- ==== Sys2Proof/Machine/Dispatch.lean ====
section
/-! DEFINITION. One arm per command: each is one direct call of the command's meaning. -/

namespace Sys2Proof.Machine

/-- The effect of a command on everything but the queue. -/
def exec (i : Instr) (s : State) : Host.Outcome State Fault Refusal :=
  match i with
  | .doorbell ch bad => Sys2Proof.Machine.execDoorbell ch bad s
  | .heldDoorbellServed ch bad => Sys2Proof.Machine.execHeldDoorbellServed ch bad s
  | .commandFetch ch bad => Sys2Proof.Machine.execCommandFetch ch bad s
  | .gemm ch seq bad => Sys2Proof.Machine.execGemm ch seq bad s
  | .gemmSparse ch seq bad => Sys2Proof.Machine.execGemmSparse ch seq bad s
  | .takeGemm ch seq bad => Sys2Proof.Machine.execTakeGemm ch seq bad s
  | .compress ch seq bad => Sys2Proof.Machine.execCompress ch seq bad s
  | .copy ch seq bad => Sys2Proof.Machine.execCopy ch seq bad s
  | .put ch seq bad => Sys2Proof.Machine.execPut ch seq bad s
  | .get ch seq => Sys2Proof.Machine.execGet ch seq s
  | .addx ch seq bad => Sys2Proof.Machine.execAddx ch seq bad s
  | .fadd ch seq => Sys2Proof.Machine.execFadd ch seq s
  | .signal ch seq => Sys2Proof.Machine.execSignal ch seq s
  | .triggerLoad ch seq bad => Sys2Proof.Machine.execTriggerLoad ch seq bad s
  | .fence ch seq => Sys2Proof.Machine.execFence ch seq s
  | .wait ch seq => Sys2Proof.Machine.execWait ch seq s
  | .reelMark ch seq => Sys2Proof.Machine.execReelMark ch seq s
  | .nop ch seq => Sys2Proof.Machine.execNop ch seq s
  | .chainContextLoad ch seq bad => Sys2Proof.Machine.execChainContextLoad ch seq bad s
  | .slateOpen ch seq => Sys2Proof.Machine.execSlateOpen ch seq s
  | .runDraw u => Sys2Proof.Machine.execRunDraw u s
  | .initialAccumulatorLoad ctx bad => Sys2Proof.Machine.execInitialAccumulatorLoad ctx bad s
  | .gangForm q => Sys2Proof.Machine.execGangForm q s
  | .programFetch pod ch seq bucket bad => Sys2Proof.Machine.execProgramFetch pod ch seq bucket bad s
  | .operandFill pos run t line units upsets => Sys2Proof.Machine.execOperandFill pos run t line units upsets s
  | .bLoadRow pod ctx kstep row => Sys2Proof.Machine.execBLoadRow pod ctx kstep row s
  | .gangRowAlignment q ctx kstep => Sys2Proof.Machine.execGangRowAlignment q ctx kstep s
  | .aRowIssue pod ctx kstep => Sys2Proof.Machine.execARowIssue pod ctx kstep s
  | .columnSwap pod col => Sys2Proof.Machine.execColumnSwap pod col s
  | .gangHold q member => Sys2Proof.Machine.execGangHold q member s
  | .gangResume q => Sys2Proof.Machine.execGangResume q s
  | .partialEmit pod col fault => Sys2Proof.Machine.execPartialEmit pod col fault s
  | .gangCombine q col fault => Sys2Proof.Machine.execGangCombine q col fault s
  | .laneBatchIssue pod ctx batch => Sys2Proof.Machine.execLaneBatchIssue pod ctx batch s
  | .lanePairStep pod lane fault => Sys2Proof.Machine.execLanePairStep pod lane fault s
  | .updateArrival src => Sys2Proof.Machine.execUpdateArrival src s
  | .readModifyWrite slice bank read fault => Sys2Proof.Machine.execReadModifyWrite slice bank read fault s
  | .creditReturn slice bank xbar => Sys2Proof.Machine.execCreditReturn slice bank xbar s
  | .commit attempt => Sys2Proof.Machine.execCommit attempt s
  | .duplicateCommit attempt => Sys2Proof.Machine.execDuplicateCommit attempt s
  | .drainStart slice => Sys2Proof.Machine.execDrainStart slice s
  | .drainRow slice reads => Sys2Proof.Machine.execDrainRow slice reads s
  | .drainClear slice => Sys2Proof.Machine.execDrainClear slice s
  | .outputWrite slice => Sys2Proof.Machine.execOutputWrite slice s
  | .handoff slice => Sys2Proof.Machine.execHandoff slice s
  | .panelCheckWrite ch seq panel bad => Sys2Proof.Machine.execPanelCheckWrite ch seq panel bad s
  | .commandComplete ch seq bad => Sys2Proof.Machine.execCommandComplete ch seq bad s
  | .podFault pod cause col => Sys2Proof.Machine.execPodFault pod cause col s
  | .serviceTransition pod => Sys2Proof.Machine.execServiceTransition pod s
  | .podRotationRequest pod why => Sys2Proof.Machine.execPodRotationRequest pod why s
  | .tileReplay ctx parity => Sys2Proof.Machine.execTileReplay ctx parity s
  | .zeroSweep ctx => Sys2Proof.Machine.execZeroSweep ctx s
  | .slotReadBack slice bank slot read => Sys2Proof.Machine.execSlotReadBack slice bank slot read s
  | .bankCopyComplete slice bank lost => Sys2Proof.Machine.execBankCopyComplete slice bank lost s
  | .screenSpacingExpiry => Sys2Proof.Machine.execScreenSpacingExpiry s
  | .screenTestStart pod => Sys2Proof.Machine.execScreenTestStart pod s
  | .screenTestEnd pod failing => Sys2Proof.Machine.execScreenTestEnd pod failing s
  | .reelBoundaryInterval => Sys2Proof.Machine.execReelBoundaryInterval s
  | .remoteOpArrival via bad add => Sys2Proof.Machine.execRemoteOpArrival via bad add s
  | .respArrival via => Sys2Proof.Machine.execRespArrival via s
  | .triggerFire entry => Sys2Proof.Machine.execTriggerFire entry s
  | .triggerActionIssue bad => Sys2Proof.Machine.execTriggerActionIssue bad s
  | .accWindowOpen p w => Sys2Proof.Machine.execAccWindowOpen p w s
  | .accWindowOpened bad => Sys2Proof.Machine.execAccWindowOpened bad s
  | .accWindowClose p w => Sys2Proof.Machine.execAccWindowClose p w s
  | .accWindowClosed reads => Sys2Proof.Machine.execAccWindowClosed reads s
  | .collStart bad => Sys2Proof.Machine.execCollStart bad s
  | .join via => Sys2Proof.Machine.execJoin via s
  | .credit via => Sys2Proof.Machine.execCredit via s
  | .chunkUp via add => Sys2Proof.Machine.execChunkUp via add s
  | .chunkDown via => Sys2Proof.Machine.execChunkDown via s
  | .shortUp arrival => Sys2Proof.Machine.execShortUp arrival s
  | .shortDown via => Sys2Proof.Machine.execShortDown via s
  | .report via => Sys2Proof.Machine.execReport via s
  | .commitMessage via => Sys2Proof.Machine.execCommitMessage via s
  | .commitAck via => Sys2Proof.Machine.execCommitAck via s
  | .abortReq via => Sys2Proof.Machine.execAbortReq via s
  | .outcome via => Sys2Proof.Machine.execOutcome via s
  | .loss via => Sys2Proof.Machine.execLoss via s
  | .heartbeat via => Sys2Proof.Machine.execHeartbeat via s
  | .echo via => Sys2Proof.Machine.execEcho via s
  | .heartbeatTimer => Sys2Proof.Machine.execHeartbeatTimer s
  | .collStallWatchdog num => Sys2Proof.Machine.execCollStallWatchdog num s
  | .collAbort p num => Sys2Proof.Machine.execCollAbort p num s
  | .collEndLocal p num => Sys2Proof.Machine.execCollEndLocal p num s
  | .fabricFlitReceive port flit => Sys2Proof.Machine.execFabricFlitReceive port flit s
  | .fabricCredit port vcs => Sys2Proof.Machine.execFabricCredit port vcs s
  | .niReadyRise port => Sys2Proof.Machine.execNiReadyRise port s
  | .caps via => Sys2Proof.Machine.execCaps via s
  | .tunnel port => Sys2Proof.Machine.execTunnel port s
  | .spliceFlitReceive link bytes => Sys2Proof.Machine.execSpliceFlitReceive link bytes s
  | .spliceReplayTimeout link => Sys2Proof.Machine.execSpliceReplayTimeout link s
  | .slRetrain p link v => Sys2Proof.Machine.execSlRetrain p link v s
  | .linkTrainingDone link rate ucie repaired => Sys2Proof.Machine.execLinkTrainingDone link rate ucie repaired s
  | .linkTrainingTimeout link => Sys2Proof.Machine.execLinkTrainingTimeout link s
  | .linkTrainingRetry link => Sys2Proof.Machine.execLinkTrainingRetry link s
  | .linkDown link => Sys2Proof.Machine.execLinkDown link s
  | .memoryReadBeat port tag half err upsets => Sys2Proof.Machine.execMemoryReadBeat port tag half err upsets s
  | .memoryWriteAck port tag err => Sys2Proof.Machine.execMemoryWriteAck port tag err s
  | .memoryCredit port write => Sys2Proof.Machine.execMemoryCredit port write s
  | .vpCredit port => Sys2Proof.Machine.execVpCredit port s
  | .dbRequest write addr be data => Sys2Proof.Machine.execDbRequest write addr be data s
  | .winRead index sub => Sys2Proof.Machine.execWinRead index sub s
  | .winWrite index sub => Sys2Proof.Machine.execWinWrite index sub s
  | .winReadSeg index sub len => Sys2Proof.Machine.execWinReadSeg index sub len s
  | .winWriteSeg index sub len last => Sys2Proof.Machine.execWinWriteSeg index sub len last s
  | .huasetFrameArrival frame cut => Sys2Proof.Machine.execHuasetFrameArrival frame cut s
  | .huasetRead => Sys2Proof.Machine.execHuasetRead s
  | .huasetWrite => Sys2Proof.Machine.execHuasetWrite s
  | .huasetReadSeg => Sys2Proof.Machine.execHuasetReadSeg s
  | .huasetWriteSeg => Sys2Proof.Machine.execHuasetWriteSeg s
  | .enum frame => Sys2Proof.Machine.execEnum frame s
  | .channelReset p v => Sys2Proof.Machine.execChannelReset p v s
  | .engineReset p v => Sys2Proof.Machine.execEngineReset p v s
  | .podReset p v => Sys2Proof.Machine.execPodReset p v s
  | .podBistDone pod failing => Sys2Proof.Machine.execPodBistDone pod failing s
  | .screenNow p v => Sys2Proof.Machine.execScreenNow p v s
  | .sparesExhaustedAck p v => Sys2Proof.Machine.execSparesExhaustedAck p v s
  | .repairCommit p v vfuse => Sys2Proof.Machine.execRepairCommit p v vfuse s
  | .fuseBurnComplete ok => Sys2Proof.Machine.execFuseBurnComplete ok s
  | .builtinUpdate p v => Sys2Proof.Machine.execBuiltinUpdate p v s
  | .dictImageWrite p offset seg => Sys2Proof.Machine.execDictImageWrite p offset seg s
  | .actTableWrite p slot offset seg => Sys2Proof.Machine.execActTableWrite p slot offset seg s
  | .stagingBytesWrite p v => Sys2Proof.Machine.execStagingBytesWrite p v s
  | .irqPendingWrite p sub v => Sys2Proof.Machine.execIrqPendingWrite p sub v s
  | .placePosMaskWrite p v => Sys2Proof.Machine.execPlacePosMaskWrite p v s
  | .engineIdWrite p v => Sys2Proof.Machine.execEngineIdWrite p v s
  | .groupTableBaseWrite p v => Sys2Proof.Machine.execGroupTableBaseWrite p v s
  | .objectWrite p index sub bytes => Sys2Proof.Machine.execObjectWrite p index sub bytes s
  | .presenceAssert => Sys2Proof.Machine.execPresenceAssert s
  | .presenceDeassert => Sys2Proof.Machine.execPresenceDeassert s
  | .droopApply => Sys2Proof.Machine.execDroopApply s
  | .droopLift => Sys2Proof.Machine.execDroopLift s
  | .throttleChange level => Sys2Proof.Machine.execThrottleChange level s
  | .podVack pod => Sys2Proof.Machine.execPodVack pod s
  | .podVackTimeout pod => Sys2Proof.Machine.execPodVackTimeout pod s
  | .podPgoodFall pod => Sys2Proof.Machine.execPodPgoodFall pod s
  | .powerOnReset => Sys2Proof.Machine.execPowerOnReset s
  | .erstNLow => Sys2Proof.Machine.execErstNLow s
  | .startUp bist => Sys2Proof.Machine.execStartUp bist s
  | .readyRise => Sys2Proof.Machine.execReadyRise s
  | .idleEntry => Sys2Proof.Machine.execIdleEntry s
  | .e3Enter p v => Sys2Proof.Machine.execE3Enter p v s
  | .e3Exit p v => Sys2Proof.Machine.execE3Exit p v s
  | .builtinUpdatePodDone pod failing => Sys2Proof.Machine.execBuiltinUpdatePodDone pod failing s
  | .testAccessPort op => Sys2Proof.Machine.execTestAccessPort op s

end Sys2Proof.Machine
end

