-- ==== Sys2Proof/Machine/Step.lean ====
section
/-! DEFINITION. One step of the block: the command at the front of the queue, or, on an empty queue, a cycle by itself. -/

namespace Sys2Proof.Machine

/-- A cycle with no command (DESIGN CHOICE, log entry 10). -/
def State.idle (s : State) : State := s.commit (s.e.tick s.rd)

/-- Take the command at the front of the queue and run it with the queue's rest; with no command, the block's own cycle. -/
def step (s : State) : Host.Outcome State Fault Refusal :=
  match s.pending with
  | [] => .next s.idle
  | c :: r => exec c { s with pending := r }

/-- The state with the command that a word spells at the front of its queue; unchanged where the word spells none. -/
def State.withFetchWord (s : State) (nbits w : Nat) : State :=
  match decodeTableWord nbits w with
  | some c => { s with pending := c :: s.pending }
  | none => s

end Sys2Proof.Machine
end

