-- ==== Sys2Proof/WellFormed.lean ====
section
/-!
DEFINITION. Well-formed commands: every number a command carries is one that the engine has (channels R307, ring counts R310, pods
and positions 01, columns and lanes 02, slices, banks and slots 04, the ports of 14, the trigger table 01). A command outside
these bounds names nothing; its meaning then has no effect, and no statement about the machine needs one.
-/

namespace Sys2Proof

/-- A channel number (R307). -/
def chOk (ch : Nat) : Bool := ch < 256

/-- A command named by channel and ring count (R310). -/
def cmdOk (ch seq : Nat) : Bool := chOk ch && seq < 2 ^ 32

/-- A physical pod: 34 of them. -/
def podOk (pod : Nat) : Bool := pod < 34

/-- A position: 32 of them. -/
def posOk (pos : Nat) : Bool := pos < 32

/-- A quad: 8 of them (R203). -/
def quadOk (q : Nat) : Bool := q < 8

/-- A Stage slice and one of its 128 banks or 8 spare banks (01, R151). -/
def bankOk (slice bank : Nat) : Bool := slice < 32 && bank < 136

/-- A sector slot of a bank (R151). -/
def stageSlotOk (s : StageSlot) : Bool := bankOk s.1 s.2.1 && s.2.2 < 2048

/-- An upset of 41 bytes: each position once at most, and each names a byte that changes. -/
def upsetOk (u : Upset) : Bool := u.all (fun p => p.1 < 41 && p.2 != 0) && (u.map Prod.fst).Nodup

/-- Staging sectors read with an upset. -/
def readsOk (l : List StageRead) : Bool := l.all fun r => stageSlotOk r.1 && upsetOk r.2

/-- A sector read, with the staging sectors that it moves. -/
def slotReadOk (r : SlotRead) : Bool := upsetOk r.upset && readsOk r.moved

/-- Reads of units of 32 bytes by number: addresses have 64 bits (R474), and a unit with its code has 36 bytes (R420). -/
def unitsOk (bad : List UnitRead) : Bool := bad.all fun r => r.unit < 2 ^ 59 && r.upset.all (·.1 < 36) && upsetOk r.upset

/-- A fabric port or a Splice link: four of each (14). -/
def portOk (j : Nat) : Bool := j < 4

/-- Where a packet can arrive. -/
def viaOk : Via → Bool
  | .loopback => true
  | .fabric j => portOk j
  | .splice n => portOk n

/-- A unit that takes work. -/
def takerOk : Taker → Bool
  | .pos p => posOk p
  | .quad q => quadOk q

/-- A stream of updates. -/
def streamOk : Stream → Bool
  | .pod n => podOk n
  | .gang q => quadOk q
  | .xbar v => viaOk v
  | .coll => true

/-- A fabric flit: a virtual channel and up to four units of 36 bytes (14). -/
def flitOk (f : Flit) : Bool := f.vc < 4 && f.units.length ≤ 4 && f.units.all (fun u => u.length = 36)

/-- What start-up can find. -/
def bistOk (b : Bist) : Bool :=
  b.banks.all (fun p => bankOk p.1 p.2) && b.columns.all (fun p => podOk p.1 && p.2 < 132)

/-- Whether a command's numbers are ones that the engine has. -/
def Instr.wf : Instr → Bool
  | .doorbell ch bad => chOk ch && unitsOk bad
  | .heldDoorbellServed ch bad => chOk ch && unitsOk bad
  | .commandFetch ch bad => chOk ch && unitsOk bad
  | .gemm ch seq bad => cmdOk ch seq && unitsOk bad
  | .gemmSparse ch seq bad => cmdOk ch seq && unitsOk bad
  | .takeGemm ch seq bad => cmdOk ch seq && unitsOk bad
  | .compress ch seq bad => cmdOk ch seq && unitsOk bad
  | .copy ch seq bad => cmdOk ch seq && unitsOk bad.bad && readsOk bad.reads
  | .put ch seq bad => cmdOk ch seq && unitsOk bad
  | .get ch seq => cmdOk ch seq
  | .addx ch seq bad => cmdOk ch seq && unitsOk bad
  | .fadd ch seq => cmdOk ch seq
  | .signal ch seq => cmdOk ch seq
  | .triggerLoad ch seq bad => cmdOk ch seq && unitsOk bad
  | .fence ch c => cmdOk ch c.seq && unitsOk c.bad
  | .wait ch c => cmdOk ch c.seq && unitsOk c.bad
  | .reelMark ch c => cmdOk ch c.seq && unitsOk c.bad
  | .nop ch c => cmdOk ch c.seq && unitsOk c.bad
  | .chainContextLoad ch seq bad => cmdOk ch seq && unitsOk bad
  | .slateOpen ch seq => cmdOk ch seq
  | .runDraw u => takerOk u
  | .initialAccumulatorLoad _ add => unitsOk add.bad
  | .gangForm q => quadOk q
  | .programFetch pod ch seq _ bad => podOk pod && cmdOk ch seq && unitsOk bad
  | .operandFill pos _ _ _ units reads =>
    posOk pos && units.all (· < 8) && reads.upsets.all upsetOk && reads.upsets.length = units.length && readsOk reads.moved
  | .bLoadRow pod _ _ row => podOk pod && row < 128
  | .gangRowAlignment q _ _ => quadOk q
  | .aRowIssue pod _ _ => podOk pod
  | .columnSwap pod col => podOk pod && col < 128
  | .gangHold q member => quadOk q && member < 4
  | .gangResume q => quadOk q
  | .partialEmit pod col _ => podOk pod && col < 128
  | .gangCombine q col add => quadOk q && col < 256 && upsetOk add.upset
  | .laneBatchIssue pod _ b => podOk pod && unitsOk b.bad
  | .lanePairStep pod lane _ => podOk pod && lane < 128
  | .updateArrival u => streamOk u.src && upsetOk u.upset
  | .readModifyWrite slice bank read _ => bankOk slice bank && slotReadOk read
  | .creditReturn slice bank _ => bankOk slice bank
  | .commit _ => true
  | .duplicateCommit _ => true
  | .drainStart slice => slice < 32
  | .drainRow slice r => slice < 32 && (r.upsets.all fun p => upsetOk p.2) && r.faults.all (· < 128) && readsOk r.moved
  | .drainClear slice => slice < 32
  | .outputWrite o => o.slice < 32 && upsetOk o.upset
  | .handoff slice => slice < 32
  | .panelCheckWrite ch seq _ bad => cmdOk ch seq && unitsOk bad
  | .commandComplete ch seq bad => cmdOk ch seq && unitsOk bad
  | .podFault pod _ col => podOk pod && col < 132
  | .serviceTransition pod => podOk pod
  | .podRotationRequest pod _ => podOk pod
  | .tileReplay _ _ => true
  | .zeroSweep _ => true
  | .slotReadBack slice bank slot read => stageSlotOk (slice, bank, slot) && slotReadOk read
  | .bankCopyComplete slice bank lost => bankOk slice bank && lost.all (· < 2048)
  | .screenSpacingExpiry => true
  | .screenTestStart pod => podOk pod
  | .screenTestEnd pod failing => podOk pod && failing.all (· < 132)
  | .reelBoundaryInterval => true
  | .remoteOpArrival via bad add => viaOk via && unitsOk bad && readsOk add.reads
  | .respArrival via => viaOk via
  | .triggerFire entry => entry < 4096
  | .triggerActionIssue bad => unitsOk bad
  | .accWindowOpen _ _ => true
  | .accWindowOpened bad => unitsOk bad
  | .accWindowClose _ _ => true
  | .accWindowClosed reads => readsOk reads
  | .collStart bad => unitsOk bad
  | .join via => viaOk via
  | .credit via => viaOk via
  | .chunkUp via add => viaOk via && readsOk add.reads
  | .chunkDown via => viaOk via
  | .shortUp arrival => viaOk arrival.via
  | .shortDown via => viaOk via
  | .report via => viaOk via
  | .commitMessage via => viaOk via
  | .commitAck via => viaOk via
  | .abortReq via => viaOk via
  | .outcome via => viaOk via
  | .loss via => viaOk via
  | .heartbeat via => viaOk via
  | .echo via => viaOk via
  | .heartbeatTimer => true
  | .collStallWatchdog num => num < 65536
  | .collAbort _ _ => true
  | .collEndLocal _ _ => true
  | .fabricFlitReceive port flit => portOk port && flitOk flit
  | .fabricCredit port _ => portOk port
  | .niReadyRise port => portOk port
  | .caps via => viaOk via
  | .tunnel via => viaOk via
  | .spliceFlitReceive link bytes => portOk link && bytes.length = 320
  | .spliceReplayTimeout link => portOk link
  | .slRetrain _ link _ => portOk link
  | .linkTrainingDone link _ _ _ => portOk link
  | .linkTrainingTimeout link => portOk link
  | .linkTrainingRetry link => portOk link
  | .linkDown link => portOk link
  | .memoryReadBeat port tag _ _ upsets => port < 32 && tag < 1024 && upsets.all fun p => p.1 < 4
  | .memoryWriteAck port tag _ => port < 32 && tag < 256
  | .memoryCredit port _ => port < 32
  | .vpCredit port => port < 8
  | .dbRequest _ _ _ _ => true
  | .winRead _ _ => true
  | .winWrite _ _ => true
  | .winReadSeg _ _ _ => true
  | .winWriteSeg _ _ _ _ => true
  | .huasetFrameArrival _ _ => true
  | .huasetRead => true
  | .huasetWrite => true
  | .huasetReadSeg => true
  | .huasetWriteSeg => true
  | .enum _ => true
  | .channelReset _ _ => true
  | .engineReset _ _ => true
  | .podReset _ _ => true
  | .podBistDone pod failing => podOk pod && failing.all (· < 132)
  | .screenNow _ _ => true
  | .sparesExhaustedAck _ _ => true
  | .repairCommit _ _ _ => true
  | .fuseBurnComplete _ => true
  | .builtinUpdate _ _ => true
  | .dictImageWrite _ offset seg => offset + seg.length ≤ 65536
  | .actTableWrite _ slot offset seg => slot < 8 && offset + seg.length ≤ 65536
  | .stagingBytesWrite _ _ => true
  | .irqPendingWrite _ sub _ => sub < 256
  | .placePosMaskWrite _ _ => true
  | .engineIdWrite _ _ => true
  | .groupTableBaseWrite _ _ => true
  | .objectWrite _ _ _ _ => true
  | .presenceAssert => true
  | .presenceDeassert => true
  | .droopApply => true
  | .droopLift => true
  | .throttleChange _ => true
  | .podVack pod => podOk pod
  | .podVackTimeout pod => podOk pod
  | .podPgoodFall pod => podOk pod
  | .powerOnReset => true
  | .erstNLow => true
  | .startUp bist => bistOk bist
  | .readyRise => true
  | .idleEntry => true
  | .e3Enter _ _ => true
  | .e3Exit _ _ => true
  | .builtinUpdatePodDone pod failing => podOk pod && failing.all (· < 132)
  | .testAccessPort op =>
    match op with
    | .idcode => true
    | .bypass _ => true
    | .sensor _ => true
    | .pllLock => true
    | .fuse place => place < 96
    | .bistPod pod => podOk pod
    | .bistSlice slice => slice < 32
    | .scan pod _ => podOk pod
    | .sector slice bank slot => stageSlotOk (slice, bank, slot)
    | .observe _ => true

end Sys2Proof
end

