-- ==== Sys2Proof/Safety.lean ====
section
/-!
DEFINITION. What statements about the machine say in their own terms: a state between two steps, the paths that reach the
dictionary, and the presence of a refusal.
-/

namespace Sys2Proof.Machine

/-- Between two steps no write and no read of a step is left over, and no undefined case has happened (R7). -/
def State.settled (s : State) : Prop := s.e.wr = [] ∧ s.e.took = [] ∧ s.e.lost = false

/-- The invariant of the block: memory is in its canonical form and lists no address beyond 64 bits (R474), and no write and no
read of a step is left over. -/
def State.Inv (s : State) : Prop := Memory.wf s.mem = true ∧ (∀ c ∈ s.mem, c.1 < 2 ^ 64) ∧ s.e.wr = [] ∧ s.e.took = []

/-- The units that the block is built of (00 Scope; R275, R301, R350, R455): 34 pods, 32 memory ports, 4 fabric ports, 4 Splice links, 32
drains, 8 vector ports, 8 quads, the dictionary's paths with a result each, and the four words of IRQ_PENDING. -/
def Eng.sized (e : Eng) : Prop :=
  e.pods.length = 34 ∧ e.mports.length = 32 ∧ e.link.fports.length = 4 ∧ e.link.slinks.length = 4 ∧ e.drain.units.length = 32 ∧
  e.drain.ports.length = 8 ∧ e.place.gangs.length = 8 ∧ e.dict.paths.length = 3 ∧ e.dict.results.length = 3 ∧ e.chan.irq.length = 4

/-- Runs, tile contexts and attempts have numbers of their own, below the next one to be given. -/
def Eng.numbered (e : Eng) : Prop :=
  ((e.place.runs.map (·.id)).Nodup ∧ ∀ r ∈ e.place.runs, r.id < e.place.nextId) ∧
  ((e.place.ctxs.map (·.id)).Nodup ∧ ∀ c ∈ e.place.ctxs, c.id < e.place.nextId) ∧
  ((e.place.atts.map (·.id)).Nodup ∧ ∀ a ∈ e.place.atts, a.id < e.place.nextId)

/-- What the block holds is within the limits that the rules give: 16 commands of a channel and 128 in all (R317), 1,024 reads and 256
writes outstanding at a memory port (R476, R477), 256 credits of a vector port (R502). The credits of a bank, the entries of its queue and
the credits it owes make 24 for the links and 8 for the crossbar (R140). -/
def Eng.bounded (e : Eng) : Prop :=
  (e.chan.cmds.length ≤ 128 ∧ ∀ ch : Nat, e.chan.cmds.countP (·.ch == ch) ≤ 16) ∧
  (∀ p ∈ e.mports, p.rd.length ≤ 1024 ∧ p.wr.length ≤ 256) ∧
  (∀ p ∈ e.drain.ports, p.credits ≤ 256) ∧
  ∀ b ∈ e.stage.banks, b.2.link + b.2.q.countP (!·.xbar) + b.2.owedLink = 24 ∧ b.2.xbar + b.2.q.countP (·.xbar) + b.2.owedXbar = 8

/-- Memory ports that can make every read (R476, R479): each holds a credit and a tag, and no write is queued or outstanding. -/
def Eng.portsFree (e : Eng) : Prop := ∀ p ∈ e.mports, p.rdCred ≠ 0 ∧ p.rd.length < 1024 ∧ p.wr = [] ∧ p.unsent = []

/-- In service in E0, with a path that reaches the dictionary (R455, R469) and nothing that still follows an earlier access. -/
def Eng.opens (e : Eng) (p : Path) : Prop :=
  e.runs = true ∧ e.dict.paths.length = 3 ∧ e.dict.results.length = 3 ∧ e.power.after = 0 ∧ (p = .tunnel → e.dict.tunnelEnable = true)

/-- Nothing waits for a flit to leave a port: no operation holds packets back (R356), and no collective is in progress (R392). -/
def Eng.nothingHeld (e : Eng) : Prop := (∀ o ∈ e.remote.ops, o.held = []) ∧ e.coll.colls = []

/-- What stands on the way of a pod's column to the Stage: the pod's link, or its place in the combiner of its gang. -/
def Eng.sentTo (e : Eng) (pod col : Nat) : Stream → List PartialW
  | .pod n => e.stage.link (.pod n)
  | .gang g => nget (e.gang g).comb (combKey ((e.pod pod).lpos.getD 0 % 4) col) []
  | .xbar _ | .coll => []

/-- The result that the dictionary recorded for the last access of a path (R467). -/
def Eng.result (e : Eng) (p : Path) : Nat := e.dict.results.getD (pathNum p) 0

/-- Counter `k` of R447 as the step in progress counts it: in the reel that ended while its boundary is made (R448). -/
def Eng.count (e : Eng) (k : Nat) : Nat := nget (if e.inBoundary then e.daily else e.cnt) k 0

/-- The engine apart from the record of dictionary results, which every access writes. -/
def Eng.sansResults (e : Eng) : Eng := { e with dict := { e.dict with results := [] } }

/-- A dictionary write that was performed: its result is OK, memory and the queue stay, and the engine is `e` but for the result. -/
def State.wrote (s t : State) (p : Path) (e : Eng) : Prop :=
  t.pending = s.pending ∧ t.mem = s.mem ∧ t.e.result p = 0 ∧ t.e.sansResults = e.sansResults

/-- A dictionary write that was turned away with result `c`: nothing else changed. -/
def State.turnedAway (s t : State) (p : Path) (c : Nat) : Prop :=
  t.pending = s.pending ∧ t.mem = s.mem ∧ t.e.result p = c ∧ t.e.sansResults = s.e.sansResults

/-- A command of opcode `op` that has been read and may start (R196, R326), with its channel's entry in force. -/
def Eng.startable (e : Eng) (op ch seq : Nat) (m : Cmd) (n : ChanEntry) : Prop :=
  e.cmd? ch seq = some m ∧ (e.ch ch).entry = some n ∧ m.opcode = op ∧ e.mayStart m = true ∧ (e.ch ch).rst = 0

/-- A command that has no tile: no context belongs to it, and no feeder holds a B tile of it. -/
def Eng.tileless (e : Eng) (ch seq : Nat) : Prop :=
  (∀ c ∈ e.place.ctxs, c.ch ≠ ch ∨ c.seq ≠ seq) ∧ ∀ d ∈ e.pods, ∀ f ∈ d.feeders, f.forget ch seq = f

/-- A channel whose completion ring takes the next record: it has room and no earlier record waits (R331, R332). -/
def Eng.ringFree (e : Eng) (ch : Nat) (n : ChanEntry) : Prop :=
  (e.ch ch).room n = true ∧ ∀ x ∈ e.chan.cmds, x.ch = ch → x.phase ≠ .held

/-- Address of the next record of a completion ring (R331). -/
def Eng.recordAt (e : Eng) (ch : Nat) (n : ChanEntry) : Nat := n.cqBase + 32 * ((e.ch ch).cqTail % 2 ^ n.csize)

/-- A command has completed with result `r`: it has left the engine, its record stands in the ring with CQ_TAIL_LOC after it, and no
other byte of memory is written; under SILENT with status OK nothing is written (R330, R331, R335). -/
def State.recorded (s t : State) (m : Cmd) (n : ChanEntry) (r : Result) : Prop :=
  let c := s.e.ch m.ch
  t.e.chan.cmds = s.e.chan.cmds.filter (fun x => !(x.ch == m.ch && x.seq == m.seq)) ∧
  (bit m.raw 9 = true ∧ r.status = 0 → t.mem = s.mem ∧ (t.e.ch m.ch).cqTail = c.cqTail) ∧
  (bit m.raw 9 = false ∨ r.status ≠ 0 → (t.e.ch m.ch).cqTail = (c.cqTail + 1) % 2 ^ 32 ∧
    t.mem = Memory.apply s.mem (wrapWrites
      (placeBytes (s.e.recordAt m.ch n) (leBytes 32 (completionRecord m.ch m.opcode (m.fld 32 32) n.csize c.cqTail m.seq r)) ++
        placeBytes n.cqTailLoc (leBytes 8 ((c.cqTail + 1) % 2 ^ 32)))))

/-- A command has its final result, and nothing else of it has changed; its record follows at COMMAND_COMPLETE. -/
def State.finalResult (s t : State) (ch seq : Nat) (r : Result) : Prop :=
  ∃ m, t.e.cmd? ch seq = some m ∧ m.phase = .final ∧ m.res = r ∧ t.e.chan.cmds.length = s.e.chan.cmds.length

/-- The oldest collective message of `kind` from a port that this engine knows is `p`, and the collective `c` in progress, of the
same signature, takes it (R403, R407). -/
def Eng.hears (e : Eng) (via : Via) (kind : Nat) (p : Packet) (c : Coll) : Prop :=
  e.inFirst via (fun q => q.hdr.cls == 2 && !q.bad.contains 0 && q.coll.kind == kind && e.collKnows q.coll) = some p ∧
  e.coll.colls.find? (fun x => x.group.num == p.coll.group && x.rcd.seq == p.coll.seq) = some c ∧
  p.coll.signature = c.sig ∧ p.bad = []

/-- The engine after a message has been taken: it has left the inbox, its group is cached, and what it says has been noted in its
collective. -/
def Eng.noted (e : Eng) (rd : Nat → Byte) (via : Via) (p : Packet) (f : Coll → Coll) : Eng :=
  ((e.inDrop via p).cacheNamed rd p.coll.group).updColl p.coll.group fun x => f { x with since := e.cue }

/-- A member's part in the only collective in progress has ended (R410, R411): the collective and its staging are gone, DONE has
risen or holds the status, RESULT holds its record, and beside the writes `ws` nothing but DST, in an end that leaves it undefined,
and RESULT has changed. -/
def State.collEnded (s t : State) (c : Coll) (st named : Nat) (late : Bool) (r : Report) (ws : List (Nat × Byte)) : Prop :=
  let ok := endComplete st
  let q : Report := if ok then r else ⟨0, 0, 0, 0, 0⟩
  t.e.coll = { s.e.coll with
    colls := []
    ended := ⟨c.group.num, c.rcd.seq, false, c.joined⟩ ::
      s.e.coll.ended.filter fun x => !(x.group == c.group.num && (x.seq == c.rcd.seq || !x.relay)) } ∧
  t.e.remote.uses = s.e.remote.uses.filter (fun u => u.user != .coll c.group.num) ∧
  (ok = true → t.e.trig c.rcd.done = { s.e.trig c.rcd.done with count := (s.e.trig c.rcd.done).count + 1 } ∧
    (∀ j, j ≠ c.rcd.done → t.e.trig j = s.e.trig j) ∧ t.e.count 32 = s.e.count 32 + 1) ∧
  (ok = false → t.e.remote.trigs = (s.e.trigFail c.rcd.done st 0 named).remote.trigs ∧ t.e.count 33 = s.e.count 33 + 1) ∧
  (c.rcd.result ≠ 0 → rdNat (Memory.get t.mem) c.rcd.result 32 = collResult st named q.slowest c.rcd.seq late q) ∧
  ∀ a : Nat, (ok = true ∨ ∀ x ∈ c.dstBytes s.e.link.ident, x % 2 ^ 64 ≠ a) →
    (c.rcd.result = 0 ∨ a < c.rcd.result ∨ c.rcd.result + 32 ≤ a) →
    Memory.get t.mem a = Memory.get (Memory.apply s.mem (wrapWrites ws)) a

/-- Objects that only hold a value, with the values that their rules allow: IDLE_STATE, IDLE_DELAY, ANCHOR_DEFAULT,
SEG_MAX_DEFAULT, COMPACT_BIAS, STALL_LIMIT, REEXEC_LIMIT, REPLAY_LIMIT, BANK_CE_LIMIT, SCREEN_SPACING, BUILTIN_IMAGE_LEN and BUILTIN_IMAGE_CRC. -/
def plainReg (index sub n : Nat) : Prop :=
  (index = 0x2010 ∧ sub = 2 ∧ n ≤ 2) ∨ (index = 0x2010 ∧ sub = 3 ∧ 10 ≤ n ∧ n ≤ 10000000) ∨
  (index = 0x2310 ∧ sub = 2 ∧ (n < 2048 ∨ 2 ^ 32 - 2048 ≤ n ∧ n < 2 ^ 32)) ∨
  (index = 0x5000 ∧ sub = 1 ∧ n % 32 = 0 ∧ 32 ≤ n ∧ n ≤ 32768) ∨ (index = 0x5010 ∧ sub = 1 ∧ 0 < n ∧ n < 2 ^ 16) ∨
  (index = 0x6050 ∧ sub = 4 ∧ n < 2 ^ 32) ∨ (index = 0x7010 ∧ sub = 1 ∧ 1 ≤ n ∧ n ≤ 15) ∨ (index = 0x7010 ∧ sub = 2 ∧ n ≤ 15) ∨
  (index = 0x7010 ∧ sub = 3 ∧ 0 < n ∧ n < 2 ^ 32) ∨ (index = 0x8020 ∧ sub = 1 ∧ n < 2 ^ 32) ∨
  (index = 0x8060 ∧ sub = 2 ∧ n < 2 ^ 32) ∨ (index = 0x8060 ∧ sub = 3 ∧ n < 2 ^ 32)

/-- Bytes of a scalar object. -/
def regBytes (index sub : Nat) : Nat := ((findObj index sub).map (·.len)).getD 0

end Sys2Proof.Machine
end

