-- ==== Sys2Proof/Certificates/Slice0/Obligations.lean ====
section
/-!
DEFINITION. The statements about the block. Each docstring names the rules of spec/ that a statement follows.
-/

open Sys2Proof Sys2Proof.Machine

/-! ### The queue and the invariant -/

/-- A step takes the command at the front of the queue and runs it with the queue's rest. -/
def Obligations.StepRunsTheFrontCommand : Prop :=
  ∀ (c : Instr) (r : List Instr) (s : State),
    step { s with pending := c :: r } = exec c { s with pending := r }

/-- With no command waiting a step is one cycle of the block (the model's choice, log entry 10): in E0 the cue advances by one (R221),
unless a cue-launched action is due in this cycle (R222), and a throttle level that waits takes effect at a multiple of 8 (R540);
memory, the pods, the Stage, the tiles and the channels stay as they are while no collective is in progress that a flit's leaving
lets go on. That POR_N is high from here on is the model's choice too (log entry 144). After an undefined case ACLK's domain does
nothing (log entry 51). -/
def Obligations.EmptyQueuePassesOneCycle : Prop :=
  (∀ s : State, s.pending = [] → s.e.wr = [] → s.e.took = [] → s.e.lost = true →
    ∃ t : State, step s = .next t ∧ t.mem = s.mem ∧ t.e.cue = s.e.cue ∧ t.e.pods = s.e.pods ∧ t.e.stage = s.e.stage ∧
      t.e.place = s.e.place ∧ t.e.chan = s.e.chan ∧ t.e.drain = s.e.drain ∧ t.e.remote = s.e.remote ∧ t.e.coll = s.e.coll ∧
      t.e.mports = s.e.mports ∧ t.e.throttle = s.e.throttle ∧ t.e.lost = true) ∧
  ∀ s : State, s.settled → s.pending = [] → s.e.coreOn = true → s.e.power.estate = 0 →
    ∃ t : State, step s = .next t ∧ t.pending = [] ∧ t.e.dict.winBusy = false ∧ t.e.power = { s.e.power with porLow := false } ∧
      (s.e.coll.colls = [] → t.mem = s.mem ∧ t.e.pods = s.e.pods ∧ t.e.stage = s.e.stage ∧ t.e.place = s.e.place ∧
        t.e.chan = s.e.chan ∧ t.e.health = s.e.health) ∧
      (s.e.dueNow = true → t.e.cue = s.e.cue ∧ t.e.throttle = s.e.throttle ∧ t.e.throttleNext = s.e.throttleNext) ∧
      (s.e.dueNow = false → t.e.cue = s.e.cue + 1 ∧
        (s.e.throttleNext = none → t.e.throttle = s.e.throttle) ∧
        (∀ l, s.e.throttleNext = some l → (s.e.cue + 1) % 8 ≠ 0 → t.e.throttle = s.e.throttle ∧ t.e.throttleNext = some l) ∧
        (∀ l, s.e.throttleNext = some l → (s.e.cue + 1) % 8 = 0 → t.e.throttle = l ∧ t.e.throttleNext = none))

/-- The state after power-on reset meets the invariants. -/
def Obligations.ResetStateIsCanonical : Prop :=
  State.reset.Inv ∧ State.reset.e.sized ∧ State.reset.e.numbered ∧ State.reset.e.bounded

/-- Every step keeps the invariant: memory stays in its canonical form within 64-bit addresses (R474), and no write and no read of a
step is left over. -/
def Obligations.EveryStepKeepsMemoryCanonical : Prop :=
  ∀ s t : State, s.Inv → step s = .next t → t.Inv

/-- Every step keeps the units that the block is built of: no command adds or loses a pod, a memory port, a fabric port, a Splice
link, a drain, a vector port, a quad or a path of the dictionary (00 Scope; R275, R301, R350, R455). -/
def Obligations.EveryStepKeepsTheUnits : Prop :=
  ∀ s t : State, s.e.sized → step s = .next t → t.e.sized

/-- Every step keeps runs, tile contexts and attempts apart by their numbers, and keeps within the limits on commands (R317), on what
is outstanding at a memory port (R476, R477), on the credits of a vector port (R502) and on those of a bank (R140). -/
def Obligations.EveryStepKeepsNumbersAndLimits : Prop :=
  (∀ s t : State, s.e.numbered → step s = .next t → t.e.numbered) ∧
  ∀ s t : State, s.e.bounded → step s = .next t → t.e.bounded

/-- No command touches the commands that wait behind it. Every command answers with a next state, in every state. An undefined case is
a read beat that no unit outstanding under its tag awaits, or a write acknowledgement whose tag is not outstanding on its port,
while the engine is READY (Ports, Links and Clocks, undefined cases); what follows one is the model's choice (log entry 51), and
power-on reset ends it always, ERST_N, an engine reset and the START_UP of a reset whose replies never come end it too (R7). -/
def Obligations.EveryCommandAnswers : Prop :=
  (∀ (c : Instr) (s t : State), exec c s = .next t → t.pending = s.pending) ∧
  ((∀ (c : Instr) (s : State), ∃ t, exec c s = .next t ∧
     (s.e.lost = false → (t.e.lost = true ↔ s.e.ready = true ∧
       ((∃ port tag half err ups, c = .memoryReadBeat port tag half err ups ∧
           ∀ q, (s.e.port port).rd.find? (fun r => r.tag == tag) = some q → ∀ j < 4, q.mask.testBit (4 * b2n half + j) = false) ∨
         ∃ port tag err, c = .memoryWriteAck port tag err ∧ ∀ w ∈ (s.e.port port).wr, w.tag ≠ tag)))) ∧
   ∀ s : State, s.e.wr = [] → s.e.took = [] →
     (∃ t, exec .powerOnReset s = .next t ∧ t.e.lost = false) ∧
     (s.e.power.porLow = false → s.e.power.estate ≠ 3 → s.e.power.entry = none → s.e.power.t0 = true →
       s.e.owesReply = false → s.e.health.burning = [] → ∃ t, exec .erstNLow s = .next t ∧ t.e.lost = false ∧ t.e.ready = false) ∧
     (∀ p, s.e.opens p → s.e.owesReply = false → s.e.health.burning = [] →
       ∃ t, exec (.engineReset p 0xE5) s = .next t ∧ t.e.lost = false ∧ t.e.ready = false) ∧
     ∀ (b : Bist) (g : Entering), b.forgone = true → s.e.power.entry = some g → s.e.power.estate ≠ 3 → s.e.power.t0 = false →
       s.e.health.burning = [] → ∃ t, exec (.startUp b) s = .next t ∧ t.e.lost = false)

/-! ### Presence, resets, start-up, power states, the test access port -/

/-- PRESENCE_ASSERT and PRESENCE_DEASSERT (R470): presence follows the pin, once it has been low for 10 ms, which the command stands
for (log entry 150), and its loss returns DEBUG_UNLOCK to 0; nothing else changes. TEST_ACCESS_PORT (R510, R511): IDCODE shifts
out SILICON_REV[3:0], 0x4B04, the manufacturer code and 1; BYPASS its bit; the sensors and the PLL lock monitors a value of the
physical world, the fuse and BIST instruments what State holds, and under DEBUG_UNLOCK the scan chain of a pod in OUT or RETIRED,
which also takes what is shifted in, the 41 bytes of a sector, and the clock observation. An instrument out of reach gives
nothing, and no access changes anything else: that, and how an instrument lays out what it gives, is the model's choice (log entry
124; the values themselves: log entries 22, 119). -/
def Obligations.PresenceAndTestAccess : Prop :=
  (∀ s : State, s.settled →
     exec .presenceAssert s = .next { s with e := { s.e with power := { s.e.power with presence := true } } } ∧
     exec .presenceDeassert s = .next { s with e := { s.e with
       power := { s.e.power with presence := false }
       dict := { s.e.dict with debugUnlock := false } } }) ∧
  (∀ s : State, s.settled →
     let out := fun (l : List (BitVec 64)) => { s with e := { s.e with power := { s.e.power with tdo := s.e.power.tdo ++ l } } }
     let gives := fun (n : Nat) => ({ s with e := { s.e with
       free := s.e.free + 1, power := { s.e.power with tdo := s.e.power.tdo ++ [Config.instrument n s.e.free] } } } : State)
     (∃ v : BitVec 64, v.extractLsb' 0 1 = 1 ∧ v.extractLsb' 1 11 = Config.manufacturer ∧ v.extractLsb' 12 16 = 0x4B04 ∧
       v.extractLsb' 28 4 = Config.siliconRev.extractLsb' 0 4 ∧ v.extractLsb' 32 32 = 0 ∧
       exec (.testAccessPort .idcode) s = .next (out [v])) ∧
     (∀ b : Bool, exec (.testAccessPort (.bypass b)) s = .next (out [if b then 1 else 0])) ∧
     (∀ n : Nat, exec (.testAccessPort (.sensor n)) s = .next (gives n)) ∧
     exec (.testAccessPort .pllLock) s = .next (gives 65536) ∧
     (∀ n : Nat, exec (.testAccessPort (.fuse n)) s = .next (out [BitVec.ofNat 64 (s.e.health.fuses.getD n 0)])) ∧
     (∀ n : Nat, exec (.testAccessPort (.bistPod n)) s =
       .next (out [BitVec.ofNat 64 (s.e.objNat 0x3020 (n + 1) + b2n ((s.e.pod n).svc == .retired) * 2 ^ 32)])) ∧
     (∀ n : Nat, exec (.testAccessPort (.bistSlice n)) s =
       .next (out [BitVec.ofNat 64 (s.e.objNat 0x3410 (n + 1)), BitVec.ofNat 64 (s.e.stage.sliceState n)])) ∧
     (∀ (n : Nat) (v : Option (BitVec 64)), s.e.dict.debugUnlock = true → n < 34 → (s.e.pod n).svc = .out ∨ (s.e.pod n).svc = .retired →
       exec (.testAccessPort (.scan n v)) s = .next { gives (65537 + n) with e := (gives (65537 + n)).e.updPod n fun d =>
         { d with scan := v.getD d.scan } }) ∧
     (∀ (n : Nat) (v : Option (BitVec 64)),
       s.e.dict.debugUnlock = false ∨ 34 ≤ n ∨ ((s.e.pod n).svc ≠ .out ∧ (s.e.pod n).svc ≠ .retired) →
       exec (.testAccessPort (.scan n v)) s = .next s) ∧
     (∀ i b k : Nat, (s.e.dict.debugUnlock = false ∨ 32 ≤ i ∨ 136 ≤ b ∨ 2048 ≤ k → exec (.testAccessPort (.sector i b k)) s = .next s) ∧
       (s.e.dict.debugUnlock = true → i < 32 → b < 128 → k < 2048 → exec (.testAccessPort (.sector i b k)) s =
         .next (out ((List.range 6).map fun j => BitVec.ofNat 64 (leNat (((s.e.sectorImage i b k).drop (8 * j)).take 8)))))) ∧
     (∀ on : Bool, (s.e.dict.debugUnlock = true → exec (.testAccessPort (.observe on)) s =
         .next { s with e := { s.e with power := { s.e.power with observe := on } } }) ∧
       (s.e.dict.debugUnlock = false → exec (.testAccessPort (.observe on)) s = .next s)))

/-- DROOP_APPLY, DROOP_LIFT and THROTTLE_CHANGE in E0 (R539 to R542): the droop mask opens no slot outside T and 0x55 and abandons the
screen tests (R530); it is lifted at a cue that is a multiple of 8 and at no other; a throttle level that two samples agree on
waits (R505; one command is one sample: log entry 121). IDLE_ENTRY (R532, R533): an idle engine enters the state that IDLE_STATE
asks for; E2 also takes the pods' power; the time in E0 is counted (which number it is, is the model's free value: log entry 111);
with IDLE_STATE 0, or while it is not idle, it stays in E0. -/
def Obligations.IdleAndIssueMaskFollow : Prop :=
  (∀ s : State, s.settled → s.e.power.estate = 0 →
     (∃ t : State, exec .droopApply s = .next t ∧ t.e.droop = true ∧ t.mem = s.mem ∧ t.e.cue = s.e.cue ∧ t.e.throttle = s.e.throttle ∧
       t.e.slotOpen = (throttleMask s.e.throttle &&& 0x55).testBit (s.e.cue % 8) ∧
       t.e.health.screenArmed = none ∧ ∀ n < 34, (t.e.pod n).svc ≠ .screenTest) ∧
     (s.e.droop = true → s.e.cue % 8 = 0 →
       ∃ t : State, exec .droopLift s = .next t ∧ t.e.droop = false ∧ t.mem = s.mem ∧
         t.e.slotOpen = (throttleMask s.e.throttle).testBit (s.e.cue % 8)) ∧
     ((s.e.droop = false ∨ s.e.cue % 8 ≠ 0) → exec .droopLift s = .next s) ∧
     ∀ level : BitVec 3,
       (level.toNat = s.e.throttleSeen →
         exec (.throttleChange level) s = .next { s with e := { s.e with throttleNext := some level.toNat } }) ∧
       (level.toNat ≠ s.e.throttleSeen →
         exec (.throttleChange level) s = .next { s with e := { s.e with throttleSeen := level.toNat } })) ∧
  (∀ s : State, s.settled → s.e.runs = true →
     let e := s.e.passTime
     (s.e.idle = true → s.e.power.idleState = 1 →
       exec .idleEntry s = .next { s with e := { e with power := { e.power with estate := 1 } } }) ∧
     (s.e.idle = true → s.e.power.idleState = 2 →
       exec .idleEntry s = .next { s with e := { e with
         power := { e.power with estate := 2 }, pods := s.e.pods.map fun d => { d with pwrReq := false } } }) ∧
     (s.e.idle = false ∨ s.e.power.idleState = 0 → exec .idleEntry s = .next s))

/-- POWER_ON_RESET (R520, R530, R531): everything but the fuses is at its default, READY is 0, RESET_COUNT is 1 and RESET_CAUSE 1,
CORE_PWR_REQ is 0, and the records of a burn in progress count as used. That what stands on a memory port is answered later, and
which writes are lost, are the model's choices (log entries 45, 102). ERST_N_LOW (R520, R527, R528, R530, R537): in service or in
start-up an engine reset begins, and READY falls; once no reply is owed and no burn in progress it leaves the channels DISABLED
and their table at 0, with cause 2 and one count more, and until then only READY and the ports have changed (step 3 of R528). In
E3 it starts the return from E3; during an entry it makes it one of an engine reset (the model's choice for an entry to E3, log
entry 148); in an engine reset that the dictionary began, only the cause changes; while POR_N is low nothing. What a reset keeps
beside the words of R531 is the model's choice (log entries 45, 102, 117, 139). -/
def Obligations.ResetsLeaveDefaults : Prop :=
  (∀ s : State, ∃ t : State, exec .powerOnReset s = .next t ∧ t.e.ready = false ∧ t.e.cue = 0 ∧ t.e.corePwrReq = false ∧
     t.e.power = { PowerSt.reset with porLow := true } ∧
     t.e.pods = Eng.reset.pods ∧ t.e.stage = Stage.reset ∧ t.e.place = Place.reset ∧ t.e.drain = DrainSt.reset ∧
     t.e.chan = ChanSt.reset ∧ t.e.remote = RemoteSt.reset ∧ t.e.coll = CollSt.reset ∧ t.e.dict = DictSt.reset ∧
     t.e.ring = RingSt.reset ∧ t.e.cnt = [] ∧ t.e.daily = [] ∧
     t.e.health = { HealthSt.reset with
       fuses := s.e.health.fuses, fusesUsed := s.e.health.fusesUsed + s.e.health.burning.length } ∧
     t.e.mports = s.e.mports.map MemPort.bare) ∧
  (∀ s : State, s.settled →
     (s.e.power.porLow = true → exec .erstNLow s = .next s) ∧
     (s.e.power.porLow = false → s.e.power.estate ≠ 3 → s.e.power.entry = none → s.e.power.t0 = true →
       ∃ t : State, exec .erstNLow s = .next t ∧ t.e.ready = false ∧ t.e.power.t0 = false ∧ t.e.corePwrReq = true ∧
         t.e.health.fuses = s.e.health.fuses ∧ t.e.health.burning = s.e.health.burning ∧ t.e.ring.queue = s.e.ring.queue ∧
         t.e.owesReply = s.e.owesReply ∧
         (s.e.owesReply = false → s.e.health.burning = [] → t.e.power.resetCause = 2 ∧ t.e.power.entry = none ∧
           t.e.power.resetCount = s.e.power.resetCount + 1 ∧ t.e.chan = ChanSt.reset ∧
           t.e.pods = Eng.reset.pods ∧ t.e.stage = Stage.reset ∧ t.e.remote = { RemoteSt.reset with tag := s.e.remote.tag } ∧
           t.e.coll = CollSt.reset) ∧
         (s.e.owesReply = true ∨ s.e.health.burning ≠ [] → t.e.power.entry = some (.reset 2) ∧
           t.e.power.resetCount = s.e.power.resetCount ∧ t.e.power.resetCause = s.e.power.resetCause ∧ t.e.chan = s.e.chan ∧
           t.e.pods = s.e.pods ∧ t.e.stage = s.e.stage ∧ t.e.place = s.e.place ∧ t.e.mports = s.e.mports.map MemPort.bare)) ∧
     (s.e.power.porLow = false → s.e.power.estate = 3 → exec .erstNLow s = .next { s with e := s.e.leaveE3 }) ∧
     (∀ g : Entering, s.e.power.porLow = false → s.e.power.estate ≠ 3 → s.e.power.entry = some g →
       exec .erstNLow s = .next { s with e := { s.e with power := { s.e.power with entry := some (.reset 2) } } }) ∧
     (s.e.power.porLow = false → s.e.power.estate ≠ 3 → s.e.power.entry = none → s.e.power.t0 = false → s.e.power.resetCause = 3 →
       s.e.power.fromE3 = false →
       exec .erstNLow s = .next { s with e := { s.e with power := { s.e.power with resetCause := 2 } } }))

/-- START_UP (R509, R516, R520, R524, R201): at T0, with no burn in progress and every reply come, or none coming any more, the steps
of a reset that waited for them are made, and start-up takes the straps, trains the enabled links, and keeps RESET_COUNT, or after
E3 raises it with cause 4 (R537); with nothing failing and no fuse record, pods 0 to 31 serve their positions and the other two
are spares. While a reply is still to come it waits. That the step is told what the tests find and that replies never come, and
how it names them, is the model's choice (log entries 13, 106, 118, 145). READY_RISE (R515, R524, R525): READY rises once every
enabled link has settled, and start-up is over; before that nothing changes. -/
def Obligations.StartUpBringsReady : Prop :=
  (∀ (s : State) (b : Bist), s.settled → s.e.power.estate ≠ 3 → s.e.power.t0 = false → s.e.health.burning = [] →
     (s.e.owesReply = true → b.forgone = false → exec (.startUp b) s = .next s) ∧
     (s.e.owesReply = false ∨ b.forgone = true → s.e.power.entry = none →
     ∃ t : State, exec (.startUp b) s = .next t ∧ t.e.ready = s.e.ready ∧ t.e.power.t0 = true ∧ t.e.power.spliceEn = b.spliceEn ∧
       t.e.corePwrReq = true ∧ t.e.owesReply = false ∧ (s.e.owesReply = false → t.mem = s.mem) ∧
       t.e.chkgen = b.chkgen ∧ t.e.coll = s.e.coll ∧ t.e.dict = s.e.dict ∧ t.e.health.fuses = s.e.health.fuses ∧
       (s.e.power.fromE3 = true → t.e.power.resetCount = s.e.power.resetCount + 1 ∧ t.e.power.resetCause = 4) ∧
       (s.e.power.fromE3 = false → t.e.power.resetCount = s.e.power.resetCount ∧ t.e.power.resetCause = s.e.power.resetCause) ∧
       (s.e.link.slinks.length = 4 → ∀ n < 4, (t.e.link.slinks[n]?).map SLink.enabled = some (b.spliceEn.getLsbD n) ∧
         (t.e.link.slinks[n]?).map SLink.st = some (b2n (b.spliceEn.getLsbD n))) ∧
       (b.banks = [] → b.columns = [] → s.e.health.fuses = [] → s.e.pods = Eng.reset.pods → s.e.stage = Stage.reset →
         (∀ n < 32, (t.e.pod n).svc = .inService ∧ (t.e.pod n).lpos = some n) ∧
         (t.e.pod 32).svc = .out ∧ (t.e.pod 32).lpos = none ∧ (t.e.pod 33).svc = .out ∧ (t.e.pod 33).lpos = none)) ∧
     (∀ c : Nat, s.e.owesReply = false ∨ b.forgone = true → s.e.power.entry = some (.reset c) → s.e.power.fromE3 = false →
       ∃ t : State, exec (.startUp b) s = .next t ∧ t.e.ready = false ∧ t.e.power.t0 = true ∧ t.e.power.entry = none ∧
         t.e.power.resetCount = s.e.power.resetCount + 1 ∧ t.e.power.resetCause = BitVec.ofNat 8 c ∧ t.e.owesReply = false ∧
         t.e.coll = CollSt.reset ∧ t.e.dict = DictSt.reset ∧
         (b.banks = [] → b.columns = [] → s.e.health.fuses = [] →
           t.e.chan = ChanSt.reset ∧ ∀ n < 32, (t.e.pod n).svc = .inService ∧ (t.e.pod n).lpos = some n))) ∧
  (∀ s : State, s.settled → s.e.power.t0 = true → s.e.power.estate ≠ 3 → s.e.ready = false →
     ((∀ l ∈ s.e.link.slinks, l.enabled = true → l.st = 3 ∨ l.st = 5 ∨ l.st = 6) →
       ∃ t : State, exec .readyRise s = .next t ∧ t.e.ready = true ∧ t.e.power = { s.e.power with step := 0 } ∧ t.mem = s.mem ∧
         t.e.pods = s.e.pods ∧ t.e.stage = s.e.stage ∧ t.e.link = s.e.link ∧
         (s.e.vacant ≠ [] → t.e.health.exPods = true) ∧ (s.e.vacant = [] → t.e.health = s.e.health)) ∧
     ((∃ l ∈ s.e.link.slinks, l.enabled = true ∧ l.st ≠ 3 ∧ l.st ≠ 5 ∧ l.st ≠ 6) → exec .readyRise s = .next s))

/-! ### Reels, screen tests, pods, fuses, updates -/

/-- SCREEN_SPACING_EXPIRY (R439) and REEL_BOUNDARY_INTERVAL (R447, R448): once SCREEN_SPACING has passed since the start of the
previous periodic test, and no pod is on its way to one, a periodic test is due; at the cue value of the interval the reel ends:
its counters become the daily ones, the new reel counts from zero, and the daily header holds the reel's number, its first and
last cue, no mark, and cause 2. -/
def Obligations.PeriodicEventsFallDue : Prop :=
  ∀ s : State, s.settled → s.e.runs = true →
    (s.e.health.screenSpacing ≠ 0 → s.e.health.screenSince + s.e.health.screenSpacing.toNat * 2 ^ 20 ≤ s.e.cue →
      (∀ n, s.e.health.screenTurn = some n → (s.e.pod n).why ≠ some .screen) →
      exec .screenSpacingExpiry s = .next { s with e := { s.e with health := { s.e.health with screenDue := true } } }) ∧
    ((s.e.health.screenSpacing = 0 ∨ s.e.cue < s.e.health.screenSince + s.e.health.screenSpacing.toNat * 2 ^ 20 ∨
        ∃ n, s.e.health.screenTurn = some n ∧ (s.e.pod n).why = some .screen) →
      exec .screenSpacingExpiry s = .next s) ∧
    (s.e.health.reelDue = some s.e.cue → (∀ x, s.e.health.reelLast = some x → x.1 ≠ s.e.cue) →
      ∃ t : State, exec .reelBoundaryInterval s = .next t ∧ t.mem = s.mem ∧ t.e.cue = s.e.cue ∧
        t.e.health.reelNumber = s.e.health.reelNumber + 1 ∧ t.e.health.reelStart = BitVec.ofNat 64 s.e.cue ∧
        t.e.daily = s.e.cnt ∧ t.e.setDaily = s.e.setCnt ∧ t.e.cnt = [] ∧ t.e.setCnt = [] ∧
        fld (leNat t.e.health.header) 0 64 = s.e.health.reelNumber.toNat ∧
        fld (leNat t.e.health.header) 64 64 = s.e.health.reelStart.toNat ∧
        fld (leNat t.e.health.header) 128 64 = s.e.cue % 2 ^ 64 ∧ fld (leNat t.e.health.header) 192 32 = 0 ∧
        fld (leNat t.e.health.header) 224 8 = 2 ∧
        t.e.place = s.e.place ∧ t.e.chan = s.e.chan ∧ t.e.stage.sectors = s.e.stage.sectors) ∧
    (s.e.health.reelDue ≠ some s.e.cue → exec .reelBoundaryInterval s = .next s)

/-- SCREEN_TEST_START and SCREEN_TEST_END (R438, R439, R441, R442): at its cue value the armed pod in OUT begins the test of its next
stress under the limited value of that stress; a test that passes returns it to OUT with PASS and one test more in SCREEN_RESULT,
free of its fault; a test that fails within the free spares maps them and goes on, and one that fails beyond them retires the pod,
with fault code 0x40. That a test ends under the value applied at its start, and that the pod's voltage is asked back at its end,
are the model's choices (log entry 97). POD_BIST_DONE, BUILTIN_UPDATE_POD_DONE and FUSE_BURN_COMPLETE (R428, R444, R445, R446,
R506, R529): a pod whose voltage has settled and that passes its built-in test enters OUT with the set in force, free of no fault
that a screen test must still judge, and one beyond its spares has a pod fault, and the set all the same; a pod that has loaded an
update holds the new set and leaves the queue, or is retired where its patterns fail; a burn makes its records hold, or fails, and
uses them either way (the model's choice for a burn that fails: log entry 100), and a reset that waited for it goes on (step 3 of
R528). -/
def Obligations.PodServiceGoesOn : Prop :=
  (∀ (s : State) (pod : Nat), s.settled → s.e.runs = true →
     (s.e.health.screenArmed = some (pod, s.e.cue) → (s.e.pod pod).svc = .out → (s.e.pod pod).task = .idle → s.e.droop = false →
       (∀ x ∈ s.e.place.trans, x.pod ≠ pod) →
       ∃ t : State, exec (.screenTestStart pod) s = .next t ∧ t.mem = s.mem ∧ t.e.health.screenArmed = none ∧
         (t.e.pod pod).svc = .screenTest ∧ (t.e.pod pod).task = .testing ∧ (t.e.pod pod).stress = s.e.nextStress pod ∧
         (t.e.pod pod).applied = min (fld s.e.health.screenSettings.toNat (8 * (s.e.nextStress pod - 1)) 8)
           (fld s.e.health.screenLimits.toNat (8 * (s.e.nextStress pod - 1)) 8) ∧
         (s.e.health.screenTurn = some pod → (s.e.pod pod).why = some .screen → t.e.health.screenSince = s.e.cue) ∧
         (∀ n, n ≠ pod → t.e.pod n = s.e.pod n) ∧ t.e.place = s.e.place ∧ t.e.stage = s.e.stage) ∧
     ((s.e.pod pod).svc = .screenTest → (s.e.pod pod).task = .testing → (s.e.pod pod).vreq = (s.e.pod pod).vack →
       (∃ t : State, exec (.screenTestEnd pod []) s = .next t ∧ t.mem = s.mem ∧ (t.e.pod pod).svc = .out ∧
         (t.e.pod pod).task = .idle ∧ (t.e.pod pod).faulted = false ∧ (t.e.pod pod).pgood = true ∧ (t.e.pod pod).tested = true ∧
         (t.e.pod pod).screen = screenResult (s.e.pod pod).screen (s.e.pod pod).stress true false 0 ∧
         (t.e.pod pod).spares = (s.e.pod pod).spares ∧ t.e.stage = s.e.stage ∧ t.e.chan = s.e.chan) ∧
       ∀ bad : List Nat, bad ≠ [] → bad.Nodup → (∀ c ∈ bad, c < 132) →
         ∃ t : State, exec (.screenTestEnd pod bad) s = .next t ∧ t.mem = s.mem ∧ t.e.stage = s.e.stage ∧
           faultEntry 0x40 0 pod 0 none false s.e.cue ∈ t.e.health.log ∧
           ((s.e.pod pod).repairable bad = true → (t.e.pod pod).svc = .screenTest ∧
             (t.e.pod pod).spares = ((s.e.pod pod).repair bad).spares) ∧
           ((s.e.pod pod).repairable bad = false → (t.e.pod pod).svc = .retired ∧
             faultEntry 0x39 0 pod 0 none false s.e.cue ∈ t.e.health.log))) ∧
  (∀ (s : State) (pod : Nat), s.settled →
     (s.e.runs = true → (s.e.pod pod).svc = .out → (s.e.pod pod).task = .bist → (s.e.pod pod).vreq = (s.e.pod pod).vack →
       (∃ t : State, exec (.podBistDone pod []) s = .next t ∧ t.mem = s.mem ∧ (t.e.pod pod).svc = .out ∧ (t.e.pod pod).task = .idle ∧
         (t.e.pod pod).version = s.e.health.setVersion ∧ (t.e.pod pod).faulted = (s.e.pod pod).faulted ∧ (t.e.pod pod).pgood = true) ∧
       ∀ bad : List Nat, bad ≠ [] → bad.Nodup → (∀ c ∈ bad, c < 132) → (s.e.pod pod).repairable bad = false → pod < 34 →
         ∃ t : State, exec (.podBistDone pod bad) s = .next t ∧ (t.e.pod pod).faulted = true ∧ (t.e.pod pod).lpos = none ∧
           (t.e.pod pod).version = s.e.health.setVersion) ∧
     (s.e.runs = true → (s.e.pod pod).svc = .out → (s.e.pod pod).task = .loading → (s.e.pod pod).vreq = (s.e.pod pod).vack →
       (∃ t : State, exec (.builtinUpdatePodDone pod []) s = .next t ∧ t.mem = s.mem ∧ (t.e.pod pod).svc = .out ∧
         (t.e.pod pod).task = .idle ∧ (t.e.pod pod).version = s.e.health.setVersion ∧
         t.e.health.updDone = s.e.health.updDone + 1 ∧ pod ∉ t.e.health.updQueue ∧
         (t.e.health.updBusy = true ↔ t.e.health.updQueue ≠ [])) ∧
       ∀ bad : List Nat, bad ≠ [] →
         ∃ t : State, exec (.builtinUpdatePodDone pod bad) s = .next t ∧ t.mem = s.mem ∧ (t.e.pod pod).svc = .retired) ∧
     (s.e.health.burning ≠ [] → ∀ ok : Bool,
       let fuses := if ok then s.e.health.fuses ++ s.e.health.burning else s.e.health.fuses
       let used := s.e.health.fusesUsed + s.e.health.burning.length
       (s.e.power.entry = none → exec (.fuseBurnComplete ok) s = .next { s with e := { s.e with health := { s.e.health with
         fuses := fuses, fusesUsed := used, burning := [], burnFailed := !ok } } }) ∧
       (∀ c : Nat, s.e.power.entry = some (.reset c) → s.e.owesReply = false →
         ∃ t : State, exec (.fuseBurnComplete ok) s = .next t ∧ t.e.health.fuses = fuses ∧ t.e.health.fusesUsed = used ∧
           t.e.power.resetCount = s.e.power.resetCount + 1 ∧ t.e.power.resetCause = BitVec.ofNat 8 c ∧ t.e.power.entry = none)))

/-- POD_VACK, POD_VACK_TIMEOUT, POD_PGOOD_FALL and POD_FAULT (R506, R507, R428, R442): an acknowledged offset lets the next one that
waits be asked for; a rail that does not settle, power that fails, a failing clock and a store error are pod faults with code
0x41, a residue fault one with 0x10: the pod leaves its position and is OUT with its fault, or retired where it had passed a test
after a fault in this reel. SERVICE_TRANSITION and POD_ROTATION_REQUEST (R222, R224, R226, R227, R440): at its cue value a free
pod enters the position it was sent to, or a pod that has drained leaves, and a free pod takes its place (which one is the model's
choice, log entry 129); a rotation that is due, with no other pod rotated out and a spare free or none needed, begins by draining
the pod. -/
def Obligations.PodsAreReplaced : Prop :=
  (∀ (s : State) (pod : Nat), s.settled → s.e.runs = true → pod < 34 →
     ((s.e.pod pod).vreq ≠ (s.e.pod pod).vack →
       ∃ t : State, exec (.podVack pod) s = .next t ∧ t.mem = s.mem ∧ (t.e.pod pod).vack = (s.e.pod pod).vreq ∧
         (t.e.pod pod).voff = (s.e.pod pod).vwant ∧
         ((s.e.pod pod).vwant = (s.e.pod pod).voff → (t.e.pod pod).vreq = (s.e.pod pod).vreq) ∧
         ((s.e.pod pod).vwant ≠ (s.e.pod pod).voff → (t.e.pod pod).vreq = !(s.e.pod pod).vreq) ∧
         ∀ n, n ≠ pod → t.e.pod n = s.e.pod n) ∧
     ((s.e.pod pod).svc ≠ .retired →
       ∀ c : Instr,
         (c = .podVackTimeout pod ∧ (s.e.pod pod).vreq ≠ (s.e.pod pod).vack ∨ c = .podPgoodFall pod ∧ (s.e.pod pod).pwrReq = true ∨
           (∃ col, c = .podFault pod .clock col) ∨ (∃ col, c = .podFault pod .store col) ∧ s.e.serves pod = true ∨
           (∃ col, c = .podFault pod .powerGood col) ∧ (s.e.pod pod).pwrReq = true ∨
           (∃ col, c = .podFault pod .residue col) ∧ s.e.serves pod = true) →
         ∃ t : State, exec c s = .next t ∧ t.mem = s.mem ∧ (t.e.pod pod).lpos = none ∧ (t.e.pod pod).faulted = true ∧
           (t.e.pod pod).svc = (if (s.e.pod pod).passed then .retired else .out) ∧
           ∃ x ∈ t.e.health.log, x.extractLsb' 0 8 = (match c with | .podFault _ .residue _ => 0x10 | _ => 0x41) ∧
             x.extractLsb' 16 8 = BitVec.ofNat 8 pod)) ∧
  (∀ (s : State) (pod : Nat), s.settled → s.e.runs = true →
     (∀ (c : Nat) (p : Nat), s.e.place.trans.find? (fun t => t.pod == pod && t.cue == s.e.cue) = some ⟨c, pod, some p⟩ →
       (s.e.pod pod).svc = .out → (s.e.pod pod).task = .idle → (s.e.pod pod).faulted = false → (s.e.pod pod).pgood = true →
       pod < 34 → s.e.served p = false → p ∉ s.e.stage.withdrawn →
       ∃ t : State, exec (.serviceTransition pod) s = .next t ∧ t.mem = s.mem ∧ (t.e.pod pod).svc = .inService ∧
         (t.e.pod pod).lpos = some p ∧ ∀ x ∈ t.e.place.trans, x.pod ≠ pod) ∧
     (∀ (c : Nat) (p : Nat), s.e.place.trans.find? (fun t => t.pod == pod && t.cue == s.e.cue) = some ⟨c, pod, none⟩ →
       (s.e.pod pod).lpos = some p → (s.e.pod pod).svc = .draining →
       ∃ t : State, exec (.serviceTransition pod) s = .next t ∧ t.mem = s.mem ∧ (t.e.pod pod).svc = .out ∧
         (t.e.pod pod).lpos = none ∧
         (∀ n, s.e.freePod = some n → (t.e.pod n).svc = .inService ∧ (t.e.pod n).lpos = some p) ∧
         (s.e.freePod = none → t.e.health.exPods = true)) ∧
     (∀ why : RotateFor, s.e.rotationDue pod why = true → (s.e.pod pod).svc = .inService →
       (∀ d ∈ s.e.pods, d.why = none) → s.e.sparesAllow = true →
       (why = .screen → s.e.health.exPods = false ∨ s.e.health.acked = true) →
       (∀ x ∈ s.e.place.slates, x.reissue.length < 64) →
       ∃ t : State, exec (.podRotationRequest pod why) s = .next t ∧ t.mem = s.mem ∧ (t.e.pod pod).svc = .draining ∧
         (t.e.pod pod).why = some why ∧ (t.e.pod pod).lpos = (s.e.pod pod).lpos))

/-! ### Fabric ports and Splice links -/

/-- NI_READY_RISE and CAPS (R492, R493): the rise of NI_READY makes the port send its CAPS and wait; a partner's CAPS of this
generation brings a waiting fabric port or Splice link UP, any other one puts it in MISMATCH; the packet leaves the inbox. Before
start-up the rise is only noted. FABRIC_FLIT_RECEIVE and FABRIC_CREDIT (R484, R485, R491): a flit that does not end its packet
joins it and stands in the receive buffer; one that does delivers the packet to the inbox, or discards it where R491 says so, and
the space of the whole packet is freed (when a space is freed is the model's choice, log entry 149); a flit that finds the buffer
of 64 full does not occur; a credit is added to its VC, and each flit that a port then sends takes one, while no operation and no
collective waits for a flit to leave. -/
def Obligations.FabricPortsCarryFlits : Prop :=
  (∀ s : State, s.settled →
     (∀ (j : Nat) (p : FPort), j < 4 → s.e.link.fports[j]? = some p →
       (s.e.coreOn = true → ∃ t : State, exec (.niReadyRise j) s = .next t ∧ t.mem = s.mem ∧
         t.e.link.fports[j]? = some { p with
           niReady := true, st := 1, sent := p.sent ++ fabricFlits 3 (s.e.capsPacket 64).units, arb := p.arb.note 3 } ∧
         (∀ i, i ≠ j → t.e.link.fports[i]? = s.e.link.fports[i]?) ∧ t.e.link.slinks = s.e.link.slinks) ∧
       (s.e.coreOn = false → ∃ t : State, exec (.niReadyRise j) s = .next t ∧ t.e.link.fports[j]? = some { p with niReady := true })) ∧
     (∀ (j : Nat) (p : FPort) (k : Packet), s.e.coreOn = true → s.e.link.fports[j]? = some p →
       s.e.inFirst (.fabric j) (fun x => x.hdr.cls == 4) = some k → k.bad = [] → 32 ≤ k.data.length → p.st = 1 →
       ∃ (t : State) (q : FPort), exec (.caps (.fabric j)) s = .next t ∧ t.e.link.fports[j]? = some q ∧
         (s.e.nothingHeld → t.mem = s.mem ∧ t.e.link.inbox = s.e.link.inbox.erase ⟨.fabric j, k⟩) ∧
         (k.data[0]? = some 4 → (k.data[1]?).map (fun b => b.getLsbD 0) = some true → q.st = 2 ∧ q.niReady = p.niReady) ∧
         (k.data[0]? ≠ some 4 ∨ (k.data[1]?).map (fun b => b.getLsbD 0) = some false → q.st = 3)) ∧
     (∀ (n : Nat) (l : SLink) (k : Packet), s.e.coreOn = true → s.e.link.slinks[n]? = some l →
       s.e.inFirst (.splice n) (fun x => x.hdr.cls == 4) = some k → k.bad = [] → 32 ≤ k.data.length → l.st = 2 →
       ∃ (t : State) (q : SLink), exec (.caps (.splice n)) s = .next t ∧ t.e.link.slinks[n]? = some q ∧
         (s.e.nothingHeld → t.mem = s.mem ∧ t.e.link.inbox = s.e.link.inbox.erase ⟨.splice n, k⟩) ∧
         (k.data[0]? = some 4 → (k.data[1]?).map (fun b => b.getLsbD 0) = some false →
           q.st = 3 ∧ q.pid = leNat ((k.data.drop 2).take 2)) ∧
         (k.data[0]? ≠ some 4 ∨ (k.data[1]?).map (fun b => b.getLsbD 0) = some true → q.st = 5 ∧ q.idv = false))) ∧
  (∀ (s : State) (j : Nat) (p : FPort), s.settled → s.e.coreOn = true → s.e.link.fports[j]? = some p →
     (∀ f : Flit, p.st = 1 ∨ p.st = 2 → f.vc < 4 → 64 ≤ p.held.getD f.vc 0 → exec (.fabricFlitReceive j f) s = .next s) ∧
     (∀ f : Flit, p.st = 1 ∨ p.st = 2 → f.vc < 4 → p.held.getD f.vc 0 < 64 → p.rx.length = 4 → p.freed.length = 4 → p.held.length = 4 →
       ∃ (t : State) (q : FPort), exec (.fabricFlitReceive j f) s = .next t ∧ t.e.link.fports[j]? = some q ∧
         q.credits = p.credits ∧ q.txq = p.txq ∧ q.st = p.st ∧
         (f.eop = false →
           q.rx[f.vc]? = some ((if f.sop then [] else p.rx.getD f.vc []) ++ f.units.take 4) ∧ t.e.link.inbox = s.e.link.inbox) ∧
         (f.eop = true → q.rx[f.vc]? = some [] ∧
           t.e.link.inbox = s.e.link.inbox ++
             (match Packet.ofUnits ((if f.sop then [] else p.rx.getD f.vc []) ++ f.units.take 4) with
               | some k => if s.e.keepsPacket k then [⟨.fabric j, k⟩] else []
               | none => [])) ∧
         (f.sop = false → f.eop = false → q.freed = p.freed ∧ q.held[f.vc]? = some (p.held.getD f.vc 0 + 1)) ∧
         (f.sop = false → f.eop = true → q.freed[f.vc]? = some (p.freed.getD f.vc 0 + p.held.getD f.vc 0 + 1) ∧ q.held[f.vc]? = some 0)) ∧
     (∀ vcs : BitVec 4, p.credits.length = 4 → p.txq.length = 4 →
       ∃ (t : State) (q : FPort), exec (.fabricCredit j vcs) s = .next t ∧ t.e.link.fports[j]? = some q ∧ q.rx = p.rx ∧ q.st = p.st ∧
         (s.e.nothingHeld → t.mem = s.mem ∧
           (∀ v < 4, q.credits.getD v 0 + (p.txq.getD v []).length =
             p.credits.getD v 0 + b2n (vcs.getLsbD v) + (q.txq.getD v []).length) ∧
           (p.st = 2 → ∀ v, v = 0 ∨ v = 1 ∨ v = 3 → q.credits.getD v 0 = 0 ∨ q.txq.getD v [] = []) ∧
           (p.st ≠ 2 → q.txq = p.txq))))

/-- SPLICE_FLIT_RECEIVE and SPLICE_REPLAY_TIMEOUT (R498, R499, R500): a flit whose CRC fails, or a DATA flit out of sequence, delivers
nothing and leaves the expected sequence number; a DATA flit in sequence moves it by one; a timeout sends every buffered flit
again, or retrains the link once one has been sent again 16 times; a link with nothing to send has an IDLE flit in a cycle without
a command. LINK_TRAINING_DONE, LINK_TRAINING_TIMEOUT, LINK_TRAINING_RETRY and LINK_DOWN (R494, R495, R500, R501): a training that
ends well sends the CAPS and waits, from fresh sequence numbers after a first training; one that does not ends in FAILED, from
which a retry trains again; the failure of a retrain takes the link down: nothing of its replay buffer, its partner or its waiting
packets is left, and it trains again (what it drops beside the words of R501, and the state it then stands in, are the model's
choice: log entry 101). A CAPS waits for room in the replay buffer (R497). -/
def Obligations.SpliceLinksKeepSequence : Prop :=
  (∀ (s : State) (n : Nat) (l : SLink), s.settled → s.e.coreOn = true → s.e.link.slinks[n]? = some l → l.st = 2 ∨ l.st = 3 →
     (∀ b : List Byte, b.length = 320 →
       (crc32c (b.take 316) ≠ leNat (b.drop 316) →
         ∃ (t : State) (q : SLink), exec (.spliceFlitReceive n b) s = .next t ∧ t.e.link.slinks[n]? = some q ∧ q.exp = l.exp ∧
           q.rx = l.rx ∧ (s.e.nothingHeld → t.mem = s.mem ∧ t.e.link.inbox = s.e.link.inbox)) ∧
       (crc32c (b.take 316) = leNat (b.drop 316) → fld (leNat (b.take 16)) 0 4 = 1 → fld (leNat (b.take 16)) 8 12 = l.exp →
         ∃ (t : State) (q : SLink), exec (.spliceFlitReceive n b) s = .next t ∧ t.e.link.slinks[n]? = some q ∧
           q.exp = (l.exp + 1) % 4096 ∧ q.accepted = true) ∧
       (crc32c (b.take 316) = leNat (b.drop 316) → fld (leNat (b.take 16)) 0 4 = 1 → fld (leNat (b.take 16)) 8 12 ≠ l.exp →
         ∃ (t : State) (q : SLink), exec (.spliceFlitReceive n b) s = .next t ∧ t.e.link.slinks[n]? = some q ∧ q.exp = l.exp ∧
           (s.e.nothingHeld → t.mem = s.mem ∧ t.e.link.inbox = s.e.link.inbox))) ∧
     (l.buf ≠ [] → (∀ f ∈ l.buf, f.resends < 16) →
       ∃ (t : State) (q : SLink), exec (.spliceReplayTimeout n) s = .next t ∧ t.e.link.slinks[n]? = some q ∧ q.st = l.st ∧
         q.seq = l.seq ∧ q.sent.length = l.sent.length + l.buf.length ∧
         q.buf = l.buf.map fun (f : SFlit) => { f with resends := f.resends + 1 }) ∧
     ((∃ f ∈ l.buf, 16 ≤ f.resends) →
       ∃ (t : State) (q : SLink), exec (.spliceReplayTimeout n) s = .next t ∧ t.e.link.slinks[n]? = some q ∧ q.st = 4 ∧ q.re = true ∧
         q.seq = l.seq ∧ q.sent = l.sent) ∧
     (s.pending = [] → s.e.nothingHeld → l.caps = none → (∀ v, l.txq.getD v [] = []) →
       ∃ (t : State) (q : SLink), step s = .next t ∧ t.e.link.slinks[n]? = some q ∧ q.sent = l.sent ++ [spliceBytes320 l none] ∧
         q.seq = l.seq ∧ q.exp = l.exp ∧ q.buf = l.buf ∧ q.owed = [0, 0, 0, 0])) ∧
  (∀ (s : State) (n : Nat) (l : SLink), s.settled → s.e.coreOn = true → s.e.link.slinks[n]? = some l →
     (∀ rate ucie rep : Nat, l.st = 1 ∨ l.st = 4 → 1 ≤ rate → rate ≤ 6 → rateOf rate ≤ l.rateMax.toNat →
       ucie = 2 ∨ ucie = 1 ∧ rateOf rate ≤ 16 →
       (l.re = false → ∃ (t : State) (q : SLink), exec (.linkTrainingDone n rate ucie rep) s = .next t ∧ t.e.link.slinks[n]? = some q ∧
         q.st = 2 ∧ q.rate = rate ∧ q.ucie = ucie ∧ q.seq = 1 ∧ q.exp = 0 ∧ q.buf.length = 1 ∧ q.sent.length = l.sent.length + 1) ∧
       (l.re = true → (∀ f ∈ l.buf, f.resends < 16) →
         ∃ (t : State) (q : SLink), exec (.linkTrainingDone n rate ucie rep) s = .next t ∧ t.e.link.slinks[n]? = some q ∧
           q.st = 2 ∧ q.exp = l.exp ∧
           (l.buf.length < 512 → q.seq = (l.seq + 1) % 4096 ∧ q.sent.length = l.sent.length + l.buf.length + 1) ∧
           (512 ≤ l.buf.length → q.seq = l.seq ∧ q.caps.isSome = true ∧ q.sent.length = l.sent.length + l.buf.length))) ∧
     (l.re = false → l.st = 1 ∨ l.st = 2 ∨ l.st = 4 →
       ∃ t : State, exec (.linkTrainingTimeout n) s = .next t ∧ t.e.link.slinks[n]? = some { l with st := 6 } ∧
         t.e.link.inbox = s.e.link.inbox) ∧
     (l.st = 6 → l.enabled = true →
       ∃ t : State, exec (.linkTrainingRetry n) s = .next t ∧ t.e.link.slinks[n]? = some { l with st := 1 }) ∧
     (l.re = true → ∀ c : Instr, c = .linkDown n ∨ c = .linkTrainingTimeout n ∧ (l.st = 1 ∨ l.st = 2 ∨ l.st = 4) →
       l.idv = false ∨ s.e.remote.ops = [] ∧ s.e.coll.colls = [] → ∃ (t : State) (q : SLink), exec c s = .next t ∧ t.e.link.slinks[n]? = some q ∧
         q.st = 1 ∧ q.re = false ∧ q.buf = [] ∧ q.seq = 0 ∧ q.exp = 0 ∧
         t.e.link.inbox = s.e.link.inbox.filter fun x => x.via != Via.splice n))

/-! ### Memory ports and vector ports -/

/-- MEMORY_READ_BEAT (R427, R478, R482, R483): each unit of the beat that its request still wants is taken into the buffer line that
waits for it, as memory holds it; the line's fill token stays as it was, and memory is unchanged. A unit with RD_ERR is counted,
logged and asked for once more on the same port, and ends the command with SECTOR_UNCORRECTABLE when it fails again.
MEMORY_WRITE_ACK (R480, R483, R546), while no remote operation, collective or channel reset waits for it: the write is no longer
outstanding; with WR_ERR its bytes have free values (R483), every other byte of memory is unchanged, what a later write of the
same bytes holds still stands, and a command that owns it ends with SECTOR_UNCORRECTABLE. MEMORY_CREDIT and VP_CREDIT (R476, R477,
R502): a memory port's credit is added or at once taken by what waits, so that credits and what is outstanding together rise by
one; a write that waits then leaves as its two beats, in order (R477); a vector port's credits rise to at most 256. Memory is
unchanged. -/
def Obligations.MemoryPortsServeRequests : Prop :=
  (∀ (s : State) (port tag : Nat) (half : Bool) (q : RdReq), s.settled → s.e.power.entry = none →
     (s.e.port port).rd.find? (fun r => r.tag == tag) = some q →
     (∀ b : BufLine, (∃ j < 4, q.mask.testBit (4 * b2n half + j) = true) → s.e.buf? q.pos q.run q.tensor q.line = some b →
       ∃ (t : State) (b' : BufLine), exec (.memoryReadBeat port tag half 0 []) s = .next t ∧ t.mem = s.mem ∧
         t.e.buf? q.pos q.run q.tensor q.line = some b' ∧ b'.token = b.token ∧
         (∀ j < 4, q.mask.testBit (4 * b2n half + j) = true →
           nget? b'.units (4 * b2n half + j) = some (rdBytes s.rd (256 * q.line + 32 * (4 * b2n half + j)) 32))) ∧
     ∀ (j : Nat) (err : BitVec 4), j < 4 → q.mask = 2 ^ (4 * b2n half + j) → err.getLsbD j = true →
       let u := 4 * b2n half + j
       (q.again.testBit u = false →
         ∃ t : State, exec (.memoryReadBeat port tag half err []) s = .next t ∧ t.mem = s.mem ∧ t.e.count 53 = s.e.count 53 + 1 ∧
           t.e.place = s.e.place ∧ t.e.chan.cmds = s.e.chan.cmds ∧
           t.e.health.log.head? = some (faultEntry 0x22 2 port 0 (some q.ch) true s.e.cue) ∧
           ∃ x ∈ (t.e.port port).rq ++ (t.e.port port).rd, x.line = q.line ∧ x.mask = 2 ^ u ∧ x.again = 2 ^ u ∧ x.pos = q.pos ∧
             x.run = q.run ∧ x.tensor = q.tensor) ∧
       (q.again.testBit u = true →
         ∃ t : State, exec (.memoryReadBeat port tag half err []) s = .next t ∧ t.mem = s.mem ∧ t.e.count 53 = s.e.count 53 + 1 ∧
           t.e.health.log.head? = some (faultEntry 0x22 2 port 0 (some q.ch) false s.e.cue) ∧
           ∀ m : Cmd, s.e.cmd? q.ch q.seq = some m →
             (t.e.cmd? q.ch q.seq).map (fun x => (x.ending, x.res.status)) = some (true, statusMax m.res.status 0x21))) ∧
  (∀ (s : State) (port tag : Nat) (w : WrReq), s.Inv → s.e.lost = false → s.e.power.entry = none →
     (s.e.port port).wr.find? (fun x => x.tag == tag) = some w → (s.e.port port).late = [] →
     (s.e.port port).rq = [] → s.e.remote.ops = [] → s.e.remote.tgts = [] → s.e.coll.colls = [] →
     (∀ c ∈ s.e.chan.chans, c.2.rst = 0) →
     ((s.e.port port).wq = [] → ∃ t : State, exec (.memoryWriteAck port tag false) s = .next t ∧ t.mem = s.mem ∧ t.e.chan = s.e.chan ∧
       (t.e.port port).wr = (s.e.port port).wr.filter (fun x => x.tag != tag)) ∧
     ((s.e.port port).wq = [] → ∃ t : State, exec (.memoryWriteAck port tag true) s = .next t ∧
       (t.e.port port).wr = (s.e.port port).wr.filter (fun x => x.tag != tag) ∧
       (∀ a, (∀ x ∈ w.addrs, x % 2 ^ 64 ≠ a) → Memory.get t.mem a = Memory.get s.mem a) ∧
       (∀ i a, w.addrs[i]? = some a → w.addrs.Nodup → (∀ x ∈ w.addrs, x < 2 ^ 64) → Memory.get t.mem a = Config.freeByte (s.e.free + i)) ∧
       (∀ ch seq m, w.owner = .cmd ch seq → s.e.cmd? ch seq = some m →
         (t.e.cmd? ch seq).map (fun x => (x.ending, x.res.status)) = some (true, statusMax m.res.status 0x21))) ∧
     ∀ (o : Owner) (ws : List (Nat × Byte)), (s.e.port port).wq = [(o, ws)] → (ws.map (·.1)).Nodup → (∀ b ∈ ws, b.1 < 2 ^ 64) →
       (∀ x ∈ w.addrs, x < 2 ^ 64) → ∃ t : State, exec (.memoryWriteAck port tag true) s = .next t ∧
         ∀ b ∈ ws, b.1 ∈ w.addrs → Memory.get t.mem b.1 = b.2) ∧
  (∀ (s : State) (n : Nat), s.settled → s.e.coreOn = true →
     (n < 32 → n < s.e.mports.length →
       (∃ t : State, exec (.memoryCredit n true) s = .next t ∧ t.mem = s.mem ∧
         (t.e.port n).wrCred + (t.e.port n).wr.length = (s.e.port n).wrCred + (s.e.port n).wr.length + 1 ∧
         (t.e.port n).rdCred + (t.e.port n).rd.length = (s.e.port n).rdCred + (s.e.port n).rd.length ∧
         ∀ i, i ≠ n → t.e.port i = s.e.port i) ∧
       (∃ t : State, exec (.memoryCredit n false) s = .next t ∧ t.mem = s.mem ∧
         (t.e.port n).wrCred + (t.e.port n).wr.length = (s.e.port n).wrCred + (s.e.port n).wr.length ∧
         (t.e.port n).rdCred + (t.e.port n).rd.length = (s.e.port n).rdCred + (s.e.port n).rd.length + 1 ∧
         ∀ i, i ≠ n → t.e.port i = s.e.port i) ∧
       ∀ (o : Owner) (ws : List (Nat × Byte)), (s.e.port n).wq = [(o, ws)] → (s.e.port n).late = [] → (s.e.port n).wrCred = 0 →
         (s.e.port n).wr = [] → (s.e.port n).rd = [] →
         ∃ t : State, exec (.memoryCredit n true) s = .next t ∧ (t.e.port n).wq = [] ∧ (t.e.port n).wrCred = 0 ∧
           (t.e.port n).wr = [⟨0, o, ws.map (·.1)⟩] ∧
           (t.e.port n).beats = (s.e.port n).beats ++ [writeBeat 0 ws false, writeBeat 0 ws true]) ∧
     (∀ p : VPort, s.e.drain.ports[n]? = some p →
       ∃ t : State, exec (.vpCredit n) s = .next t ∧ t.mem = s.mem ∧
         t.e.drain.ports[n]? = some { p with credits := min 256 (p.credits + 1) } ∧
         (∀ i, i ≠ n → t.e.drain.ports[i]? = s.e.drain.ports[i]?) ∧ t.e.drain.units = s.e.drain.units))

/-! ### The object dictionary -/

/-- A dictionary write (R454, R467, R470) ends by the object's rights, in the model's order of checks (log entry 48): no object, a
read-only one, a wrong length, a missing presence, which is counted, and a BOOL other than 0 and 1 give their results and change
nothing else; any other write is performed or REFUSED, once the memory ports can make its reads. -/
def Obligations.DictionaryWritesObeyAccessRights : Prop :=
  ∀ (s : State) (p : Path) (index : BitVec 16) (sub : BitVec 8) (v : List Byte), s.settled → s.e.opens p →
    ∃ t : State, exec (.objectWrite p index sub v) s = .next t ∧
      (match findObj index.toNat sub.toNat with
        | none => s.turnedAway t p 1
        | some o =>
          if o.acc = 0 ∨ o.acc = 4 then s.turnedAway t p 2
          else if 7 ≤ o.typ ∨ v.length ≠ o.len then s.turnedAway t p 6
          else if o.acc = 3 ∧ (p = .tunnel ∨ s.e.power.presence = false) then
            t.mem = s.mem ∧ t.e.result p = 4 ∧ t.e.sansResults =
              { s.e with dict := { s.e.dict with presenceRefusals := s.e.dict.presenceRefusals + 1 } }.sansResults
          else if o.typ = 6 ∧ v ≠ [0] ∧ v ≠ [1] then s.turnedAway t p 5
          else s.e.portsFree → t.e.result p = 0 ∨ t.e.result p = 5)

/-- OBJECT_WRITE, WIN_WRITE and WIN_READ (R454, R458, R459): a register that only holds a value takes every value that its rule
admits, and reads it back through every path; through the window WIN_STATUS then shows OK, and a read places the value in
WIN_DATA. WIN_READ_SEG and WIN_WRITE_SEG (R457, R459): a segment read from offset 0 places the first bytes of the object in
WIN_BUF and keeps the snapshot; a segment written at offset 0 that is not the last waits in the window's buffer. -/
def Obligations.RegistersAndSegmentsReadBack : Prop :=
  (∀ (s : State) (index : BitVec 16) (sub : BitVec 8) (n : Nat), s.settled → plainReg index.toNat sub.toNat n →
     (∀ p : Path, s.e.opens p →
       ∃ t : State, exec (.objectWrite p index sub (leBytes (regBytes index.toNat sub.toNat) n)) s = .next t ∧ t.mem = s.mem ∧
         t.e.result p = 0 ∧ t.e.objNat index.toNat sub.toNat = n ∧ t.e.stage = s.e.stage ∧ t.e.place = s.e.place ∧
         t.e.pods = s.e.pods ∧ t.e.chan = s.e.chan) ∧
     (s.e.opens .window → s.e.dict.winBusy = false → s.e.dict.winData.toNat % 256 ^ regBytes index.toNat sub.toNat = n →
       ∃ t : State, exec (.winWrite index sub) s = .next t ∧ t.mem = s.mem ∧ t.e.result .window = 0 ∧
         t.e.objNat index.toNat sub.toNat = n ∧ t.e.dict.winBusy = true ∧ t.e.dict.winStatus.extractLsb' 8 8 = 0 ∧
         t.e.stage = s.e.stage ∧ t.e.place = s.e.place ∧ t.e.pods = s.e.pods ∧ t.e.chan = s.e.chan) ∧
     (s.e.opens .window → s.e.dict.winBusy = false →
       ∃ t : State, exec (.winRead index sub) s = .next t ∧ t.mem = s.mem ∧ t.e.result .window = 0 ∧
         t.e.dict.winData = BitVec.ofNat 64 (s.e.objNat index.toNat sub.toNat % 256 ^ regBytes index.toNat sub.toNat) ∧
         t.e.dict.winBusy = true ∧ t.e.dict.winStatus.extractLsb' 8 8 = 0 ∧ t.e.stage = s.e.stage ∧ t.e.place = s.e.place ∧
         t.e.pods = s.e.pods ∧ t.e.chan = s.e.chan)) ∧
  (∀ (s : State) (index : BitVec 16) (sub : BitVec 8) (len : BitVec 9) (o : ObjHead), s.settled → s.e.opens .window →
     s.e.dict.winBusy = false → s.e.winOff = 0 → findObj index.toNat sub.toNat = some o → 7 ≤ o.typ → 1 ≤ len.toNat →
     len.toNat ≤ 256 → s.e.dict.winBuf.length = 256 →
     (o.acc ≠ 2 → ∃ (t : State) (v : List Byte), exec (.winReadSeg index sub len) s = .next t ∧ t.mem = s.mem ∧
       v = (if o.index = 0x2F00 ∧ sub = 1 then s.e.image else s.e.objBytes o sub.toNat) ∧ t.e.result .window = 0 ∧
       t.e.dict.winBuf = v.take len.toNat ++ s.e.dict.winBuf.drop (v.take len.toNat).length ∧
       (t.e.pathBuf .window).snap = v ∧ (t.e.pathBuf .window).snapObj = some (o.index, sub.toNat)) ∧
     (o.acc ≠ 0 → o.acc ≠ 4 → ∃ t : State, exec (.winWriteSeg index sub len false) s = .next t ∧ t.mem = s.mem ∧
       t.e.result .window = 0 ∧ (t.e.pathBuf .window).buf = s.e.dict.winBuf.take len.toNat ∧
       (t.e.pathBuf .window).bufObj = some (o.index, sub.toNat) ∧ t.e.stage = s.e.stage ∧ t.e.place = s.e.place ∧
       t.e.chan = s.e.chan))

/-- DB_REQUEST (R504, R458): a request with REQ_BE other than 0xFF performs nothing and is counted, and a read of that kind answers
with RSP_ERR; a write of WIN_OFFSET or WIN_DATA sets the register while no read is in progress, and a read of either answers its
value. -/
def Obligations.DoorbellPortRequests : Prop :=
  ∀ (s : State) (a : BitVec 9) (be : BitVec 8) (v : BitVec 64), s.settled → s.e.inService = true → s.e.power.after = 0 →
    (be ≠ 0xFF →
      (∃ t : State, exec (.dbRequest true a be v) s = .next t ∧ t.mem = s.mem ∧ t.e.count 72 = s.e.count 72 + 1 ∧
        t.e.dict = s.e.dict ∧ t.e.chan = s.e.chan) ∧
      (∃ t : State, exec (.dbRequest false a be v) s = .next t ∧ t.mem = s.mem ∧ t.e.count 72 = s.e.count 72 + 1 ∧
        t.e.dict = { s.e.dict with rsp := s.e.dict.rsp ++ [(0, true)] } ∧ t.e.chan = s.e.chan)) ∧
    (s.e.dict.winReads = false →
      (∃ t : State, exec (.dbRequest true 258 0xFF v) s = .next t ∧ t.mem = s.mem ∧ t.e.dict = { s.e.dict with winData := v } ∧
        t.e.chan = s.e.chan) ∧
      (∃ t : State, exec (.dbRequest true 257 0xFF v) s = .next t ∧ t.mem = s.mem ∧
        t.e.dict = { s.e.dict with winOffset := (v.extractLsb' 0 32).setWidth 64 } ∧ t.e.chan = s.e.chan)) ∧
    (∃ t : State, exec (.dbRequest false 258 0xFF v) s = .next t ∧ t.mem = s.mem ∧ t.e.count 71 = s.e.count 71 + 1 ∧
      t.e.dict = { s.e.dict with rsp := s.e.dict.rsp ++ [(s.e.dict.winData, false)] } ∧ t.e.chan = s.e.chan)

/-- HUASET_FRAME_ARRIVAL and ENUM (R462, R463, R464): a sound request for another engine goes on with its position one less and a
fresh CRC; one for this engine waits for its access; a response goes on as it is; an ENUM sets HUASET_POSITION to its payload byte
plus one and goes on with it; a frame cut short or with a wrong CRC goes on ended by ABORT and is counted; while a response of the
engine's own is being sent, up to four frames wait in the elastic buffer (R465; which step ends the sending is the model's choice,
log entry 151). HUASET_READ, HUASET_WRITE, HUASET_READ_SEG and HUASET_WRITE_SEG (R455, R457, R465, R466): the request at the head
of those that wait is performed and answered by a response with its TAG and result, which the engine remembers; a plain register
takes and gives its value, a segment read from offset 0 gives the first bytes of its object, and a first segment written waits in
the ring's buffer. -/
def Obligations.RingFramesAndRequests : Prop :=
  (∀ (s : State) (f : List Byte), s.settled →
     (∀ cut : Bool, s.e.ring.sending = true → s.e.ring.elastic.length < 4 → exec (.huasetFrameArrival f cut) s =
       .next { s with e := { s.e with ring := { s.e.ring with elastic := s.e.ring.elastic ++ [(f, cut)] } } }) ∧
     (s.e.ring.sending = false →
     (frameOk f false = true → fb f 0 < 64 → frameOp f ≠ 5 →
       (fb f 0 ≠ 1 → ∃ t : State, exec (.huasetFrameArrival f false) s = .next t ∧ t.mem = s.mem ∧
         t.e.ring.queue = s.e.ring.queue ∧ t.e.ring.position = s.e.ring.position ∧
         ∃ g, t.e.ring.sent = s.e.ring.sent ++ frameChars g false ∧ frameOk g false = true ∧
           fb g 0 = (fb f 0 + 63) % 64 ∧ (frameBody g).drop 1 = (frameBody f).drop 1) ∧
       (fb f 0 = 1 → s.e.ring.known f = none → 1 ≤ frameOp f → frameOp f ≤ 4 →
         ∃ t : State, exec (.huasetFrameArrival f false) s = .next t ∧ t.mem = s.mem ∧
           t.e.ring = { s.e.ring with queue := s.e.ring.queue ++ [(f, false)] } ∧ t.e.dict = s.e.dict)) ∧
     (frameOk f false = true → 128 ≤ fb f 0 → ∃ t : State, exec (.huasetFrameArrival f false) s = .next t ∧ t.mem = s.mem ∧
       t.e.ring = { s.e.ring with sent := s.e.ring.sent ++ frameChars f false, pins := strobeChars s.e.ring.pins (frameChars f false) }) ∧
     (frameOk f false = true → fb f 0 < 128 → frameOp f = 5 → 15 ≤ f.length →
       ∃ t : State, exec (.enum f) s = .next t ∧ t.mem = s.mem ∧ t.e.ring.position = f.getD 12 0 + 1 ∧
         t.e.ring.queue = s.e.ring.queue ∧
         ∃ g, t.e.ring.sent = s.e.ring.sent ++ frameChars g false ∧ frameOk g false = true ∧ g.getD 12 0 = f.getD 12 0 + 1) ∧
     (frameOk f true = false → 128 ≤ fb f 0 → ∃ t : State, exec (.huasetFrameArrival f true) s = .next t ∧ t.mem = s.mem ∧
       t.e.ring = { s.e.ring with sent := s.e.ring.sent ++ frameChars f true, pins := strobeChars s.e.ring.pins (frameChars f true) } ∧ t.e.count 78 = s.e.count 78 + 1))) ∧
  (∀ (s : State) (f : List Byte) (r : List (List Byte × Bool)), s.settled → s.e.opens .ring → s.e.ring.queue = (f, false) :: r →
     s.e.ring.known f = none →
     (s.e.ring.sending = true → ∀ c ∈ [Instr.huasetRead, .huasetWrite, .huasetReadSeg, .huasetWriteSeg], exec c s = .next s) ∧
     (s.e.ring.sending = false →
     (∀ n : Nat, plainReg (frameObj f).1 (frameObj f).2 n →
       (frameOp f = 1 → ∃ t : State, exec .huasetRead s = .next t ∧ t.mem = s.mem ∧ t.e.ring.queue = r ∧ t.e.chan = s.e.chan ∧
         t.e.ring.sent = s.e.ring.sent ++ frameChars (frameResponse s.e.ring.position.toNat 0
           (leBytes (regBytes (frameObj f).1 (frameObj f).2) (s.e.objNat (frameObj f).1 (frameObj f).2)) f) false) ∧
       (frameOp f = 2 → framePayload f = leBytes (regBytes (frameObj f).1 (frameObj f).2) n → fb f 7 = regBytes (frameObj f).1 (frameObj f).2 →
         ∃ t : State, exec .huasetWrite s = .next t ∧ t.mem = s.mem ∧ t.e.ring.queue = r ∧ t.e.chan = s.e.chan ∧
           t.e.objNat (frameObj f).1 (frameObj f).2 = n ∧
           t.e.ring.sent = s.e.ring.sent ++ frameChars (frameResponse s.e.ring.position.toNat 0 [] f) false ∧
           t.e.ring.known f = some (frameResponse s.e.ring.position.toNat 0 [] f))) ∧
     (∀ o : ObjHead, findObj (frameObj f).1 (frameObj f).2 = some o → 7 ≤ o.typ → leNat ((f.drop 8).take 4) = 0 → 1 ≤ fb f 7 →
       fb f 7 ≤ 64 →
       (frameOp f = 3 → o.acc ≠ 2 → o.index ≠ 0x2F00 →
         ∃ t : State, exec .huasetReadSeg s = .next t ∧ t.mem = s.mem ∧ t.e.ring.queue = r ∧
           t.e.ring.sent = s.e.ring.sent ++ frameChars (frameResponse s.e.ring.position.toNat 0
             ((s.e.objBytes o (frameObj f).2).take (fb f 7)) f) false) ∧
       (frameOp f = 4 → o.acc ≠ 0 → o.acc ≠ 4 → (framePayload f).length = fb f 7 → bit (fb f 1) 4 = false →
         ∃ t : State, exec .huasetWriteSeg s = .next t ∧ t.mem = s.mem ∧ t.e.ring.queue = r ∧
           (t.e.pathBuf .ring).buf = framePayload f ∧ (t.e.pathBuf .ring).bufObj = some (o.index, (frameObj f).2) ∧
           t.e.ring.sent = s.e.ring.sent ++ frameChars (frameResponse s.e.ring.position.toNat 0 [] f) false))))

/-- TUNNEL (R469, R486, R490): a sound request in a TUNNEL packet leaves the inbox, and a packet with its response, addressed to its
source, goes out where it came in: while TUNNEL_ENABLE is 1 the request is performed as one of the tunnel path and counted, a
plain register takes its value, and a repeat gets the remembered response again; while it is 0 the response says TUNNEL_OFF (9)
and nothing is performed. A packet without a whole request frame is dropped. That a Splice link serves it too is the model's
choice (log entry 152). -/
def Obligations.TunnelledRequestsAreAnswered : Prop :=
  ∀ (s : State) (via : Via), s.settled → s.e.runs = true → s.e.power.after = 0 →
    (s.e.inFirst via (fun x => x.hdr.cls == 3) = none → exec (.tunnel via) s = .next s) ∧
    ∀ k : Packet, s.e.inFirst via (fun x => x.hdr.cls == 3) = some k →
    let e0 := s.e.inDrop via k
    let f := k.data
    let answer := fun (e : Eng) (r : List Byte) => (e.sendPacket via (e.tunnelPacket k.hdr.src r)).link
    (k.bad ≠ [] ∨ frameOk f false = false ∨ 128 ≤ fb f 0 →
      ∃ t : State, exec (.tunnel via) s = .next t ∧ t.mem = s.mem ∧ t.e.link = e0.link ∧ t.e.dict = s.e.dict ∧ t.e.ring = s.e.ring) ∧
    (k.bad = [] → frameOk f false = true → fb f 0 < 128 →
      (s.e.dict.tunnelEnable = false →
        ∃ t : State, exec (.tunnel via) s = .next t ∧ t.mem = s.mem ∧ t.e.dict = s.e.dict ∧ t.e.health = s.e.health ∧
          t.e.ring = s.e.ring ∧ t.e.count 80 = s.e.count 80 ∧ t.e.link = answer e0 (frameResponse s.e.ring.position.toNat 9 [] f)) ∧
      (s.e.dict.tunnelEnable = true →
        (∀ r : List Byte, s.e.ring.known f = some r →
          ∃ t : State, exec (.tunnel via) s = .next t ∧ t.mem = s.mem ∧ t.e.dict = s.e.dict ∧ t.e.ring = s.e.ring ∧
            t.e.count 80 = s.e.count 80 + 1 ∧ t.e.count 79 = s.e.count 79 + 1 ∧ t.e.link = answer e0 r) ∧
        (∀ n : Nat, s.e.ring.known f = none → s.e.opens .tunnel → frameOp f = 2 → plainReg (frameObj f).1 (frameObj f).2 n →
          framePayload f = leBytes (regBytes (frameObj f).1 (frameObj f).2) n → fb f 7 = regBytes (frameObj f).1 (frameObj f).2 →
          let r := frameResponse s.e.ring.position.toNat 0 [] f
          ∃ t : State, exec (.tunnel via) s = .next t ∧ t.mem = s.mem ∧ t.e.objNat (frameObj f).1 (frameObj f).2 = n ∧
            t.e.count 80 = s.e.count 80 + 1 ∧ t.e.ring.known f = some r ∧ t.e.link = answer e0 r) ∧
        (s.e.ring.known f = none → s.e.portsFree → 1 ≤ frameOp f → frameOp f ≤ 4 →
          let x := (e0.bump 80 1).frameRun s.rd .tunnel f
          x.2.power.after = 0 →
          ∃ t : State, exec (.tunnel via) s = .next t ∧ t.e.ring.known f = some x.1 ∧ t.e.count 80 = x.2.count 80 ∧
            t.e.link = answer x.2 x.1)))

/-! ### Dictionary writes that are events of their own -/

/-- STAGING_BYTES, IRQ_PENDING, GROUP_TABLE_BASE and PLACE_POS_MASK writes (R124, R336, R387, R206): each changes its register alone
where its rule admits the value, with everything that follows from it, and is REFUSED with nothing changed where it does not. -/
def Obligations.RegisterWritesHaveTheirEffect : Prop :=
  ∀ (s : State) (p : Path), s.settled → s.e.opens p →
    (∀ v : BitVec 32,
      let ok : Bool := v.toNat % 131072 == 0 && decide (6291456 ≤ v.toNat ∧ v.toNat ≤ 100663296) &&
        (s.e.chan.cmds.all fun m => !m.underWay) && s.e.remote.wins.isEmpty && s.e.coll.colls.isEmpty && s.e.coll.waiting.isEmpty
      (ok = true → ∃ t : State, exec (.stagingBytesWrite p v) s = .next t ∧
        s.wrote t p { s.e with stage := { s.e.stage with stagingBytes := v } }) ∧
      (ok = false → ∃ t : State, exec (.stagingBytesWrite p v) s = .next t ∧ s.turnedAway t p 5)) ∧
    (∀ (sub : Nat) (v : BitVec 64), 1 ≤ sub → sub ≤ 4 →
      ∃ t : State, exec (.irqPendingWrite p sub v) s = .next t ∧
        s.wrote t p { s.e with chan := { s.e.chan with irq := s.e.chan.irq.modify (sub - 1) fun x => x &&& ~~~v } }) ∧
    (∀ v : BitVec 64,
      let ok : Bool := v.toNat % 32 == 0 && s.e.coll.colls.isEmpty && s.e.coll.waiting.isEmpty
      (ok = true → ∃ t : State, exec (.groupTableBaseWrite p v) s = .next t ∧
        s.wrote t p { s.e with coll := { s.e.coll with groupBase := v, cache := [] } }) ∧
      (ok = false → ∃ t : State, exec (.groupTableBaseWrite p v) s = .next t ∧ s.turnedAway t p 5)) ∧
    (∀ v : BitVec 32, ∃ t : State, exec (.placePosMaskWrite p v) s = .next t ∧ t.mem = s.mem ∧ t.e.result p = 0 ∧
      t.e.place.posMask = v ∧ t.e.place.runs = s.e.place.runs ∧ t.e.place.ctxs = s.e.place.ctxs ∧ t.e.pods = s.e.pods ∧
      t.e.chan = s.e.chan ∧ (s.e.place.slates = [] → s.wrote t p { s.e with place := { s.e.place with posMask := v } }))

/-- ENGINE_ID write and SL_RETRAIN (R351, R492, R495): while every channel is DISABLED the identity and its VALID bit take the value,
and each Splice link that is UP gets a new CAPS, once its replay buffer has room (R497), and stays UP (that it stays UP while the
CAPS is awaited is the model's choice, log entry 42); otherwise the write is REFUSED. A write of 1 to SL_RETRAIN begins the
training of a connected link, as a retrain where it has been trained, and any other value is REFUSED. ENGINE_RESET, E3_ENTER and
E3_EXIT (R472, R528, R536, R537): the right value begins an engine reset with cause 3, or, while nothing is in progress, entry to
E3, or through the ring the return; another value is REFUSED. READY falls at once; while a reply is owed, or a burn is in
progress, nothing else of the entry has happened (step 3 of R528), and with none it is whole. What the reset keeps beside the
words of R531 is the model's choice (log entries 45, 139). -/
def Obligations.LinkAndResetWritesHaveTheirEffect : Prop :=
  (∀ (s : State) (p : Path), s.settled → s.e.opens p →
     (∀ v : BitVec 32,
       ((∀ c ∈ s.e.chan.chans, c.2.state = .disabled) →
         ∃ t : State, exec (.engineIdWrite p v) s = .next t ∧ t.mem = s.mem ∧ t.e.result p = 0 ∧
           t.e.link.engineId = (v.extractLsb' 0 17).setWidth 32 ∧
           (∀ n < 4, (t.e.link.slinks[n]?).map SLink.st = (s.e.link.slinks[n]?).map SLink.st ∧
             (∀ l : SLink, s.e.link.slinks[n]? = some l → l.st = 3 → (∀ v, l.txq.getD v [] = []) →
               ∃ q : SLink, t.e.link.slinks[n]? = some q ∧
                 (l.buf.length < 512 → q.sent.length = l.sent.length + 1 ∧ q.seq = (l.seq + 1) % 4096) ∧
                 (512 ≤ l.buf.length → q.sent = l.sent ∧ q.caps.isSome = true)))) ∧
       ((∃ c ∈ s.e.chan.chans, c.2.state ≠ .disabled) →
         ∃ t : State, exec (.engineIdWrite p v) s = .next t ∧ s.turnedAway t p 5)) ∧
     (∀ (n : Nat) (l : SLink), n < 4 → s.e.link.slinks[n]? = some l →
       (l.enabled = true → ∃ (t : State) (q : SLink), exec (.slRetrain p n 1) s = .next t ∧ t.mem = s.mem ∧ t.e.result p = 0 ∧
         t.e.link.slinks[n]? = some q ∧ t.e.count 66 = s.e.count 66 + 1 ∧ q.seq = l.seq ∧ q.exp = l.exp ∧ q.sent = l.sent ∧
         q.st = (if l.st = 3 ∨ l.st = 5 ∨ l.re = true then 4 else 1)) ∧
       (∀ v : BitVec 8, v ≠ 1 → ∃ t : State, exec (.slRetrain p n v) s = .next t ∧ s.turnedAway t p 5))) ∧
  (∀ (s : State) (p : Path), s.settled →
     (s.e.opens p →
       (∃ t : State, exec (.engineReset p 0xE5) s = .next t ∧ t.e.ready = false ∧ t.e.power.t0 = false ∧
         t.e.health.fuses = s.e.health.fuses ∧
         (s.e.owesReply = false → s.e.health.burning = [] → t.e.power.resetCause = 3 ∧ t.e.power.entry = none ∧
           t.e.power.resetCount = s.e.power.resetCount + 1 ∧ t.e.chan = ChanSt.reset ∧ t.e.pods = Eng.reset.pods ∧
           t.e.stage = Stage.reset ∧ t.e.place = Place.reset ∧ t.e.remote = { RemoteSt.reset with tag := s.e.remote.tag } ∧
           t.e.coll = CollSt.reset) ∧
         (s.e.owesReply = true ∨ s.e.health.burning ≠ [] → t.e.power.entry = some (.reset 3) ∧
           t.e.power.resetCount = s.e.power.resetCount ∧ t.e.power.resetCause = s.e.power.resetCause ∧ t.e.chan = s.e.chan ∧
           t.e.pods = s.e.pods ∧ t.e.stage = s.e.stage ∧ t.e.place = s.e.place)) ∧
       (∀ v : BitVec 16, v ≠ 0xE5 → ∃ t : State, exec (.engineReset p v) s = .next t ∧ s.turnedAway t p 5) ∧
       (s.e.chan.cmds = [] → s.e.coll.colls = [] → s.e.coll.waiting = [] → s.e.health.burning = [] → s.e.health.updBusy = false →
         ∃ t : State, exec (.e3Enter p 0xE3) s = .next t ∧ t.e.ready = false ∧ t.e.power.resetCount = s.e.power.resetCount ∧
           (s.e.owesReply = false → t.e.power.estate = 3 ∧ t.e.stage = Stage.reset ∧ t.e.chan = ChanSt.reset ∧ t.e.corePwrReq = false) ∧
           (s.e.owesReply = true → t.e.power.estate = 0 ∧ t.e.power.entry = some .e3 ∧ t.e.stage = s.e.stage ∧ t.e.chan = s.e.chan)) ∧
       (s.e.chan.cmds ≠ [] ∨ s.e.coll.colls ≠ [] ∨ s.e.coll.waiting ≠ [] ∨ s.e.health.burning ≠ [] ∨ s.e.health.updBusy = true →
         ∃ t : State, exec (.e3Enter p 0xE3) s = .next t ∧ s.turnedAway t p 5)) ∧
     (s.e.power.estate = 3 → s.e.power.after = 0 → s.e.ready = false → s.e.dict.results.length = 3 →
       (∃ t : State, exec (.e3Exit .ring 0xE0) s = .next t ∧ t.mem = s.mem ∧ t.e.result .ring = 0 ∧ t.e.sansResults = s.e.leaveE3.sansResults) ∧
       (∀ v : BitVec 16, v ≠ 0xE0 → ∃ t : State, exec (.e3Exit .ring v) s = .next t ∧ s.turnedAway t .ring 5)))

/-- SPARES_EXHAUSTED_ACK, REPAIR_COMMIT and BUILTIN_UPDATE (R443, R444, R445, R470): the first two only under presence and not through
the tunnel; an acknowledgement only while spares are exhausted; a commit with VFUSE_OK burns every repair that no record holds,
while the records fit; an update takes an image of a whole number of 256-byte blocks up to 1 MiB whose CRC-32C is IMAGE_CRC, once
the memory ports can read it, and then every pod that is not retired waits for it; any other is REFUSED with CRC_FAIL. That a
commit without VFUSE_OK counts as a burn that failed is the model's choice (log entry 98). SCREEN_NOW and POD_RESET (R439, R473,
R529): a pod that is not retired is noted for a test, which is armed for it where it is idle in OUT, no test is armed or runs and
the droop mask is off; a pod reset takes the pod from its position into OUT with an empty array and no program, at work on its
built-in test; the number of a retired pod, or one beyond 33, is REFUSED. -/
def Obligations.HealthAndPodWritesHaveTheirEffect : Prop :=
  (∀ (s : State) (p : Path), s.settled → s.e.opens p →
     (p ≠ .tunnel → s.e.power.presence = true →
       (s.e.health.exPods = true ∨ s.e.health.exBanks = true → ∃ t : State, exec (.sparesExhaustedAck p 1) s = .next t ∧
         s.wrote t p { s.e with health := { s.e.health with acked := true } }) ∧
       (s.e.health.exPods = false → s.e.health.exBanks = false → ∃ t : State, exec (.sparesExhaustedAck p 1) s = .next t ∧
         s.turnedAway t p 5) ∧
       (s.e.health.burning = [] → s.e.health.fusesUsed + s.e.unburnt.length ≤ 96 →
         ∃ t : State, exec (.repairCommit p 1 true) s = .next t ∧
           s.wrote t p { s.e with health := { s.e.health with vfuse := true, burning := s.e.unburnt } }) ∧
       (s.e.health.burning ≠ [] ∨ 96 < s.e.health.fusesUsed + s.e.unburnt.length → ∀ ok : Bool,
         ∃ t : State, exec (.repairCommit p 1 ok) s = .next t ∧ t.mem = s.mem ∧ t.e.result p = 5 ∧
           t.e.health = { s.e.health with vfuse := ok })) ∧
     (s.e.portsFree → s.e.health.updBusy = false → s.e.health.imgLen.toNat % 256 = 0 → 0 < s.e.health.imgLen.toNat →
       s.e.health.imgLen.toNat ≤ 2 ^ 20 →
       crc32c (rdBytes s.rd s.e.health.imgBase.toNat s.e.health.imgLen.toNat) = s.e.health.imgCrc.toNat →
       ∃ t : State, exec (.builtinUpdate p 1) s = .next t ∧ t.mem = s.mem ∧ t.e.result p = 0 ∧ t.e.health.updDone = 0 ∧
         t.e.health.setVersion = BitVec.ofNat 32 (rdNat s.rd s.e.health.imgBase.toNat 4) ∧ t.e.health.crcFail = false ∧
         (∀ n, n ∈ t.e.health.updQueue ↔ n < 34 ∧ (s.e.pod n).svc ≠ .retired) ∧ t.e.pods = s.e.pods ∧ t.e.place = s.e.place) ∧
     (s.e.portsFree ∧ s.e.health.updBusy = false ∧ s.e.health.imgLen.toNat % 256 = 0 ∧ 0 < s.e.health.imgLen.toNat ∧
         s.e.health.imgLen.toNat ≤ 2 ^ 20 ∧
         crc32c (rdBytes s.rd s.e.health.imgBase.toNat s.e.health.imgLen.toNat) ≠ s.e.health.imgCrc.toNat ∨
       s.e.health.updBusy = true ∨ s.e.health.imgLen.toNat % 256 ≠ 0 ∨ s.e.health.imgLen.toNat = 0 ∨ 2 ^ 20 < s.e.health.imgLen.toNat →
       ∃ t : State, exec (.builtinUpdate p 1) s = .next t ∧ t.mem = s.mem ∧ t.e.result p = 5 ∧
         t.e.health = { s.e.health with crcFail := true })) ∧
  (∀ (s : State) (p : Path) (v : BitVec 8), s.settled → s.e.opens p →
     (v.toNat ≤ 33 → (s.e.pod v.toNat).svc ≠ .retired →
       (∃ t : State, exec (.screenNow p v) s = .next t ∧ t.mem = s.mem ∧ t.e.result p = 0 ∧ t.e.pods = s.e.pods ∧
         t.e.place = s.e.place ∧
         ((s.e.pod v.toNat).svc = .out → (s.e.pod v.toNat).task = .idle → (∀ x ∈ s.e.place.trans, x.pod ≠ v.toNat) →
           s.e.screening = false → s.e.droop = false → t.e.health.screenArmed = some (v.toNat, s.e.cue + 32)) ∧
         ((s.e.pod v.toNat).svc = .inService → s.e.screening = true →
           t.e.health = { s.e.health with screenNow := some v.toNat })) ∧
       (∃ t : State, exec (.podReset p v) s = .next t ∧ t.mem = s.mem ∧ t.e.result p = 0 ∧ (t.e.pod v.toNat).svc = .out ∧
         (t.e.pod v.toNat).task = .bist ∧ (t.e.pod v.toNat).lpos = none ∧ (t.e.pod v.toNat).store = [] ∧
         (t.e.pod v.toNat).version = 0 ∧ (t.e.pod v.toNat).rows = [] ∧ (t.e.pod v.toNat).batches = [] ∧
         (t.e.pod v.toNat).spares = (s.e.pod v.toNat).spares)) ∧
     (33 < v.toNat ∨ (s.e.pod v.toNat).svc = .retired →
       (∃ t : State, exec (.screenNow p v) s = .next t ∧ s.turnedAway t p 5) ∧
       (∃ t : State, exec (.podReset p v) s = .next t ∧ s.turnedAway t p 5)))

/-- ACT_TABLE and DICT_IMAGE writes (R288, R457, R471): a LAST segment at offset 0 that holds a valid table, for a slot that no
command in progress uses, becomes the slot's image, with its reserved bytes zero, and any other table is REFUSED; an image of no
entry empties what DICT_IMAGE reports of the last one, and bytes that are no image are REFUSED and set bit 56 of its state. That
an image which is applied clears that bit (its state becomes what the image reports) is the model's choice (log entry 114). -/
def Obligations.SegmentedWritesHaveTheirEffect : Prop :=
  ∀ (s : State) (p : Path), s.settled → s.e.opens p → (∀ b ∈ s.e.dict.paths, b.bufObj = none ∧ b.buf = []) →
    (∀ (slot : Nat) (v : List Byte), slot < 8 → v.length = 1056 →
      (actImageOk v = true → s.e.actInUse s.rd slot = false →
        ∃ t : State, exec (.actTableWrite p slot 0 v) s = .next t ∧
          s.wrote t p { s.e with drain := { s.e.drain with
            act := s.e.drain.act.modify slot fun _ => .image (v.take 5 ++ [0, 0, 0] ++ v.drop 8) } }) ∧
      (actImageOk v = false ∨ s.e.actInUse s.rd slot = true →
        ∃ t : State, exec (.actTableWrite p slot 0 v) s = .next t ∧ s.turnedAway t p 5)) ∧
    (∀ v : List Byte, v ≠ [] → v.length ≤ 65536 →
      (imageCheck v = none → ∃ t : State, exec (.dictImageWrite p 0 v) s = .next t ∧ t.mem = s.mem ∧ t.e.result p = 5 ∧
        t.e.sansResults = { s.e with dict := { s.e.dict with imageState := s.e.dict.imageState ||| BitVec.ofNat 64 (2 ^ 56) } }.sansResults) ∧
      (imageCheck v = some [] → ∃ t : State, exec (.dictImageWrite p 0 v) s = .next t ∧
        s.wrote t p { s.e with dict := { s.e.dict with imageState := 0 } }) ∧
      (∀ n : Nat, 32 ≤ n → n ≤ 32768 → n % 32 = 0 → imageCheck v = some [(0x5000, 1, leBytes 2 n)] →
        ∃ t : State, exec (.dictImageWrite p 0 v) s = .next t ∧
          s.wrote t p { s.e with segMax := BitVec.ofNat 16 n, dict := { s.e.dict with imageState := 1 } }))

/-! ### Channels and their commands -/

/-- DOORBELL and HELD_DOORBELL_SERVED (R308, R313, R314, R316, R319, R339): with no Channel Table a doorbell is ignored and counted;
an ACTIVE channel takes its tail count, or goes to ERROR with detail 0x04 where that lies beyond the ring; a DISABLED one whose
entry passes its checks becomes ACTIVE with the counts that memory holds; a held doorbell is served in the same way. Memory is
unchanged while no record is due. While the memory ports cannot make the read of TAIL_LOC (R476, R479), nothing changes (log entry
53). COMMAND_FETCH (R317, R320, R334): the channel that comes first reads its records in order from the ring, up to its tail
count, 16 at a time and 16 in all, and up to 128 of all channels; HEAD_LOC is written after them, and no other byte of memory. Its
reads go through free memory ports (R476, R479). -/
def Obligations.DoorbellsAndFetchesReadRecords : Prop :=
  (∀ (s : State) (ch : Nat), s.settled → s.e.runs = true → ch < 256 →
     (s.e.chan.table = 0 → ∃ t : State, exec (.doorbell ch []) s = .next t ∧ t.mem = s.mem ∧ t.e.chan = s.e.chan ∧
       t.e.count 1 = s.e.count 1 + 1) ∧
     (∀ n : ChanEntry, s.e.chan.table ≠ 0 → (s.e.ch ch).state = .active → (s.e.ch ch).entry = some n →
       s.e.holdsBack [(n.tailLoc, 8)] = true → exec (.doorbell ch []) s = .next s) ∧
     (s.e.portsFree →
     (∀ n : ChanEntry, s.e.chan.table ≠ 0 → (s.e.ch ch).state = .active → (s.e.ch ch).entry = some n →
       (rdCount s.rd n.tailLoc + 2 ^ 32 - (s.e.ch ch).head) % 2 ^ 32 ≤ 2 ^ n.rsize →
       (∃ t : State, exec (.doorbell ch []) s = .next t ∧ t.mem = s.mem ∧ (t.e.ch ch).tail = rdCount s.rd n.tailLoc ∧
         (t.e.ch ch).head = (s.e.ch ch).head ∧ (t.e.ch ch).state = .active ∧ t.e.chan.cmds = s.e.chan.cmds ∧
         ∀ c, c ≠ ch → t.e.ch c = s.e.ch c) ∧
       ((s.e.ch ch).held = true → s.e.makeRoom.isSome = true →
         ∃ t : State, exec (.heldDoorbellServed ch []) s = .next t ∧ t.mem = s.mem ∧ (t.e.ch ch).tail = rdCount s.rd n.tailLoc ∧
           (t.e.ch ch).held = false ∧ (t.e.ch ch).state = .active ∧ ∀ c, c ≠ ch → t.e.ch c = s.e.ch c)) ∧
     (∀ n : ChanEntry, s.e.chan.table ≠ 0 → (s.e.ch ch).state = .active → (s.e.ch ch).entry = some n →
       2 ^ n.rsize < (rdCount s.rd n.tailLoc + 2 ^ 32 - (s.e.ch ch).head) % 2 ^ 32 →
       ∃ t : State, exec (.doorbell ch []) s = .next t ∧ (t.e.ch ch).state = .error ∧ (t.e.ch ch).errDetail = 0x04 ∧
         (t.e.ch ch).tail = (s.e.ch ch).tail) ∧
     (∀ n : ChanEntry, s.e.chan.table ≠ 0 → (s.e.ch ch).state = .disabled → s.e.cached.length < 32 →
       n = ChanEntry.ofNat (rdRec s.rd (s.e.chan.table.toNat + 128 * ch) 128) → n.enable = true → s.e.entryCheck ch n = none →
       (rdCount s.rd n.tailLoc + 2 ^ 32 - rdCount s.rd n.headLoc) % 2 ^ 32 ≤ 2 ^ n.rsize →
       ∃ t : State, exec (.doorbell ch []) s = .next t ∧ t.mem = s.mem ∧ (t.e.ch ch).state = .active ∧ (t.e.ch ch).entry = some n ∧
         (t.e.ch ch).head = rdCount s.rd n.headLoc ∧ (t.e.ch ch).tail = rdCount s.rd n.tailLoc ∧
         (t.e.ch ch).cqTail = rdCount s.rd n.cqTailLoc ∧ (t.e.ch ch).chain = n.chainEn ∧ ∀ c, c ≠ ch → t.e.ch c = s.e.ch c))) ∧
  (∀ (s : State) (ch : Nat) (n : ChanEntry), s.settled → s.e.runs = true → s.e.portsFree → (s.e.ch ch).entry = some n → s.e.mayFetch ch = true →
     (∀ c ∈ s.e.cached, c ≠ ch → s.e.mayFetch c = true → s.e.fetchesFirst c ch = false) →
     ∃ (t : State) (k : Nat), exec (.commandFetch ch []) s = .next t ∧
       k = min (min 16 (((s.e.ch ch).tail + 2 ^ 32 - (s.e.ch ch).head) % 2 ^ 32))
         (min (16 - s.e.inChannel ch) (128 - s.e.chan.cmds.length)) ∧
       t.e.chan.cmds = s.e.chan.cmds ++ (List.range k).map (fun i => Cmd.fetched ch (((s.e.ch ch).head + i) % 2 ^ 32)
         (rdRec s.rd (n.ringBase + 64 * (((s.e.ch ch).head + i) % 2 ^ 32 % 2 ^ n.rsize)) 64) n) ∧
       (t.e.ch ch).head = ((s.e.ch ch).head + k) % 2 ^ 32 ∧ (t.e.ch ch).tail = (s.e.ch ch).tail ∧
       t.mem = Memory.apply s.mem (wrapWrites (placeBytes n.headLoc (leBytes 8 (((s.e.ch ch).head + k) % 2 ^ 32 % 2 ^ 32)))) ∧
       t.e.place = s.e.place ∧ t.e.pods = s.e.pods ∧ t.e.stage = s.e.stage ∧ ∀ c, c ≠ ch → t.e.ch c = s.e.ch c)

/-- FENCE (R327): one of SCOPE 0 completes with OK once every earlier command of its channel has completed, one of SCOPE 1 once every
command read before it, on any channel, has; until then it waits, and nothing changes. -/
def Obligations.FencesWaitForEarlierCommands : Prop :=
  ∀ (s : State) (ch seq : Nat) (bad : List UnitRead) (m : Cmd) (n : ChanEntry), s.settled → s.e.runs = true → s.e.ringFree ch n →
    s.e.tileless ch seq → s.e.startable 0x30 ch seq m n →
    ((bit m.raw 128 = false ∧ s.e.earlier m = [] ∨ bit m.raw 128 = true ∧ s.e.chan.cmds.head? = some m) →
      ∃ t : State, exec (.fence ch ⟨seq, bad⟩) s = .next t ∧ s.recorded t m n (Result.ofStatus 0 0) ∧
        t.e.place.ctxs = s.e.place.ctxs ∧ t.e.pods = s.e.pods ∧ t.e.stage = s.e.stage ∧ t.e.remote = s.e.remote ∧
        t.e.drain = s.e.drain) ∧
    (bit m.raw 128 = false → s.e.earlier m ≠ [] → exec (.fence ch ⟨seq, bad⟩) s = .next s) ∧
    (bit m.raw 128 = true → s.e.chan.cmds.head? ≠ some m → exec (.fence ch ⟨seq, bad⟩) s = .next s)

/-- NOP and WAIT (R325, R328, R374, R330, R411): a NOP completes with OK; a WAIT once its counter has reached VALUE, or with the
status its counter holds, and the member of COLL_SIGNATURE and MEMBER_LOST; until then nothing changes. NOP and COMMAND_COMPLETE
(R330, R331, R335): each answers with a state in which the completion record, with the command's opcode, TAG, SEQ and status,
stands at the place of its count in the ring and CQ_TAIL_LOC holds the count after it, and every other byte of memory reads as
before; under SILENT with status OK nothing is written. -/
def Obligations.OrderingCommandsComplete : Prop :=
  (∀ (s : State) (ch seq : Nat) (bad : List UnitRead) (m : Cmd) (n : ChanEntry), s.settled → s.e.runs = true → s.e.ringFree ch n →
     s.e.tileless ch seq →
     (s.e.startable 0x3F ch seq m n →
       ∃ t : State, exec (.nop ch ⟨seq, bad⟩) s = .next t ∧ s.recorded t m n (Result.ofStatus 0 0) ∧ t.e.place.ctxs = s.e.place.ctxs ∧
         t.e.pods = s.e.pods ∧ t.e.stage = s.e.stage ∧ t.e.remote = s.e.remote ∧ t.e.drain = s.e.drain) ∧
     (s.e.startable 0x31 ch seq m n →
       ((s.e.trig (m.fld 128 12)).status = 0 → m.fld 192 64 ≤ (s.e.trig (m.fld 128 12)).count.toNat →
         ∃ t : State, exec (.wait ch ⟨seq, bad⟩) s = .next t ∧ s.recorded t m n (Result.ofStatus 0 0) ∧
           t.e.place.ctxs = s.e.place.ctxs ∧ t.e.pods = s.e.pods ∧ t.e.stage = s.e.stage ∧ t.e.remote = s.e.remote ∧
           t.e.drain = s.e.drain) ∧
       ((s.e.trig (m.fld 128 12)).status ≠ 0 → statusRank (s.e.trig (m.fld 128 12)).status < 14 →
         ∃ t : State, exec (.wait ch ⟨seq, bad⟩) s = .next t ∧ t.e.remote = s.e.remote ∧
           s.recorded t m n { Result.ofStatus (s.e.trig (m.fld 128 12)).status (s.e.trig (m.fld 128 12)).detail with
             member := if (s.e.trig (m.fld 128 12)).status = 0x30 ∨ (s.e.trig (m.fld 128 12)).status = 0x33
               then (s.e.trig (m.fld 128 12)).member else 0 }) ∧
       ((s.e.trig (m.fld 128 12)).status = 0 → (s.e.trig (m.fld 128 12)).count.toNat < m.fld 192 64 →
         exec (.wait ch ⟨seq, bad⟩) s = .next s))) ∧
  (∀ (s : State) (ch seq : Nat) (bad : List UnitRead) (m : Cmd) (n : ChanEntry), s.Inv → s.settled → s.e.runs = true →
     s.e.ringFree ch n →
     let holds := fun (t : State) (r : Result) =>
       (∀ a, (∀ i < 32, (s.e.recordAt ch n + i) % 2 ^ 64 ≠ a) → (∀ i < 8, (n.cqTailLoc + i) % 2 ^ 64 ≠ a) →
         Memory.get t.mem a = Memory.get s.mem a) ∧
       (bit m.raw 9 = true → r.status = 0 → t.mem = s.mem) ∧
       (bit m.raw 9 = false ∨ r.status ≠ 0 → n.cqTailLoc + 8 ≤ 2 ^ 64 →
         rdNat (Memory.get t.mem) n.cqTailLoc 8 = ((s.e.ch ch).cqTail + 1) % 2 ^ 32) ∧
       (bit m.raw 9 = false ∨ r.status ≠ 0 → n.cqTailLoc + 8 ≤ 2 ^ 64 → s.e.recordAt ch n + 32 ≤ 2 ^ 64 →
         n.cqTailLoc + 8 ≤ s.e.recordAt ch n ∨ s.e.recordAt ch n + 32 ≤ n.cqTailLoc →
         rdNat (Memory.get t.mem) (s.e.recordAt ch n) 32 =
           completionRecord ch m.opcode (m.fld 32 32) n.csize (s.e.ch ch).cqTail seq r)
     (s.e.startable 0x3F ch seq m n →
       ∃ t : State, exec (.nop ch ⟨seq, bad⟩) s = .next t ∧ holds t (Result.ofStatus 0 0)) ∧
     (s.e.cmd? ch seq = some m → (s.e.ch ch).entry = some n → (s.e.ch ch).rst = 0 → s.e.mayComplete m = true →
       ∃ t : State, exec (.commandComplete ch seq bad) s = .next t ∧ holds t m.res.reported))

/-- REEL_MARK and TRIGGER_LOAD (R329, R447, R324, R369): a REEL_MARK whose channel has nothing earlier completes with OK and ends the
reel with its mark and cause 1; a TRIGGER_LOAD takes its entries from memory, leaves the others, and completes with OK; one that
names no source, an unaligned one, no entry, or entries beyond the table is rejected with detail 0x84. -/
def Obligations.ReelMarksAndTriggerLoads : Prop :=
  ∀ (s : State) (ch seq : Nat) (bad : List UnitRead) (m : Cmd) (n : ChanEntry), s.settled → s.e.runs = true → s.e.ringFree ch n →
    s.e.tileless ch seq →
    (s.e.startable 0x32 ch seq m n → s.e.earlier m = [] → s.e.health.reelDue ≠ some s.e.cue →
      (∀ x, s.e.health.reelLast = some x → x.1 ≠ s.e.cue) →
      ∃ t : State, exec (.reelMark ch ⟨seq, bad⟩) s = .next t ∧ s.recorded t m n (Result.ofStatus 0 0) ∧
        t.e.health.reelNumber = s.e.health.reelNumber + 1 ∧ t.e.health.reelStart = BitVec.ofNat 64 s.e.cue ∧ t.e.cnt = [] ∧
        fld (leNat t.e.health.header) 192 32 = m.fld 128 32 ∧ fld (leNat t.e.health.header) 224 8 = 1) ∧
    (s.e.startable 0x20 ch seq m n →
      (s.e.portsFree → m.fld 128 64 ≠ 0 → m.fld 128 64 % 32 = 0 → m.fld 208 13 ≠ 0 → m.fld 192 12 + m.fld 208 13 ≤ 4096 →
        ∃ t : State, exec (.triggerLoad ch seq []) s = .next t ∧ s.recorded t m n (Result.ofStatus 0 0) ∧
          (∀ i < m.fld 208 13, t.e.trig (m.fld 192 12 + i) = Trig.ofNat (rdRec s.rd (m.fld 128 64 + 64 * i) 64)) ∧
          (∀ j, j < m.fld 192 12 ∨ m.fld 192 12 + m.fld 208 13 ≤ j → t.e.trig j = s.e.trig j) ∧
          t.e.pods = s.e.pods ∧ t.e.stage = s.e.stage ∧ t.e.drain = s.e.drain) ∧
      (m.fld 128 64 = 0 ∨ m.fld 128 64 % 32 ≠ 0 ∨ m.fld 208 13 = 0 ∨ 4096 < m.fld 192 12 + m.fld 208 13 →
        ∃ t : State, exec (.triggerLoad ch seq []) s = .next t ∧ t.mem = s.mem ∧ t.e.remote = s.e.remote ∧
          s.finalResult t ch seq (Result.ofStatus 0x10 0x84)))

/-- COMMAND_COMPLETE and CHANNEL_RESET (R220, R330, R331, R332, R335, R345 to R347): a command whose work has ended, with its writes
accepted and its panel checks written, completes with its status and record, whatever its opcode; with a full ring it is held;
until its work has ended nothing changes. A reset of a channel ends its commands: one that has no entry and nothing in progress is
DISABLED at once, any other is RESETTING or DISABLED; a number beyond 255 is REFUSED. The commands of the channel that had not
completed leave the engine, each with a completion record of status 0x40 and detail 0x01, in ring order, whatever its SILENT; then
HEAD_LOC and CQ_TAIL_LOC are written, no other byte of memory changes, and the channel stays RESETTING until those writes are
accepted. -/
def Obligations.CommandsAndChannelsEnd : Prop :=
  ∀ (s : State) (ch seq : Nat) (m : Cmd) (n : ChanEntry), s.settled → s.e.runs = true →
    (s.e.cmd? ch seq = some m → (s.e.ch ch).entry = some n → (s.e.ch ch).rst = 0 → m.panels = [] → s.e.owes (.cmd ch seq) = false →
      m.phase = .final ∨ m.phase = .held ∨
        m.phase = .running ∧ m.prob.isSome = true ∧ (m.opened = true ∨ m.ending = true) ∧ s.e.cmdDrained ch seq = true →
      (s.e.ch ch).room n = true → (∀ x ∈ s.e.chan.cmds, x.ch = ch → x.phase = .held → m.phase = .held ∧ m.doneAt ≤ x.doneAt) →
      ∀ bad : List UnitRead, ∃ t : State, exec (.commandComplete ch seq bad) s = .next t ∧ s.recorded t m n m.res.reported) ∧
    (∀ bad : List UnitRead, s.e.cmd? ch seq = some m → s.e.mayComplete m = false ∨ (s.e.ch ch).rst ≠ 0 →
      exec (.commandComplete ch seq bad) s = .next s) ∧
    (s.e.cmd? ch seq = some m → (s.e.ch ch).entry = some n → (s.e.ch ch).rst = 0 → m.panels = [] → s.e.owes (.cmd ch seq) = false →
      m.phase = .final → (s.e.ch ch).room n = false → s.e.portsFree →
      2 ^ n.csize ≤ ((s.e.ch ch).cqTail + 2 ^ 32 - rdCount s.rd n.cqHeadLoc) % 2 ^ 32 →
      ∃ t : State, exec (.commandComplete ch seq []) s = .next t ∧ t.mem = s.mem ∧
        (t.e.cmd? ch seq).map (fun x => (x.phase, x.res)) = some (.held, m.res)) ∧
    (∀ (p : Path) (v : BitVec 16), s.e.opens p →
      (v.toNat ≤ 255 → (s.e.ch v.toNat).rst = 0 →
        (s.e.portsFree → ∃ t : State, exec (.channelReset p v) s = .next t ∧ t.e.result p = 0 ∧
          ((t.e.ch v.toNat).state = .resetting ∨ (t.e.ch v.toNat).state = .disabled) ∧
          ((s.e.ch v.toNat).entry = none → (∀ x ∈ s.e.chan.cmds, x.ch ≠ v.toNat) → (∀ c ∈ s.e.place.ctxs, c.ch ≠ v.toNat) →
            (∀ u ∈ s.e.drain.units, ∀ l ∈ u.out, l.ch ≠ v.toNat) →
            s.e.owes (.channel v.toNat) = false → t.mem = s.mem ∧ (t.e.ch v.toNat).state = .disabled ∧ t.e.chan.cmds = s.e.chan.cmds)) ∧
        (let c := s.e.ch v.toNat
         let ms := s.e.chan.cmds.filter fun x => x.ch == v.toNat
         c.entry = some n → n.cqValid = true → c.cqKnown = true → c.cqTail < 2 ^ 32 → c.cqHead < 2 ^ 32 →
         s.e.mports.length = 32 → (∀ x ∈ ms, x.phase ≠ .held ∧ s.e.owes (.cmd v.toNat x.seq) = false) →
         (∀ x ∈ s.e.place.ctxs, x.ch ≠ v.toNat) → (∀ u ∈ s.e.drain.units, ∀ l ∈ u.out, l.ch ≠ v.toNat) →
         (c.cqTail + 2 ^ 32 - c.cqHead) % 2 ^ 32 + ms.length ≤ 2 ^ n.csize →
         ∃ t : State, exec (.channelReset p v) s = .next t ∧ t.e.result p = 0 ∧ (t.e.ch v.toNat).state = .resetting ∧
           t.e.chan.cmds = s.e.chan.cmds.filter (fun x => x.ch != v.toNat) ∧
           (t.e.ch v.toNat).cqTail = (c.cqTail + ms.length) % 2 ^ 32 ∧
           t.mem = Memory.apply s.mem (wrapWrites
             ((ms.zipIdx.flatMap fun x =>
               let k := (c.cqTail + x.2) % 2 ^ 32
               placeBytes (n.cqBase + 32 * (k % 2 ^ n.csize)) (leBytes 32 (completionRecord v.toNat x.1.opcode (x.1.fld 32 32) n.csize k
                 x.1.seq { x.1.res with status := 0x40, detail := 0x01, member := 0 })) ++
                 placeBytes n.cqTailLoc (leBytes 8 ((k + 1) % 2 ^ 32))) ++
               placeBytes n.headLoc (leBytes 8 (c.head % 2 ^ 32)) ++
               placeBytes n.cqTailLoc (leBytes 8 ((c.cqTail + ms.length) % 2 ^ 32)))))) ∧
      (255 < v.toNat → ∃ t : State, exec (.channelReset p v) s = .next t ∧ s.turnedAway t p 5))

/-! ### Commands that start work -/

/-- GEMM, GEMM_SPARSE and TAKE_GEMM (R158, R167, R196, R199, R230, R111, R343, R344): a command of a generation 4 channel whose sheet
passes every check, and whose pre-passes find every panel they read sound, runs on what its records hold, with its anchors, and
for a take its exponents and count, fixed; a chain command waits for its context. The first check that fails rejects it with its
detail, a sheet at address 0 has detail 0x82, and a panel that fails ends the command with PANEL_CHECK. A GEMM of a channel of
generation 2 or 3 has its legacy call sheet judged by the translation checks, whose first failure rejects it with 0xA0 to 0xA3,
then the translated call sheet by the same checks, and runs on that; the fields of a translation that R344 leaves open are the
model's choices (log entries 161 and 162). Reads go through free memory ports (R476, R479). -/
def Obligations.SheetCommandsStartOrAreRejected : Prop :=
  ∀ (s : State) (ch seq : Nat) (m : Cmd) (n : ChanEntry), s.settled → s.e.runs = true → s.e.portsFree →
    (n.gen = 4 → ∀ x ∈ [(Instr.gemm ch seq [], GemmKind.gemm, 0x01), (Instr.gemmSparse ch seq [], GemmKind.sparse, 0x02),
        (Instr.takeGemm ch seq [], GemmKind.take, 0x03)],
      s.e.startable x.2.2 ch seq m n →
      (m.fld 128 64 = 0 → ∃ t : State, exec x.1 s = .next t ∧ t.mem = s.mem ∧ t.e.place = s.e.place ∧
        s.finalResult t ch seq (Result.ofStatus 0x10 0x82)) ∧
      (∀ d : Nat, m.fld 128 64 ≠ 0 → s.e.loaderCheck s.rd x.2.1 (readProblem s.rd (m.fld 128 64)) (m.fld 128 64) n.chainEn = some d →
        ∃ t : State, exec x.1 s = .next t ∧ t.mem = s.mem ∧ t.e.place = s.e.place ∧ s.finalResult t ch seq (Result.ofStatus 0x10 d)) ∧
      (m.fld 128 64 ≠ 0 → s.e.loaderCheck s.rd x.2.1 (readProblem s.rd (m.fld 128 64)) (m.fld 128 64) n.chainEn = none →
        let q := readProblem s.rd (m.fld 128 64)
        (∃ y ∈ q.passPanels (q.passLines s.rd x.2.1), (checkPanels s.rd (fun _ => false) y.1.base y.1.checkBase y.2).2 ≠ none) →
        ∃ t : State, exec x.1 s = .next t ∧ t.mem = s.mem ∧ t.e.place = s.e.place ∧ s.finalResult t ch seq (Result.ofStatus 0x20 0)) ∧
      (m.fld 128 64 ≠ 0 → s.e.loaderCheck s.rd x.2.1 (readProblem s.rd (m.fld 128 64)) (m.fld 128 64) n.chainEn = none →
        let q := readProblem s.rd (m.fld 128 64)
        (∀ y ∈ q.passPanels (q.passLines s.rd x.2.1), (checkPanels s.rd (fun _ => false) y.1.base y.1.checkBase y.2).2 = none) →
        ∃ (t : State) (q : Cmd) (p : Problem), exec x.1 s = .next t ∧ t.mem = s.mem ∧ t.e.place = s.e.place ∧ t.e.pods = s.e.pods ∧
          t.e.stage = s.e.stage ∧ t.e.remote = s.e.remote ∧ t.e.drain = s.e.drain ∧
          (∀ c k, (c, k) ≠ (ch, seq) → t.e.cmd? c k = s.e.cmd? c k) ∧
          p = (readProblem s.rd (m.fld 128 64)).withVectors s.rd ∧ t.e.cmd? ch seq = some q ∧ q.phase = .running ∧
          q.kind = some x.2.1 ∧ q.prob = some p ∧ q.raw = m.raw ∧ q.prio = n.prio ∧ q.chainWait = p.drain.chainEn ∧
          q.anchor0 = p.uniformAnchor x.2.1 ∧ q.anchors = p.blockAnchors s.rd x.2.1 ∧
          q.res.fast = p.fast ∧
          (x.2.1 = .take → q.rowExp = p.takeRows s.rd ∧ q.colExp = p.takeCols s.rd ∧ q.res.count = p.takeBelow s.rd))) ∧
    (n.gen ≠ 4 → s.e.startable 0x01 ch seq m n → m.fld 128 64 ≠ 0 →
      let l := Legacy.ofNat (rdRec s.rd (m.fld 128 64) 128)
      let p := l.translate (s.e.legacyAnchor l) (m.fld 32 32)
      (∀ d : Nat, l.check n.gen = some d →
        ∃ t : State, exec (.gemm ch seq []) s = .next t ∧ t.mem = s.mem ∧ t.e.place = s.e.place ∧
          s.finalResult t ch seq (Result.ofStatus 0x10 d)) ∧
      (∀ d : Nat, l.check n.gen = none → s.e.loaderCheck s.rd .gemm p (m.fld 128 64) n.chainEn = some d →
        ∃ t : State, exec (.gemm ch seq []) s = .next t ∧ t.mem = s.mem ∧ t.e.place = s.e.place ∧
          s.finalResult t ch seq (Result.ofStatus 0x10 d)) ∧
      (l.check n.gen = none → s.e.loaderCheck s.rd .gemm p (m.fld 128 64) n.chainEn = none →
        ∃ (t : State) (q : Cmd), exec (.gemm ch seq []) s = .next t ∧ t.mem = s.mem ∧ t.e.place = s.e.place ∧ t.e.pods = s.e.pods ∧
          t.e.stage = s.e.stage ∧ t.e.remote = s.e.remote ∧ t.e.drain = s.e.drain ∧
          (∀ c k, (c, k) ≠ (ch, seq) → t.e.cmd? c k = s.e.cmd? c k) ∧
          t.e.cmd? ch seq = some q ∧ q.phase = .running ∧ q.kind = some .gemm ∧ q.prob = some (p.withVectors s.rd) ∧ q.raw = m.raw ∧
          q.prio = n.prio ∧ q.anchor0 = (p.withVectors s.rd).uniformAnchor .gemm))

/-- COPY (R323, R338, R341): LEN bytes at DST take the bytes that stood at SRC, every other byte stays, and the command's result is
OK, where the panels of a source with checks pass; a payload that check 0x83 refuses changes no memory. Below generation 4 there
are no panel checks (the model's reading, log entry 135). Its reads go through free memory ports (R476, R479). -/
def Obligations.CopyMovesItsBytes : Prop :=
  ∀ (s : State) (ch seq : Nat) (m : Cmd) (n : ChanEntry), s.Inv → s.e.lost = false → s.e.runs = true → s.e.startable 0x05 ch seq m n →
    let sc := if n.gen = 4 then m.fld 256 64 else 0
    let dc := if n.gen = 4 then m.fld 320 64 else 0
    (copyBad (m.fld 128 64) (m.fld 192 64) sc dc (m.fld 384 48) = true →
      ∃ t : State, exec (.copy ch seq ⟨[], []⟩) s = .next t ∧ t.mem = s.mem ∧ s.finalResult t ch seq (Result.ofStatus 0x10 0x83)) ∧
    (copyBad (m.fld 128 64) (m.fld 192 64) sc dc (m.fld 384 48) = false →
      (sc ≠ 0 → (checkPanels s.rd (fun _ => false) (m.fld 128 64) sc (List.range (m.fld 384 48 / 4096))).2 = none) →
      s.e.portsFree → s.e.remote.wins = [] → m.fld 192 64 + m.fld 384 48 ≤ 2 ^ 64 → m.fld 128 64 + m.fld 384 48 ≤ 2 ^ 64 →
      ∃ t : State, exec (.copy ch seq ⟨[], []⟩) s = .next t ∧ s.finalResult t ch seq (Result.ofStatus 0 0) ∧
        (∀ i < m.fld 384 48, Memory.get t.mem (m.fld 192 64 + i) = Memory.get s.mem (m.fld 128 64 + i)) ∧
        (∀ a : Nat, a < m.fld 192 64 ∨ m.fld 192 64 + m.fld 384 48 ≤ a → Memory.get t.mem a = Memory.get s.mem a) ∧
        t.e.place = s.e.place ∧ t.e.pods = s.e.pods ∧ t.e.stage = s.e.stage ∧ t.e.remote = s.e.remote)

/-- COMPRESS (R269, R271, R272, R274): a sheet that passes its checks has its stored values, its codes and its headers written, every
other byte of memory stays, and its result is OK; the first check that fails rejects it. What stands behind the last row of a
block, and the low bits that a block header keeps of larger numbers, are the model's choices (log entries 142 and 143). Its reads
go through free memory ports (R476, R479). -/
def Obligations.CompressWritesItsWeights : Prop :=
  ∀ (s : State) (ch seq : Nat) (m : Cmd) (n : ChanEntry), s.Inv → s.e.lost = false → s.e.runs = true → s.e.startable 0x04 ch seq m n →
    let a := m.fld 128 64
    let c := CompressSheet.ofNat (rdRec s.rd a 128)
    let src := rdOpd s.rd c.src
    let dst := rdOpd s.rd c.dst
    (a = 0 → ∃ t : State, exec (.compress ch seq []) s = .next t ∧ t.mem = s.mem ∧ s.finalResult t ch seq (Result.ofStatus 0x10 0x82)) ∧
    (∀ d : Nat, s.e.portsFree → a ≠ 0 → compressCheck c src dst a = some d →
      ∃ t : State, exec (.compress ch seq []) s = .next t ∧ t.mem = s.mem ∧ s.finalResult t ch seq (Result.ofStatus 0x10 d)) ∧
    (s.e.portsFree → a ≠ 0 → compressCheck c src dst a = none →
      (checkPanels s.rd (fun _ => false) src.base src.checkBase (compressPanels c src)).2 = none →
      ∃ t : State, exec (.compress ch seq []) s = .next t ∧ s.finalResult t ch seq (Result.ofStatus 0 0) ∧
        t.mem = Memory.apply s.mem (wrapWrites (compressWrites s.rd c src dst)) ∧
        (∀ x : Nat, (∀ w ∈ compressWrites s.rd c src dst, w.1 % 2 ^ 64 ≠ x) → Memory.get t.mem x = Memory.get s.mem x) ∧
        t.e.place = s.e.place ∧ t.e.pods = s.e.pods ∧ t.e.stage = s.e.stage)

/-- PUT, GET, ADDX, FADD and SIGNAL (R350, R354, R356, R358, R360, R373): an operation that the origin's checks refuse ends with
LOADER_REJECT and its detail, which pass to its trigger entry under TRIG_EN; one that passes them waits while 256 are in flight or
handed on, and otherwise is in flight under a tag of its own (which one is the model's choice, log entry 139), its packets, in
order, put on the route to its target, or held back while an earlier operation of its channel has not sent its first flit; what of
its data cannot be read is left out, an operation whose first bytes cannot be read begins with an empty packet, and one of which
nothing can be read ends with SECTOR_UNCORRECTABLE (R377; what stands in for what cannot be read is the model's choice, log
entries 138 and 123); memory is unchanged. -/
def Obligations.RemoteOperationsAreIssued : Prop :=
  ∀ (s : State) (ch seq : Nat) (m : Cmd) (n : ChanEntry) (us : List UnitRead), s.settled → s.e.runs = true → s.e.portsFree →
    ∀ x ∈ [(Instr.put ch seq us, 0x10, us), (Instr.get ch seq, 0x11, []), (Instr.addx ch seq us, 0x12, us),
        (Instr.fadd ch seq, 0x13, []), (Instr.signal ch seq, 0x14, [])],
      s.e.startable x.2.1 ch seq m n →
      let bad := fates s.e.chkgen x.2.2
      let a := RemoteArgs.ofCommand m.raw
      let tag := s.e.remote.nextTag
      let ps := opPieces (received s.e.chkgen x.2.2 s.rd) bad a
      let packets : List Packet := ps.zipIdx.map fun y =>
        ⟨opHeader s.e.link.ident tag a (y.2 == 0) (y.2 + 1 == ps.length) y.1.1 y.1.2.length, y.1.2, []⟩
      let waits := s.e.remote.ops.any fun o => o.by_.same (.cmd ch seq) && s.e.unsentOp o
      let st := if a.localReads.any (fun r => (hits bad r.1 r.2).isSome) then 0x21 else 0
      (∀ d : Nat, s.e.originCheck a false = some d →
        ∃ t : State, exec x.1 s = .next t ∧ t.mem = s.mem ∧ t.e.link = s.e.link ∧ s.finalResult t ch seq (Result.ofStatus 0x10 d) ∧
          (bit m.raw 172 = false → t.e.remote = s.e.remote) ∧
          (bit m.raw 172 = true → t.e.remote = (s.e.trigFail (fld m.raw 160 12) 0x10 d 0).remote)) ∧
      (s.e.originCheck a false = none → 256 ≤ s.e.remote.ops.length + s.e.remote.fired.length → exec x.1 s = .next s) ∧
      (s.e.originCheck a false = none → s.e.remote.ops.length + s.e.remote.fired.length < 256 → ps ≠ [] →
        (∀ o ∈ s.e.remote.ops, o.held ≠ [] → s.e.opWaits o = true) →
        ∃ (t : State) (via : Via), exec x.1 s = .next t ∧ t.mem = s.mem ∧ s.e.route a.target = some via ∧
          (t.e.cmd? ch seq).map (·.phase) = some .running ∧ t.e.count 26 = s.e.count 26 + 1 ∧
          (∀ o ∈ s.e.remote.ops, o.ptag ≠ tag) ∧
          t.e.remote = { s.e.remote with
            ops := s.e.remote.ops ++
              [⟨tag, .cmd ch seq, a, via, Result.ofStatus st 0, false, false, if waits then packets else []⟩]
            tag := (tag + 1) % 2 ^ 16 } ∧
          t.e.place = s.e.place ∧ t.e.pods = s.e.pods ∧ t.e.stage = s.e.stage ∧
          t.e.link = if waits then s.e.link else (packets.foldl (fun e p => e.sendPacket via p) s.e).link) ∧
      (s.e.originCheck a false = none → s.e.remote.ops.length + s.e.remote.fired.length < 256 → ps = [] → m.res = Result.ofStatus 0 0 →
        ∃ t : State, exec x.1 s = .next t ∧ t.mem = s.mem ∧ t.e.link = s.e.link ∧ s.finalResult t ch seq (Result.ofStatus 0x21 0) ∧
          t.e.remote.ops = s.e.remote.ops.filter fun o => o.ptag != tag)

/-- CHAIN_CONTEXT_LOAD and SLATE_OPEN (R295, R296, R205, R208): the record and the vectors of a chain command are loaded once no
earlier chain command of its channel has a tile left, and until then nothing changes; a command that waits for nothing opens its
slate with its items counted from 0, once; neither happens while its channel is being reset (R345). -/
def Obligations.ChainContextsLoadBeforeSlates : Prop :=
  ∀ (s : State) (ch seq : Nat) (m : Cmd) (p : Problem) (k : GemmKind), s.settled → s.e.runs = true →
    s.e.cmd? ch seq = some m → m.prob = some p → m.kind = some k →
    (m.chainWait = true → s.e.chainBusy ch seq = false → (s.e.ch ch).rst = 0 → s.e.portsFree →
      ∃ t : State, exec (.chainContextLoad ch seq []) s = .next t ∧ t.mem = s.mem ∧ t.e.place = s.e.place ∧ t.e.pods = s.e.pods ∧
        t.e.stage = s.e.stage ∧ t.e.cmd? ch seq = some { m with chainWait := false } ∧
        nget? t.e.drain.chains ch = some (⟨rdChain s.rd p.drain.chain, (List.range 4).map fun i =>
          if (rdChain s.rd p.drain.chain).vmask.testBit i then rdWords s.rd ((rdChain s.rd p.drain.chain).bases.getD i 0) 4 p.lens.n else []⟩, seq) ∧
        (∀ c, c ≠ ch → nget? t.e.drain.chains c = nget? s.e.drain.chains c) ∧ t.e.drain.units = s.e.drain.units ∧
        t.e.drain.act = s.e.drain.act) ∧
    (m.chainWait = false ∨ s.e.chainBusy ch seq = true ∨ (s.e.ch ch).rst ≠ 0 → exec (.chainContextLoad ch seq []) s = .next s) ∧
    (m.phase = .running → m.opened = false → m.chainWait = false → m.ending = false → (s.e.ch ch).rst = 0 →
      ∃ t : State, exec (.slateOpen ch seq) s = .next t ∧ t.mem = s.mem ∧ t.e.cmd? ch seq = some { m with opened := true } ∧
        t.e.place = { s.e.place with slates := s.e.place.slates ++
          [⟨ch, seq, 0, p.items.length, s.e.chooseShape p k p.sheet.shape, [], [], false⟩] } ∧
        t.e.pods = s.e.pods ∧ t.e.stage = s.e.stage ∧ t.e.drain = s.e.drain) ∧
    (m.phase ≠ .running ∨ m.opened = true ∨ m.chainWait = true ∨ m.ending = true ∨ (s.e.ch ch).rst ≠ 0 → exec (.slateOpen ch seq) s = .next s)

/-! ### Placement and what feeds the array -/

/-- RUN_DRAW (R131, R209, R210): a unit with items left in its run starts the next one, and a free unit takes from the leading slate
the items of R210, counted on from the slate's counter, and starts the first; each tile of a new item gets a context at the unit,
with nothing counted, once what it needs is free, and until then nothing changes. A quad that stands as a gang with nothing left
for the gang to draw gives it up as one of its positions draws (R203). -/
def Obligations.UnitsDrawRuns : Prop :=
  ∀ (s : State) (u : Taker), s.settled → s.e.runs = true → (∀ c ∈ s.e.place.ctxs, c.id < s.e.place.nextId) →
    (∀ r ∈ s.e.place.runs, r.id < s.e.place.nextId) →
    (∀ p : Nat, u = .pos p → s.e.gangVoid (p / 4) = true →
      exec (.runDraw u) s = exec (.runDraw u) { s with e := s.e.updGang (p / 4) Gang.unform }) ∧
    (s.e.giveUpGang u = s.e →
    (∀ (r : Run) (it : Reissue) (rest : List Reissue) (p : Problem),
      s.e.place.runs.find? (fun x => x.taker == u && !x.items.isEmpty) = some r → r.items = it :: rest →
      (s.e.cmd? r.ch r.seq).bind (·.prob) = some p →
      (s.e.startItem s.rd r = none → exec (.runDraw u) s = .next s) ∧
      ((s.e.startItem s.rd r).isSome = true → (∀ x ∈ it.tiles, x.ctx = none) →
        ∃ (t : State) (new : List TileCtx), exec (.runDraw u) s = .next t ∧ t.mem = s.mem ∧ t.e.pods = s.e.pods ∧ t.e.stage = s.e.stage ∧
          t.e.chan = s.e.chan ∧ t.e.place.slates = s.e.place.slates ∧ t.e.place.atts = s.e.place.atts ∧
          t.e.place.runs = mapIf (fun x => x.id == r.id) (fun x => { x with items := rest }) s.e.place.runs ∧
          t.e.place.ctxs = s.e.place.ctxs ++ new ∧
          new.map (·.org) = (p.itemTiles r.shape it.item).filter (fun o => !coveredBy it.tiles r.shape o) ∧
          ∀ c ∈ new, c.run = r.id ∧ c.item = it.item ∧ c.ch = r.ch ∧ c.seq = r.seq ∧ c.shape = r.shape ∧ c.pos ∈ takerPositions u ∧
            c.gen = 0 ∧ c.count = 0 ∧ c.marks = [] ∧ c.progress = [] ∧ c.started = false ∧ c.sweeping = false)) ∧
    (∀ (sl : Slate) (p : Problem) (k : Nat), (∀ x ∈ s.e.place.runs, x.taker = u → x.items = []) → s.e.unitFree u = true →
      s.e.leading [u] = some sl → s.e.slate? sl.ch sl.seq = some sl → (s.e.cmd? sl.ch sl.seq).bind (·.prob) = some p →
      sl.reissue = [] → sl.counter < sl.items →
      k = (if p.runLen (s.e.freeUnits sl.shape) * s.e.freeUnits sl.shape ≤ sl.items - sl.counter
        then p.runLen (s.e.freeUnits sl.shape) else 1) →
      let r := (s.e.take u sl p).1
      let e2 := (s.e.take u sl p).2
      let e3 : Eng := { e2 with place := { e2.place with runs := e2.place.runs ++ [r] } }
      r.items = (((List.range k).map (sl.counter + ·)).filter (· < sl.items)).map (fun i => ⟨i, [], sl.shape, none⟩) ∧
      (e3.startItem s.rd r = none → exec (.runDraw u) s = .next s) ∧
      ((e3.startItem s.rd r).isSome = true →
        ∃ t : State, exec (.runDraw u) s = .next t ∧ t.mem = s.mem ∧ t.e.pods = s.e.pods ∧ t.e.stage = s.e.stage ∧ t.e.chan = s.e.chan ∧
          (t.e.slate? sl.ch sl.seq).map (·.counter) = some (sl.counter + k) ∧
          t.e.place.runs = s.e.place.runs ++ [{ r with items := r.items.tail }] ∧ r.taker = u ∧ r.ch = sl.ch ∧ r.seq = sl.seq ∧
          r.shape = sl.shape ∧ (∀ c ∈ s.e.place.ctxs, c ∈ t.e.place.ctxs) ∧
          ((p.itemTiles sl.shape sl.counter).all fun o => t.e.place.ctxs.any fun c => c.org == o && c.run == r.id) = true)))

/-- GANG_FORM, GANG_HOLD and GANG_RESUME (R203, R80): a quad whose four positions are open forms a gang for the leading slate at once
where no run of its units is left, and is forming until then; a member that cannot read its next row raises the hold, which stands
until every member that raised it can read. GANG_COMBINE (R46, R79, R94): once every member's partial of a row and column waits,
they leave the combiner as one, whose word is their sum under R45, or in fast mode the values added in order, and whose low misses
are theirs together; until then nothing changes. A residue fault of the combiner freezes the attempt, which sends nothing, and the
command ends with 0x22 once the K-step has frozen REEXEC_LIMIT times (R146, R427, R429); an uncorrectable transfer ends the
attempt (the model's reading of R422, log entry 153). -/
def Obligations.GangsFormAndCombine : Prop :=
  (∀ (s : State) (q : Nat), s.settled → s.e.runs = true →
     (∀ sl : Slate, q < 8 → s.e.leading (quadTakers q) = some sl → (s.e.gang q).formed = false → s.e.canDraw (.quad q) sl = true →
       (takerPositions (.quad q)).all s.e.posOpen = true →
       ((∀ r ∈ s.e.place.runs, r.taker ∉ quadTakers q) → exec (.gangForm q) s =
         .next { s with e := s.e.updGang q fun g => { g with formed := true, forming := none, c0 := none, holds := [] } }) ∧
       ((∃ r ∈ s.e.place.runs, r.taker ∈ quadTakers q) → exec (.gangForm q) s =
         .next { s with e := s.e.updGang q fun g => { g with forming := some (sl.ch, sl.seq) } })) ∧
     ((s.e.gang q).formed = true → exec (.gangForm q) s = .next s) ∧
     (∀ m : Nat, (s.e.gang q).formed = true → m < 4 → q < s.e.place.gangs.length → s.e.memberStuck q m = true →
       ∃ t : State, exec (.gangHold q m) s = .next t ∧ m ∈ (t.e.gang q).holds ∧ t.e = s.e.updGang q (fun _ => t.e.gang q) ∧
         t.mem = s.mem ∧ t.e.gang q = { s.e.gang q with holds := (t.e.gang q).holds } ∧
         ∀ x, x ∈ (t.e.gang q).holds ↔ x = m ∨ x ∈ (s.e.gang q).holds) ∧
     (∀ m : Nat, (s.e.gang q).formed = false ∨ 4 ≤ m ∨ s.e.memberStuck q m = false → exec (.gangHold q m) s = .next s) ∧
     ((∀ m ∈ (s.e.gang q).holds, s.e.memberStuck q m = false) →
       exec (.gangResume q) s = .next { s with e := s.e.updGang q fun g => { g with holds := [] } }) ∧
     ((∃ m ∈ (s.e.gang q).holds, s.e.memberStuck q m = true) → exec (.gangResume q) s = .next s)) ∧
  (∀ (s : State) (q col : Nat), s.settled → s.e.runs = true →
     (s.e.combHeads q col = none → exec (.gangCombine q col ⟨false, []⟩) s = .next s) ∧
     (∀ (c : TileCtx) (p : Problem) (hs : List PartialW), s.e.combHeads q col = some (c, p, hs) →
       ∃ (t : State) (o : PartialW), exec (.gangCombine q col ⟨false, []⟩) s = .next t ∧ t.mem = s.mem ∧ t.e.pods = s.e.pods ∧
         t.e.stage.link (.gang q) = s.e.stage.link (.gang q) ++ [o] ∧ t.e.stage.sectors = s.e.stage.sectors ∧
         t.e.place.ctxs = s.e.place.ctxs ∧ t.e.place.atts = s.e.place.atts ∧
         (∀ m ∈ combMembers c.shape col, nget (t.e.gang q).comb (combKey m (col % 128)) [] =
           (nget (s.e.gang q).comb (combKey m (col % 128)) []).drop 1) ∧
         (∀ a ∈ hs.head?, o.att = a.att ∧ o.row = a.row ∧ o.token = a.token) ∧ o.dropped = lsum (hs.map (·.dropped)) ∧
         (∀ a b : PartialW, hs = [a, b] → p.fast = false → o.z = zAdd p.W a.z b.z ∧ o.low = a.low + b.low) ∧
         (∀ a b y z : PartialW, hs = [a, b, y, z] → p.fast = false →
           o.z = zAdd p.W (zAdd p.W a.z b.z) (zAdd p.W y.z z.z) ∧ o.low = a.low + b.low + (y.low + z.low)) ∧
         (∀ a b : PartialW, hs = [a, b] → p.fast = true →
           let v := gangFastAdd (fastFmt p.sheet.acc) a.fv b.fv
           o.fv = v.1 ∧ o.low = a.low + b.low + b2n v.2) ∧
         (∀ a b y z : PartialW, hs = [a, b, y, z] → p.fast = true →
           let v := gangFastAdd (fastFmt p.sheet.acc) a.fv b.fv
           let u := gangFastAdd (fastFmt p.sheet.acc) y.fv z.fv
           let w := gangFastAdd (fastFmt p.sheet.acc) v.1 u.1
           o.fv = w.1 ∧ o.low = (a.low + b.low + b2n v.2) + (y.low + z.low + b2n u.2) + b2n w.2)) ∧
     (∀ (c : TileCtx) (p : Problem) (h : PartialW) (hs : List PartialW) (a : Attempt) (y : TileCtx),
       s.e.combHeads q col = some (c, p, h :: hs) → s.e.att? h.att = some a → s.e.ctx? a.ctx = some y →
       (p.fast = false →
         ∃ t : State, exec (.gangCombine q col ⟨true, []⟩) s = .next t ∧ t.mem = s.mem ∧ t.e.pods = s.e.pods ∧
           t.e.stage.sectors = s.e.stage.sectors ∧ t.e.att? a.id = none ∧ t.e.count 45 = s.e.count 45 + 1 ∧
           t.e.stage.link (.gang q) = (s.e.stage.link (.gang q)).filter (fun x => x.att != a.id) ∧
           (t.e.ctx? a.ctx).map (fun x => nget x.freezes a.kstep 0) = some (nget y.freezes a.kstep 0 + 1) ∧
           ∀ m : Cmd, s.e.cmd? y.ch y.seq = some m →
             (t.e.cmd? y.ch y.seq).map (fun n => (n.ending, n.res.status)) =
               some (if s.e.health.reexec.toNat ≤ nget y.freezes a.kstep 0 + 1 then (true, statusMax m.res.status 0x22)
                 else (m.ending, m.res.status))) ∧
       (∀ (f : Bool) (up : Upset), up ≠ [] → upsetOutcome up = none → h.token = false →
         ∃ t : State, exec (.gangCombine q col ⟨f, up⟩) s = .next t ∧ t.mem = s.mem ∧ t.e.pods = s.e.pods ∧
           t.e.stage.sectors = s.e.stage.sectors ∧ t.e.att? a.id = none ∧ t.e.count 40 = s.e.count 40 + 1)))

/-- PROGRAM_FETCH and OPERAND_FILL (R168, R184, R217, R219, R421, R425, R427): a pod that serves a position of a run takes the image
of one of the sheet's buckets once; a line is asked for under a fill credit, and only those of its units that hold something the
command reads; once they are there the line's fill token stands, for a tensor with checks on every line of the panel after its
CRC-32C has matched; a panel whose CRC-32C does not match is asked for once more, and after a second mismatch the command ends
with PANEL_CHECK (0x20); a line that holds a unit which cannot be read any more is asked for again. Which free sectors a line
takes (Eng.lineRoom: the lowest), and that a fill is several commands, are the model's choices (log entries 125 and 65). Reads
within a step go through free memory ports (R476, R479). -/
def Obligations.ProgramsAndOperandsAreFetched : Prop :=
  ∀ (s : State) (pos : Nat) (r : Run) (p : Problem), s.settled → s.e.runs = true → pos ∈ takerPositions r.taker →
    s.e.place.runs.find? (fun x => x.id == r.id) = some r → (s.e.cmd? r.ch r.seq).bind (·.prob) = some p →
    (∀ (pod bucket : Nat) (g : Prog), s.e.runAt pos r.ch r.seq = some r → (s.e.pod pod).lpos = some pos → bucket < 6 →
      p.sheet.buckets.testBit bucket = true →
      g = p.progs.getD (6 * r.shape + bucket) ⟨0, 0, false⟩ → g.valid = true → g.pbase < 2 ^ 64 → s.e.serves pod = true →
      ((s.e.pod pod).store.contains (g.pbase, g.plen) = false → s.e.portsFree →
        ∃ t : State, exec (.programFetch pod r.ch r.seq bucket []) s = .next t ∧ t.mem = s.mem ∧ t.pending = s.pending ∧
          t.e.pods = (s.e.updPod pod fun d => { d with store := d.store ++ [(g.pbase, g.plen)], fetches := d.fetches + 1 }).pods ∧
          t.e.place = s.e.place ∧ t.e.chan = s.e.chan ∧ t.e.stage = s.e.stage ∧ t.e.drain = s.e.drain ∧ t.e.mports = s.e.mports) ∧
      ((s.e.pod pod).store.contains (g.pbase, g.plen) = true → exec (.programFetch pod r.ch r.seq bucket []) s = .next s)) ∧
    (∀ (x : Tensor) (line : Nat), p.mayFill s.rd x line = true → s.e.served pos = true → s.e.mports.length = 32 →
      let buf := fun (e : Eng) (l : Nat) => e.buf? pos r.id x l
      let mask := p.unitMask s.rd x p.wholeSpan line
      let asks := fun (e : Eng) (mask : Nat) => ∃ q ∈ (e.port (portOf (line * 256))).rq ++ (e.port (portOf (line * 256))).rd,
        q.line = line ∧ q.mask = mask ∧ q.pos = pos ∧ q.run = r.id ∧ q.tensor = x ∧ q.ch = r.ch ∧ q.seq = r.seq
      let room := fun (e : Eng) => 8 ≤ (e.lineRoom pos).length ∧ e.streamRoom s.rd r pos x line = true
      (p.checked x = none → buf s.e line = none → room s.e →
        ∃ t : State, exec (.operandFill pos r.id x line [] ⟨[], []⟩) s = .next t ∧ t.mem = s.mem ∧ t.e.pods = s.e.pods ∧ t.e.stage = s.e.stage ∧
          buf t.e line = some ⟨pos, r.id, x, line, mask, [], false, 0, s.e.lineRoom pos⟩ ∧ asks t.e mask ∧
          ∀ n, n ≠ portOf (line * 256) → t.e.port n = s.e.port n) ∧
      (p.checked x = none → buf s.e line = none → ¬ room s.e → ¬ room (s.e.releaseLines s.rd pos) →
        exec (.operandFill pos r.id x line [] ⟨[], []⟩) s = .next { s with e := s.e.releaseLines s.rd pos }) ∧
      (∀ b : BufLine, p.checked x = none → buf s.e line = some b → b.token = false → b.complete = true →
        ∃ t : State, exec (.operandFill pos r.id x line [] ⟨[], []⟩) s = .next t ∧ t.mem = s.mem ∧ t.e.pods = s.e.pods ∧
          t.e.stage = s.e.stage ∧ t.e.mports = s.e.mports ∧
          t.e.place.bufs = (s.e.updBuf pos r.id x line fun b => { b with token := true }).place.bufs) ∧
      (∀ o : Opd, p.checked x = some o → (∃ l ∈ panelLines o line, (buf s.e l).any (fun b => !b.token) = true) →
        ((panelLines o line).all fun l => (buf s.e l).any BufLine.complete) = true →
        crc32c ((panelLines o line).flatMap fun l => ((buf s.e l).map BufLine.bytes).getD []) =
          rdNat s.rd (o.checkBase + 4 * ((256 * line - o.base) / 4096)) 4 → s.e.portsFree →
        ∃ t : State, exec (.operandFill pos r.id x line [] ⟨[], []⟩) s = .next t ∧ t.mem = s.mem ∧ t.e.count 42 = s.e.count 42 + 1 ∧
          t.e.mports = s.e.mports ∧
          ∀ l, (buf t.e l).map (·.token) = if l ∈ panelLines o line then some true else (buf s.e l).map (·.token)) ∧
      (∀ (o : Opd) (m : Cmd) (b : BufLine), p.checked x = some o → (∃ l ∈ panelLines o line, (buf s.e l).any (fun b => !b.token) = true) →
        ((panelLines o line).all fun l => (buf s.e l).any BufLine.complete) = true →
        crc32c ((panelLines o line).flatMap fun l => ((buf s.e l).map BufLine.bytes).getD []) ≠
          rdNat s.rd (o.checkBase + 4 * ((256 * line - o.base) / 4096)) 4 → s.e.portsFree →
        s.e.cmd? r.ch r.seq = some m → m.ending = false → buf s.e line = some b →
        (b.tries = 0 →
          ∃ t : State, exec (.operandFill pos r.id x line [] ⟨[], []⟩) s = .next t ∧ t.mem = s.mem ∧ t.e.chan = s.e.chan ∧
            ∀ l, buf t.e l = if l ∈ panelLines o line
              then (buf s.e l).map fun b => { b with units := [], token := false, tries := 1 } else buf s.e l) ∧
        (b.tries ≠ 0 →
          ∃ (t : State) (n : Cmd), exec (.operandFill pos r.id x line [] ⟨[], []⟩) s = .next t ∧ t.mem = s.mem ∧
            t.e.cmd? r.ch r.seq = some n ∧ n.ending = true ∧ n.res.status = statusMax m.res.status 0x20 ∧ n.phase = m.phase ∧
            t.e.count 44 = s.e.count 44 + 1 ∧ (∀ c k, (c, k) ≠ (r.ch, r.seq) → t.e.cmd? c k = s.e.cmd? c k) ∧
            ∀ y ∈ t.e.place.runs, y.ch = r.ch → y.seq = r.seq → y.items = [])) ∧
      ((∀ l ∈ p.lineGroup x line, (buf s.e l).any (·.token) = true) → exec (.operandFill pos r.id x line [] ⟨[], []⟩) s = .next s) ∧
      (∀ (b : BufLine) (u : Nat) (up : Upset), buf s.e line = some b → b.token = true → b.mask.testBit u = true →
        upsetOutcome up = none →
        ∃ t : State, exec (.operandFill pos r.id x line [u] ⟨[up], []⟩) s = .next t ∧ t.mem = s.mem ∧ t.e.count 40 = s.e.count 40 + 1 ∧
          buf t.e line = some { b with units := [], token := false, tries := 0 } ∧ asks t.e b.mask))

/-- B_LOAD_ROW (R65, R72, R74, R75): in an open issue slot the weights of one cell row enter the shadow registers of every column of
the context that has no marker on its way, and the load stands at the next row; no other cell row, no active register and no other
pod changes; a take's slices of the elements read are held from then on (R194). -/
def Obligations.WeightsEnterTheShadow : Prop :=
  ∀ (s : State) (pod ctx kstep row : Nat) (x : Site), s.settled → s.e.runs = true → s.e.site pod ctx kstep = some x →
    let offs := s.e.walkOffs x.pos x.ctx.run
    let b := s.e.bufByte [x.pos] x.ctx.run
    let held := fun (e : Eng) (n : Nat) => e.plane? x.pos x.ctx.run false n (x.rowK row)
    let w := fun c => x.weights offs (held s.e) b row (x.ctx.tileCol (x.pos % 4) c)
    (s.e.slotOpen = false → exec (.bLoadRow pod ctx kstep row) s = .next s) ∧
    (s.e.slotOpen = true → row < 128 → s.e.hasProgram pod x = true → x.ctx.path ≠ .compacted →
      x.ctx.lane < (s.e.pod pod).feeders.length → s.e.mayLoad x.pos (s.e.pod pod) x.ctx.lane (x.key kstep) row = true →
      (∀ c ∈ x.ctx.podCols, ((s.e.pod pod).pendingMarkers c).length ≤ 1) →
      (∀ c ∈ x.ctx.podCols, x.walked offs row (x.ctx.tileCol (x.pos % 4) c) = true) →
      (∀ c ∈ x.ctx.podCols, s.e.bufHas [x.pos] x.ctx.run (w c).2 = true) →
      ∃ t : State, exec (.bLoadRow pod ctx kstep row) s = .next t ∧ t.mem = s.mem ∧ t.e.stage = s.e.stage ∧
        t.e.place = { s.e.place with planes := t.e.place.planes } ∧ (x.kind ≠ .take → t.e.place.planes = s.e.place.planes) ∧
        (x.kind = .take → ∀ c ∈ x.ctx.podCols, let n := x.ctx.org.n + x.ctx.tileCol (x.pos % 4) c
          n < x.p.lens.n → held t.e n = some ((held s.e n).getD (x.bPlane b row n))) ∧
        t.e.chan = s.e.chan ∧ (∀ n, n ≠ pod → t.e.pod n = s.e.pod n) ∧
        ((t.e.pod pod).feeder x.ctx.lane).load = some (x.key kstep, row + 1) ∧ (t.e.pod pod).rows = (s.e.pod pod).rows ∧
        (∀ c, ((t.e.pod pod).col c).active = ((s.e.pod pod).col c).active ∧
          (c ∉ x.ctx.podCols → (t.e.pod pod).col c = (s.e.pod pod).col c)) ∧
        ∀ c ∈ x.ctx.podCols, ∀ r : Nat,
          ((s.e.pod pod).pendingMarkers c = [] →
            nget? ((t.e.pod pod).col c).shadow r = if r = row then some (w c).1 else nget? ((s.e.pod pod).col c).shadow r) ∧
          ((s.e.pod pod).pendingMarkers c ≠ [] → ((t.e.pod pod).col c).shadow = ((s.e.pod pod).col c).shadow ∧
            nget? ((t.e.pod pod).col c).late r = if r = row then some (w c).1 else nget? ((s.e.pod pod).col c).late r))

/-- A_ROW_ISSUE and GANG_ROW_ALIGNMENT (R68, R75, R77, R79, R80): a pod that is ready reads the next A row of its tile-step in an open
issue slot: the row enters at its west edge with its values, the first one as a marker where the B tile is new, and with the first
one an attempt begins; the members of a gang read every row together, row 0 at C0 or, after a hold or in a closed slot of the
issue mask, later, while no hold stands (that row 0 is then read later is the model's reading of R79 and R80, log entry 63). The
later passes of a take read the slices that are held (R194). -/
def Obligations.RowsEnterInOrder : Prop :=
  ∀ (s : State) (pod ctx kstep : Nat) (x : Site), s.settled → s.e.runs = true → s.e.site pod ctx kstep = some x →
    let f := (s.e.pod pod).feeder x.ctx.lane
    let row := fun i => x.aRow (s.e.plane? x.pos x.ctx.run true (x.aLine i) x.kBase) (s.e.bufByte x.aFrom x.ctx.run) i
    (s.e.slotOpen = false → exec (.aRowIssue pod ctx kstep) s = .next s) ∧
    (f.step = none → x.ctx.shape ≤ 1 → s.e.slotOpen = true → x.ctx.lane < (s.e.pod pod).feeders.length →
      s.e.rowReady pod kstep 0 x = true →
      ∃ (t : State) (r : ARow), exec (.aRowIssue pod ctx kstep) s = .next t ∧ t.mem = s.mem ∧ t.e.stage = s.e.stage ∧
        (t.e.pod pod).rows = (s.e.pod pod).rows ++ [r] ∧ (t.e.pod pod).cols = (s.e.pod pod).cols ∧ r.idx = 0 ∧ r.ctx = x.ctx.id ∧
        r.kstep = kstep ∧ r.elems = row 0 ∧
        r.last = decide (x.ctx.rows = 1) ∧ r.marker = decide (f.cur ≠ some (x.key kstep)) ∧ r.att = s.e.place.nextId ∧
        t.e.place.atts = s.e.place.atts ++ [⟨s.e.place.nextId, x.ctx.id, x.ctx.gen, memberComm x.ctx.shape (x.pos % 4), kstep,
          x.ctx.stream pod, .fresh, [], x.ctx.rows, shapeCols x.ctx.shape * x.ctx.bands⟩] ∧
        ((t.e.pod pod).feeder x.ctx.lane).cur = some (x.key kstep) ∧ (∀ n, n ≠ pod → t.e.pod n = s.e.pod n)) ∧
    (∀ g : Streaming, f.step = some g → 0 < g.next → x.ctx.shape ≤ 1 →
      s.e.slotOpen = true → x.ctx.lane < (s.e.pod pod).feeders.length → s.e.rowReady pod kstep g.next x = true →
      ∃ (t : State) (r : ARow), exec (.aRowIssue pod ctx kstep) s = .next t ∧ t.mem = s.mem ∧ t.e.stage = s.e.stage ∧
        (t.e.pod pod).rows = (s.e.pod pod).rows ++ [r] ∧ r.idx = g.next ∧ r.elems = row g.next ∧ r.att = g.att ∧ r.marker = false ∧
        r.last = decide (g.next + 1 = x.ctx.rows) ∧ t.e.place.atts = s.e.place.atts ∧
        ((t.e.pod pod).feeder x.ctx.lane).step =
          (if g.next + 1 = x.ctx.rows then none else some ⟨x.ctx.id, kstep, g.next + 1, g.att⟩)) ∧
    (∀ g : Streaming, f.step = some g → 0 < g.next → 1 < x.ctx.shape → s.e.slotOpen = true → (s.e.gang x.ctx.quad).holds = [] →
      s.e.gangFed x.ctx.quad ctx kstep g.next = true →
      ∃ t : State, exec (.aRowIssue pod ctx kstep) s = .next t ∧ t.mem = s.mem ∧ t.e.stage = s.e.stage ∧
        ∀ m < 4, ∀ n, s.e.podAt (4 * x.ctx.quad + m) = some n → ∃ r : ARow, (t.e.pod n).rows = (s.e.pod n).rows ++ [r] ∧
          r.idx = g.next ∧ r.ctx = ctx ∧ r.kstep = kstep ∧ r.marker = false) ∧
    (1 < x.ctx.shape → f.step = none ∨ (s.e.gang x.ctx.quad).holds ≠ [] → exec (.aRowIssue pod ctx kstep) s = .next s) ∧
    (∀ q c0 : Nat, (s.e.gang q).formed = true → (s.e.gang q).c0 = some c0 →
      (s.e.cue < c0 ∨ (s.e.gang q).holds ≠ [] ∨ s.e.slotOpen = false → exec (.gangRowAlignment q ctx kstep) s = .next s) ∧
      (c0 ≤ s.e.cue → (s.e.gang q).holds = [] → s.e.slotOpen = true → q < s.e.place.gangs.length → s.e.gangFed q ctx kstep 0 = true →
        ∃ t : State, exec (.gangRowAlignment q ctx kstep) s = .next t ∧ t.mem = s.mem ∧ t.e.stage = s.e.stage ∧
          (t.e.gangStreams q = true → (t.e.gang q).c0 = none) ∧
          ∀ m < 4, ∀ n, s.e.podAt (4 * q + m) = some n → ∃ r : ARow, (t.e.pod n).rows = (s.e.pod n).rows ++ [r] ∧ r.idx = 0 ∧
            r.ctx = ctx ∧ r.kstep = kstep))

/-! ### The array -/

/-- COLUMN_SWAP and PARTIAL_EMIT (R71, R73, R74, R85, R93): a column that a marker has reached forms the partials of the rows before
it from the registers those rows met, and then exchanges its registers, the load writes that came behind the marker entering the
new shadow; its partials leave in order on the pod's link, or into the combiner of its gang, with a token behind the last row of
each row band; one of an in-range element is the sum of the row's products on the anchor's grid, or in fast mode the value of its
tree. A residue fault of a column that has a partial to send is a fault of its pod (R146, R427, R428): the partial does not leave,
the pod leaves its position, and what it streamed freezes. -/
def Obligations.ColumnsSwapAndEmit : Prop :=
  ∀ (s : State) (pod col : Nat), s.settled → s.e.runs = true →
    let d := s.e.pod pod
    let x := d.col col
    (d.pendingMarkers col = [] → exec (.columnSwap pod col) s = .next s) ∧
    (∀ (k : ARow) (l : List ARow), d.pendingMarkers col = k :: l →
      ∃ (t : State) (ts : List PartialW), exec (.columnSwap pod col) s = .next t ∧ t.mem = s.mem ∧ t.e.stage = s.e.stage ∧
        t.e.place = s.e.place ∧ (∀ n, n ≠ pod → t.e.pod n = s.e.pod n) ∧ (t.e.pod pod).rows = d.rows ∧
        (t.e.pod pod).feeders = d.feeders ∧ (∀ c, c ≠ col → (t.e.pod pod).col c = d.col c) ∧
        (t.e.pod pod).col col = ⟨x.shadow, x.late.foldl (fun a w => nput a w.1 w.2) x.active, [], k.seq, k.seq + 1, x.tree ++ ts⟩ ∧
        (ts.filter (fun q => !q.token)).map (fun q => (q.att, q.row)) =
          ((d.rowsFor col).filter fun r => decide (r.seq < k.seq)).map fun r => (r.att, r.idx)) ∧
    (∀ (q : PartialW) (r : List PartialW) (a : Attempt), x.tree = q :: r → s.e.att? q.att = some a →
      (∃ n, a.src = .pod n) ∨ (∃ g, a.src = .gang g ∧ g < s.e.place.gangs.length) →
      let now := if (r.head?.any (·.token)) = true then (q :: r).take 2 else [q]
      ∃ t : State, exec (.partialEmit pod col false) s = .next t ∧ t.mem = s.mem ∧ t.e.place.ctxs = s.e.place.ctxs ∧
        t.e.place.atts = s.e.place.atts ∧ t.e.sentTo pod col a.src = s.e.sentTo pod col a.src ++ now ∧
        ((t.e.pod pod).col col).tree = (q :: r).drop now.length ∧
        (∀ y, y ≠ a.src → t.e.stage.link y = s.e.stage.link y) ∧ t.e.stage.sectors = s.e.stage.sectors) ∧
    (∀ (r : ARow) (l : List ARow) (a : Attempt) (pos : Nat) (c : TileCtx) (m : Cmd) (p : Problem) (k : GemmKind) (ks : KStep),
      x.tree = [] → d.rowsFor col = r :: l → (r.marker = false ∨ r.seq < x.swapped) → s.e.att? r.att = some a →
      (∃ n, a.src = .pod n) ∨ (∃ g, a.src = .gang g ∧ g < s.e.place.gangs.length) →
      d.lpos = some pos → s.e.ctx? r.ctx = some c → s.e.ctxCmd c = some (m, p, k) →
      (kSteps k p c.shape c.path)[r.kstep]? = some ks →
      let tc := c.tileCol (pos % 4) col
      let st : Site := ⟨pos, c, m, p, k, ks⟩
      let inside := c.org.n + tc < p.lens.n ∧ c.org.m + r.idx < p.lens.m
      let w := sumProducts p.W (m.anchorAt p c.org.b (c.org.m + r.idx) (c.org.n + tc))
        (((st.products r x.active).filterMap id).map fun o => mulElem o.1 o.2)
      let xs := (st.products r x.active).map fun o => (o.map fun y => fastProduct (fastFmt p.sheet.acc) y.1 y.2).getD (0, false)
      let v := fastTree (fastFmt p.sheet.acc) (Nat.log2 (max 1 xs.length) - 1) (xs.map (·.1))
      ∃ (t : State) (q : PartialW), exec (.partialEmit pod col false) s = .next t ∧ t.mem = s.mem ∧
        t.e.place.ctxs = s.e.place.ctxs ∧ t.e.place.atts = s.e.place.atts ∧ t.e.stage.sectors = s.e.stage.sectors ∧
        t.e.sentTo pod col a.src = s.e.sentTo pod col a.src ++ (if r.last = true ∨ c.bandEnd r.idx tc = true then
          [q, { q with z := ZWord.zero, fv := 0, low := 0, dropped := if r.last = true then nget r.dropped tc 0 else 0, token := true }]
          else [q]) ∧
        q.att = r.att ∧ q.row = r.idx ∧ q.tc = tc ∧ q.token = false ∧ ((t.e.pod pod).col col).next = r.seq + 1 ∧
        (inside → p.fast = true → q.fv = v.1 ∧ q.low = v.2 + (xs.filter (·.2)).length) ∧
        (inside → p.fast = false → k ≠ .take → st.equalCodes x.active = false →
          q.z = w.1 ∧ q.low = if r.supp.contains tc = true ∨ c.drained64.contains (tc / 64) = true then 0 else w.2) ∧
        (¬ inside → q.z = ZWord.zero ∧ q.fv = 0 ∧ q.low = 0)) ∧
    (x.tree = [] → (d.rowsFor col = [] ∨ (d.rowsFor col).head?.any (fun r => r.marker && decide (x.swapped ≤ r.seq)) = true) →
      exec (.partialEmit pod col false) s = .next s) ∧
    (s.e.serves pod = true → pod < 34 → (x.tree ≠ [] ∨ d.rowsFor col ≠ []) →
      exec (.partialEmit pod col true) s = exec (.podFault pod .residue (d.physCol col)) s ∧
      ∃ t : State, exec (.partialEmit pod col true) s = .next t ∧ t.mem = s.mem ∧ (t.e.pod pod).lpos = none ∧
        (t.e.pod pod).faulted = true ∧ t.e.count 45 = s.e.count 45 + 1 ∧ t.e.stage.sectors = s.e.stage.sectors ∧
        (∀ (a : Attempt) (c : TileCtx) (pos : Nat), s.e.att? a.id = some a → a.st = .admitted → s.e.leftPods a.id = false →
          d.lpos = some pos → s.e.ctx? a.ctx = some c → c.usesPos pos = true → t.e.att? a.id = none)) ∧
    (s.e.serves pod = false ∨ x.tree = [] ∧ d.rowsFor col = [] →
      exec (.partialEmit pod col true) s = exec (.partialEmit pod col false) s)

/-- LANE_BATCH_ISSUE and LANE_PAIR_STEP (R249, R251 to R254, R257): a batch of 128 lanes with its segments in order begins an attempt
once the lower batches have begun and the lanes of the batch before it have taken their pairs; in an open issue slot a lane adds
up to four pairs to the accumulators of its tokens, then sends one partial per token, and last its step-end token. Records beyond
the stream buffer are read from memory at the issue, their panels verified, through free memory ports (R257, R167; that they are
read at the issue is the model's choice, log entry 155). A residue fault of a lane is a fault of its pod (R427, R428). -/
def Obligations.LanesTakePairsAndEmit : Prop :=
  ∀ (s : State) (pod : Nat), s.settled → s.e.runs = true →
    (∀ (ctx batch pos : Nat) (c : TileCtx) (m : Cmd) (p : Problem) (k : GemmKind) (sp : SparseRec),
      (s.e.pod pod).lpos = some pos → s.e.ctx? ctx = some c → s.e.ctxCmd c = some (m, p, k) → p.sparse = some sp →
      let st : Site := ⟨pos, c, m, p, k, ⟨0, 0, p.lens.k⟩⟩
      let segs := (c.segs.drop (128 * batch)).take 128
      s.e.serves pod = true → c.usesPos pos = true → c.path = .compacted → c.sweeping = false → c.needReplay = none →
      s.e.place.runs.any (·.id == c.run) = true → s.e.mayStream c 0 batch true p.d.isSome = true → s.e.hasProgram pod st = true →
      let x := st.streamNeeds s.rd sp segs
      let left := (st.leftOut sp batch).flatMap fun n => form1Needs s.rd p sp n (cdiv (p.extent 2) 32) (rowOffset s.rd sp n).1
      let qs := (((x.2 ++ left).map st.streamKey).eraseDups.filter (·.1)).map (·.2)
      s.e.portsFree → (checkPanels s.rd (fun _ => false) p.b.base p.b.checkBase qs).2 = none →
      s.e.bufHas [pos] c.run x.1 = true → s.e.bufHas [pos] c.run st.gatherNeeds = true →
      ((s.e.pod pod).batches = [] ∨ ∃ y, (s.e.pod pod).batches = [y] ∧ ∀ l ∈ y.lanes, l.pairs = []) →
      s.e.linkHeld (.pod pod) = false →
      ∃ (t : State) (ls : List Lane), exec (.laneBatchIssue pod ctx ⟨batch, []⟩) s = .next t ∧ t.mem = s.mem ∧ t.e.stage = s.e.stage ∧
        (t.e.pod pod).batches = (s.e.pod pod).batches ++ [⟨s.e.place.nextId, c.id, batch, c.inRows, ls⟩] ∧ ls.length = 128 ∧
        (∀ (i : Nat) (g : Segment), segs[i]? = some g → ∃ l, ls[i]? = some l ∧ l.pairs = (s.e.buildLane s.rd st sp c.inRows g).pairs ∧
          l.acc = List.replicate c.inRows (ZWord.zero, 0) ∧ l.col = some (g.row - c.org.n) ∧ l.done = false) ∧
        t.e.place.atts = s.e.place.atts ++
          [⟨s.e.place.nextId, c.id, c.gen, 0, batch, .pod pod, .fresh, [], c.inRows, 128⟩]) ∧
    (∀ (lane : Nat) (b : LaneBatch) (l : Lane) (c : TileCtx) (m : Cmd) (p : Problem) (k : GemmKind),
      (s.e.pod pod).batches.find? (fun y => (y.lanes[lane]?).any fun l => !l.done) = some b →
      (s.e.pod pod).batches.find? (fun y => y.att == b.att) = some b → b.lanes[lane]? = some l → l.done = false →
      s.e.ctx? b.ctx = some c → s.e.ctxCmd c = some (m, p, k) →
      let now := fun (t : State) => ((t.e.pod pod).batches.find? fun y => y.att == b.att).bind fun y => y.lanes[lane]?
      (l.pairs ≠ [] → s.e.slotOpen = false → exec (.lanePairStep pod lane false) s = .next s) ∧
      (l.pairs ≠ [] → s.e.slotOpen = true →
        ∃ t : State, exec (.lanePairStep pod lane false) s = .next t ∧ t.mem = s.mem ∧ t.e.stage = s.e.stage ∧ t.e.place = s.e.place ∧
          now t = some { l with
            pairs := l.pairs.drop 4
            acc := (l.take4 p.W (fun t => m.anchorAt p c.org.b (c.org.m + t) (c.org.n + l.col.getD 0))
              (fun t => isSuppressed s.rd p c.org.b (c.org.m + t) (c.org.n + l.col.getD 0))).acc }) ∧
      (l.pairs = [] → l.col.isSome = true → l.emitted < b.tokens →
        ∃ (t : State) (q : PartialW), exec (.lanePairStep pod lane false) s = .next t ∧ t.mem = s.mem ∧ t.e.place = s.e.place ∧
          t.e.stage.link (.pod pod) = s.e.stage.link (.pod pod) ++ [q] ∧ q.att = b.att ∧ q.col = lane ∧ q.tc = l.col.getD 0 ∧
          q.row = l.emitted ∧ q.token = false ∧
          (l.undef = false → (q.z, q.low) = l.acc.getD l.emitted (ZWord.zero, 0)) ∧
          t.e.stage.sectors = s.e.stage.sectors ∧ now t = some { l with emitted := l.emitted + 1 }) ∧
      (l.pairs = [] → l.col = none ∨ b.tokens ≤ l.emitted →
        ∃ t : State, exec (.lanePairStep pod lane false) s = .next t ∧ t.mem = s.mem ∧ t.e.place = s.e.place ∧
          t.e.stage.link (.pod pod) = s.e.stage.link (.pod pod) ++
            [⟨b.att, lane, l.col.getD 0, 0, ZWord.zero, 0, 0, l.dropped, true⟩] ∧
          (t.e.pod pod).batches = ((s.e.pod pod).setLane b.att lane fun l => { l with done := true }).batches) ∧
      (s.e.serves pod = true → pod < 34 →
        exec (.lanePairStep pod lane true) s = exec (.podFault pod .residue ((s.e.pod pod).physCol lane)) s ∧
        ∃ t : State, exec (.lanePairStep pod lane true) s = .next t ∧ t.mem = s.mem ∧ (t.e.pod pod).lpos = none ∧
          (t.e.pod pod).faulted = true ∧ t.e.count 45 = s.e.count 45 + 1 ∧ t.e.stage.sectors = s.e.stage.sectors))

/-! ### The Stage -/

/-- UPDATE_ARRIVAL and CREDIT_RETURN (R133, R138, R140, R141, R144, R146): the next update of a stream enters the conflict queue of
its bank under a credit, with the words of its row and sector that have come with it, behind those that wait there; a step-end
token is noted for its attempt; what belongs to no attempt is discarded; with no credit left, or while its attempt is held, it
waits; an update of staging that a stream holds enters the queue of its bank under a crossbar credit in the same way. A transfer
that cannot be corrected ends its attempt and, as the model reads R422 (log entry 153), its command. A credit of an issued entry
goes back to its holder. -/
def Obligations.UpdatesQueueUnderCredits : Prop :=
  ∀ s : State, s.settled → s.e.runs = true →
    (∀ (src : Stream) (up : Upset), s.e.stage.link src = [] → s.e.stage.xlink src = [] → exec (.updateArrival ⟨src, up⟩) s = .next s) ∧
    (∀ (src : Stream) (u : StageUpd) (r : List StageUpd), s.e.stage.link src = [] → s.e.stage.xlink src = u :: r →
      let b := s.e.stage.physBank u.slot.1 u.slot.2.1
      let q := s.e.stage.bank u.slot.1 b
      (q.xbar = 0 → exec (.updateArrival ⟨src, []⟩) s = .next s) ∧
      (q.xbar ≠ 0 → ∃ t : State, exec (.updateArrival ⟨src, []⟩) s = .next t ∧ t.mem = s.mem ∧ t.e.place = s.e.place ∧
        t.e.remote = s.e.remote ∧ t.e.coll = s.e.coll ∧ t.e.stage.sectors = s.e.stage.sectors ∧ t.e.stage.xlink src = r ∧
        t.e.stage.bank u.slot.1 b = { q with
          xbar := q.xbar - 1, q := q.q ++ [⟨true, sectorKey u.slot.1 u.slot.2.1 u.slot.2.2, [], some u⟩] })) ∧
    (∀ (src : Stream) (p : PartialW) (r : List PartialW), s.e.stage.link src = p :: r →
      (s.e.att? p.att = none → ∃ t : State, exec (.updateArrival ⟨src, []⟩) s = .next t ∧ t.mem = s.mem ∧ t.e.place = s.e.place ∧
        t.e.stage = s.e.stage.setLink src r ∧ t.e.stage.link src = r) ∧
      (∀ a : Attempt, s.e.att? p.att = some a → s.e.held a = true → exec (.updateArrival ⟨src, []⟩) s = .next s) ∧
      (∀ a : Attempt, s.e.att? p.att = some a → s.e.held a = false → p.token = true →
        ∃ t : State, exec (.updateArrival ⟨src, []⟩) s = .next t ∧ t.mem = s.mem ∧ t.e.stage = s.e.stage.setLink src r ∧
          t.e.att? a.id = some { a with tokens := (p.col, p.dropped) :: a.tokens } ∧ t.e.place.ctxs = s.e.place.ctxs) ∧
      (∀ (a : Attempt) (c : TileCtx) (slice bank key : Nat), s.e.att? p.att = some a → s.e.held a = false → p.token = false →
        s.e.ctx? a.ctx = some c → c.place c.acc p.row p.tc = some (slice, bank, key) →
        let b := s.e.stage.physBank slice bank
        let q := s.e.stage.bank slice b
        let same := fun (y : PartialW) => !y.token && y.att == p.att && y.row == p.row &&
          c.place c.acc y.row y.tc == some (slice, bank, key)
        let g := gatherLink same (p :: r) []
        ((if c.viaXbar slice = true then q.xbar else q.link) = 0 → exec (.updateArrival ⟨src, []⟩) s = .next s) ∧
        ((if c.viaXbar slice = true then q.xbar else q.link) ≠ 0 →
          ∃ t : State, exec (.updateArrival ⟨src, []⟩) s = .next t ∧ t.mem = s.mem ∧ t.e.place = s.e.place ∧ p ∈ g.1 ∧
            t.e.stage.link src = g.2 ∧ t.e.stage.sectors = s.e.stage.sectors ∧
            (t.e.stage.bank slice b).q = q.q ++ [⟨c.viaXbar slice, key, g.1.map fun y => (y, accColOf c y.row y.tc), none⟩] ∧
            (c.viaXbar slice = true → (t.e.stage.bank slice b).xbar = q.xbar - 1 ∧ (t.e.stage.bank slice b).link = q.link) ∧
            (c.viaXbar slice = false → (t.e.stage.bank slice b).link = q.link - 1 ∧ (t.e.stage.bank slice b).xbar = q.xbar))) ∧
      (∀ (a : Attempt) (c : TileCtx) (m : Cmd) (up : Upset), s.e.att? p.att = some a → s.e.held a = false → p.token = false →
        s.e.ctx? a.ctx = some c → s.e.cmd? c.ch c.seq = some m → up ≠ [] → upsetOutcome up = none →
        ∃ t : State, exec (.updateArrival ⟨src, up⟩) s = .next t ∧ t.mem = s.mem ∧ t.e.att? a.id = none ∧
          t.e.stage.sectors = s.e.stage.sectors ∧ t.e.stage.banks = s.e.stage.banks ∧ t.e.count 40 = s.e.count 40 + 1 ∧
          (t.e.cmd? c.ch c.seq).map (fun n => (n.ending, n.res.status)) = some (true, statusMax m.res.status 0x21))) ∧
    (∀ (slice bank : Nat) (x : Bool),
      let q := s.e.stage.bank slice bank
      ((if x = true then q.owedXbar else q.owedLink) = 0 → exec (.creditReturn slice bank x) s = .next s) ∧
      ((if x = true then q.owedXbar else q.owedLink) ≠ 0 → exec (.creditReturn slice bank x) s =
        .next { s with e := s.e.updBank slice bank fun q =>
          if x = true then { q with xbar := q.xbar + 1, owedXbar := q.owedXbar - 1 }
          else { q with link := q.link + 1, owedLink := q.owedLink - 1 } }))

/-- READ_MODIFY_WRITE (R133, R135, R144, R145): the update at the head of a bank's queue issues. Of an admitted attempt the words that
are the next rows of their columns are added to their sector in one operation, no other sector changes, and the rows are marked as
added; an earlier row is discarded and counted; so is an update of a stale attempt with its attempt; one of a duplicate attempt
adds nothing; a held one waits. A residue fault of the adder, or of a sum, writes nothing and freezes the attempt, and the command
ends with 0x22 once the K-step has frozen REEXEC_LIMIT times (R46, R146, R427, R429). An update of an accumulate window adds its
words, and none of them where the adder fails. -/
def Obligations.UpdatesAreAddedOnce : Prop :=
  ∀ (s : State) (slice bank : Nat), s.settled → s.e.runs = true →
    ((s.e.stage.bank slice bank).q = [] →
      ∀ (u : Upset) (f : Bool) (m : List StageRead), exec (.readModifyWrite slice bank ⟨u, m⟩ f) s = .next s) ∧
    (∀ (u : BankUpd) (l : List BankUpd) (w : PartialW × Nat) (ws : List (PartialW × Nat)) (a : Attempt) (c : TileCtx),
      (s.e.stage.bank slice bank).q = u :: l → u.staging = none → u.adds = w :: ws → s.e.att? w.1.att = some a → s.e.ctx? a.ctx = some c →
      let now := u.adds.filter fun x => x.1.row == c.nextRow a x.1.col
      (∀ (r r2 : SectorRead) (low : Nat), a.st = .admitted → now ≠ [] → s.e.stage.readSector u.key [] = some r → r.dataFixed = false →
        now.foldl (addWord c.acc) (r, false, 0) = (r2, false, low) →
        ∃ t : State, exec (.readModifyWrite slice bank ⟨[], []⟩ false) s = .next t ∧ t.mem = s.mem ∧ t.e.pods = s.e.pods ∧
          (t.e.stage.bank slice bank).q = l ∧ t.e.stage.sector u.key = sectorBytes r2.data r2.side ∧
          (∀ k, k ≠ u.key → t.e.stage.sector k = s.e.stage.sector k) ∧
          (∀ x, now = [x] → 2 ≤ c.acc →
            r2 = putFast x.2 (fastAccumulate (fastFmt c.acc) (sectorFast x.2 r) x.1.fv).1 r ∧
            low = x.1.low + b2n (fastAccumulate (fastFmt c.acc) (sectorFast x.2 r) x.1.fv).2) ∧
          (∀ x, now = [x] → c.acc < 2 →
            r2 = putWord c.acc x.2 (zAdd (accWidth c.acc) (sectorWord c.acc x.2 r) x.1.z) r ∧ low = x.1.low) ∧
          t.e.place = (s.e.updCtx c.id fun y => { y with
            low := y.low + low
            progress := mapIf (fun r => r.comm == a.comm && r.kstep == a.kstep)
              (fun r => { r with rows := now.foldl (fun m x => nput m x.1.col (x.1.row + 1)) r.rows }) y.progress }).place) ∧
      (∀ (r r2 : SectorRead) (f bad : Bool) (low : Nat) (m : Cmd), a.st = .admitted → now ≠ [] →
        s.e.stage.readSector u.key [] = some r → r.dataFixed = false → now.foldl (addWord c.acc) (r, false, 0) = (r2, bad, low) →
        bad = true ∨ f = true ∧ c.acc < 2 → s.e.cmd? c.ch c.seq = some m →
        ∃ t : State, exec (.readModifyWrite slice bank ⟨[], []⟩ f) s = .next t ∧ t.mem = s.mem ∧ t.e.pods = s.e.pods ∧
          t.e.stage.sectors = s.e.stage.sectors ∧ (t.e.stage.bank slice bank).q = l ∧ t.e.att? a.id = none ∧
          t.e.count 45 = s.e.count 45 + 1 ∧
          (t.e.ctx? c.id).map (fun y => (nget y.freezes a.kstep 0, y.low)) = some (nget c.freezes a.kstep 0 + 1, c.low) ∧
          (t.e.cmd? c.ch c.seq).map (fun n => (n.ending, n.res.status)) =
            some (if s.e.health.reexec.toNat ≤ nget c.freezes a.kstep 0 + 1 then (true, statusMax m.res.status 0x22)
              else (m.ending, m.res.status))) ∧
      (a.st = .admitted → (∀ x ∈ u.adds, x.1.row < c.nextRow a x.1.col) →
        ∃ t : State, exec (.readModifyWrite slice bank ⟨[], []⟩ false) s = .next t ∧ t.mem = s.mem ∧ t.e.place = s.e.place ∧
          t.e.stage.sectors = s.e.stage.sectors ∧ (t.e.stage.bank slice bank).q = l ∧
          t.e.count 14 = s.e.count 14 + u.adds.length) ∧
      (a.st = .duplicate →
        ∃ t : State, exec (.readModifyWrite slice bank ⟨[], []⟩ false) s = .next t ∧ t.mem = s.mem ∧ t.e.place = s.e.place ∧
          t.e.stage.sectors = s.e.stage.sectors ∧ (t.e.stage.bank slice bank).q = l) ∧
      (a.st = .fresh → s.e.judge c a = .stale →
        ∃ t : State, exec (.readModifyWrite slice bank ⟨[], []⟩ false) s = .next t ∧ t.mem = s.mem ∧ t.e.place.ctxs = s.e.place.ctxs ∧
          t.e.stage.sectors = s.e.stage.sectors ∧ (t.e.stage.bank slice bank).q = l ∧ t.e.count 13 = s.e.count 13 + 1 ∧
          t.e.place.atts = s.e.place.atts.filter fun y => y.id != a.id) ∧
      (a.st = .fresh → s.e.judge c a = .duplicate →
        ∃ t : State, exec (.readModifyWrite slice bank ⟨[], []⟩ false) s = .next t ∧ t.mem = s.mem ∧ t.e.place.ctxs = s.e.place.ctxs ∧
          t.e.stage.sectors = s.e.stage.sectors ∧ (t.e.stage.bank slice bank).q = l ∧
          t.e.att? a.id = some { a with st := .duplicate }) ∧
      (a.st = .fresh → s.e.judge c a = .held → exec (.readModifyWrite slice bank ⟨[], []⟩ false) s = .next s) ∧
      (a.st = .fresh → s.e.judge c a = .admitted → (∀ x ∈ u.adds, x.1.row = 0) →
        (∀ g ∈ c.progress, g.comm ≠ a.comm ∨ g.kstep ≠ a.kstep) → ∀ (r r2 : SectorRead) (low : Nat),
        s.e.stage.readSector u.key [] = some r → r.dataFixed = false → u.adds.foldl (addWord c.acc) (r, false, 0) = (r2, false, low) →
        ∃ t : State, exec (.readModifyWrite slice bank ⟨[], []⟩ false) s = .next t ∧ t.mem = s.mem ∧
          t.e.att? a.id = some { a with st := .admitted } ∧ t.e.stage.sector u.key = sectorBytes r2.data r2.side ∧
          (∀ k, k ≠ u.key → t.e.stage.sector k = s.e.stage.sector k) ∧
          (t.e.ctx? a.ctx).map (·.progress) = some (c.progress ++
            [⟨a.comm, a.kstep, u.adds.foldl (fun m x => nput m x.1.col 1) [], some a.id⟩]))) ∧
    (∀ (u : BankUpd) (l : List BankUpd) (x : StageUpd) (w origin ptag : Nat) (a : AccWin) (f : Bool), s.e.nothingHeld →
      (s.e.stage.bank slice bank).q = u :: l → u.staging = some x → x.part = .addx w origin ptag → s.e.win? w = some a →
      a.lost = [] → a.faulted = none → x.words ≠ [] →
      ∃ t : State, exec (.readModifyWrite slice bank ⟨[], []⟩ f) s = .next t ∧ t.mem = s.mem ∧ t.e.pods = s.e.pods ∧
        t.e.place = s.e.place ∧ t.e.stage.sectors = s.e.stage.sectors ∧ (t.e.stage.bank slice bank).q = l ∧
        t.e.win? w = some (if f then a else x.words.foldl (fun a z => a.add z.1 z.2) a) ∧
        t.e.count 45 = s.e.count 45 + b2n f ∧ t.e.count 28 = s.e.count 28 + (if f then 0 else x.words.length))

/-- COMMIT and DUPLICATE_COMMIT (R86, R87, R144, R147): once the last step-end token of an admitted attempt has come, the mark of its
K-step and committer is set, the commit count rises, its progress record is free, and the tile is ready when the count is
complete; the last token of a duplicate attempt counts it and changes no context; before that nothing changes. -/
def Obligations.KStepsCommitOnce : Prop :=
  ∀ (s : State) (i : Nat) (a : Attempt) (c : TileCtx), s.settled → s.e.runs = true → s.e.att? i = some a → s.e.ctx? a.ctx = some c →
    (s.e.allTokens a = false → exec (.commit i) s = .next s ∧ exec (.duplicateCommit i) s = .next s) ∧
    (s.e.allTokens a = true → a.st = .admitted ∨ (a.st = .fresh ∧ s.e.judge c a = .admitted) →
      ∀ (m : Cmd) (p : Problem) (k : GemmKind), s.e.ctxCmd c = some (m, p, k) →
      ∃ (t : State) (d : TileCtx), exec (.commit i) s = .next t ∧ t.mem = s.mem ∧ t.e.stage = s.e.stage ∧ t.e.pods = s.e.pods ∧
        t.e.place.atts = s.e.place.atts.filter (fun y => y.id != i) ∧ t.e.ctx? c.id = some d ∧ d.marks = (a.comm, a.kstep) :: c.marks ∧
        d.count = c.count + (if c.path = .compacted then 1 else shapeCount c.shape) ∧
        d.dropped = c.dropped + lsum (a.tokens.map (·.2)) ∧
        d.progress = c.progress.filter (fun r => !(r.comm == a.comm && r.kstep == a.kstep)) ∧ d.parts = c.parts ∧
        (∀ x, c.expect = some x → x ≤ d.count → c.readyAt = none → c.sweeping = false → (p.d.isSome = true → c.dLoaded = true) →
          ∃ n, d.readyAt = some n ∧ ∀ y ∈ s.e.place.ctxs, ∀ k, y.readyAt = some k → k < n) ∧
        (∀ x, c.expect = some x → d.count < x → d.readyAt = c.readyAt) ∧ ∀ j, j ≠ c.id → t.e.ctx? j = s.e.ctx? j) ∧
    (s.e.allTokens a = true → a.st = .fresh → s.e.judge c a = .stale →
      ∃ t : State, exec (.commit i) s = .next t ∧ t.mem = s.mem ∧ t.e.stage = s.e.stage ∧ t.e.pods = s.e.pods ∧
        t.e.place.atts = s.e.place.atts.filter (fun y => y.id != i) ∧ t.e.place.ctxs = s.e.place.ctxs ∧ t.e.count 13 = s.e.count 13 + 1) ∧
    (s.e.allTokens a = true → a.st = .duplicate ∨ (a.st = .fresh ∧ s.e.judge c a = .duplicate) → exec (.commit i) s = .next s ∧
      ∃ t : State, exec (.duplicateCommit i) s = .next t ∧ t.mem = s.mem ∧ t.e.stage = s.e.stage ∧ t.e.pods = s.e.pods ∧
        t.e.place.atts = s.e.place.atts.filter (fun y => y.id != i) ∧ t.e.place.ctxs = s.e.place.ctxs ∧ t.e.count 12 = s.e.count 12 + 1)

/-- INITIAL_ACCUMULATOR_LOAD and ZERO_SWEEP (R131, R150, R167, R170, R425): the D word of an in-range element is added to its
accumulator, no sector that holds no element changes, and the tile counts as loaded; a panel of D that fails its check ends the
command with 0x20, a D word that fails its residue with 0x22, and loads nothing; an adder that fails its check adds nothing, and
the tile wants a replay (R46, R426; that it asks for a replay is the model's reading, log entry 153). Memory is read through free
ports. The statuses of a D word that fails its check and of a unit of D that cannot be read are the model's choices (log entry
74). A swept context leaves: its sectors are cleared, every other sector stays, and its attempts are gone. -/
def Obligations.AccumulatorsLoadAndClear : Prop :=
  ∀ (s : State) (ctx : Nat) (c : TileCtx), s.settled → s.e.runs = true → s.e.ctx? ctx = some c →
    (∀ (m : Cmd) (p : Problem) (k : GemmKind) (d : Opd), s.e.ctxCmd c = some (m, p, k) → p.d = some d → c.dLoaded = false →
      c.sweeping = false → m.ending = false → c.needReplay = none → s.e.portsFree →
      let inside := fun i j => i < c.rows ∧ j < shapeN c.shape ∧ c.org.m + i < p.lens.m ∧ c.org.n + j < p.lens.n
      let word := fun i j => p.dWord s.rd d c.org.b (c.org.m + i) (c.org.n + j)
      let intact := fun q => d.checkBase = 0 ∨ crc32c (rdBytes s.rd (d.base + 4096 * q) 4096) = rdNat s.rd (d.checkBase + 4 * q) 4
      let panel := fun i j => (p.addrD d c.org.b (c.org.m + i) (c.org.n + j) - d.base) / 4096
      ((∀ i j, inside i j → intact (panel i j) ∧ (word i j).residueFault = false) →
        ∃ (t : State) (y : TileCtx), exec (.initialAccumulatorLoad ctx ⟨[], false⟩) s = .next t ∧ t.mem = s.mem ∧ t.e.chan = s.e.chan ∧
          t.e.place.atts = s.e.place.atts ∧ t.e.ctx? ctx = some y ∧ y.dLoaded = true ∧ y.marks = c.marks ∧ y.count = c.count ∧
          (∀ key, (∀ i j sl b, inside i j → c.place c.acc i j ≠ some (sl, b, key)) → t.e.stage.sector key = s.e.stage.sector key) ∧
          (∀ i j sl b key r, inside i j → c.place c.acc i j = some (sl, b, key) →
            (∀ i2 j2 sl2 b2, inside i2 j2 → c.place c.acc i2 j2 = some (sl2, b2, key) → i2 = i ∧ j2 = j) →
            s.e.stage.readSector key [] = some r →
            let r2 := putWord c.acc (accColOf c i j) (zAdd p.W (sectorWord c.acc (accColOf c i j) r) (word i j)) r
            t.e.stage.sector key = sectorBytes r2.data r2.side)) ∧
      ((∃ i j, inside i j ∧ ¬ intact (panel i j)) →
        ∃ t : State, exec (.initialAccumulatorLoad ctx ⟨[], false⟩) s = .next t ∧ t.mem = s.mem ∧ t.e.stage = s.e.stage ∧
          t.e.place.ctxs = s.e.place.ctxs ∧ (t.e.cmd? c.ch c.seq).map (·.ending) = some true ∧
          (t.e.cmd? c.ch c.seq).map (·.res.status) = some (statusMax m.res.status 0x20) ∧ t.e.count 44 = s.e.count 44 + 1) ∧
      ((∀ i j, inside i j → intact (panel i j)) → (∃ i j, inside i j ∧ (word i j).residueFault = true) →
        ∃ t : State, exec (.initialAccumulatorLoad ctx ⟨[], false⟩) s = .next t ∧ t.mem = s.mem ∧ t.e.stage = s.e.stage ∧
          t.e.place.ctxs = s.e.place.ctxs ∧ (t.e.cmd? c.ch c.seq).map (·.ending) = some true ∧
          (t.e.cmd? c.ch c.seq).map (·.res.status) = some (statusMax m.res.status 0x22) ∧ t.e.count 45 = s.e.count 45 + 1) ∧
      ((∀ i j, inside i j → intact (panel i j) ∧ (word i j).residueFault = false) → (∃ i j, inside i j) → s.e.canReplay c = true →
        ∃ (t : State) (y : TileCtx), exec (.initialAccumulatorLoad ctx ⟨[], true⟩) s = .next t ∧ t.mem = s.mem ∧
          t.e.stage = s.e.stage ∧ t.e.ctx? ctx = some y ∧ y = { c with needReplay := some 0x22 } ∧ t.e.chan = s.e.chan ∧
          t.e.count 45 = s.e.count 45 + 1)) ∧
    (c.sweeping = true ∨ ((s.e.cmd? c.ch c.seq).all (·.ending) = true ∧ c.started = false ∧ ∀ a ∈ s.e.place.atts, a.ctx ≠ ctx) →
      ∃ t : State, exec (.zeroSweep ctx) s = .next t ∧ t.mem = s.mem ∧ t.e.ctx? ctx = none ∧
        t.e.place.atts = s.e.place.atts.filter (fun a => a.ctx != ctx) ∧ (∀ k ∈ c.keys, t.e.stage.sector k = sectorClear) ∧
        (∀ k, k ∉ c.keys → t.e.stage.sector k = s.e.stage.sector k) ∧ t.e.chan.cmds = s.e.chan.cmds ∧
        ∀ j, j ≠ ctx → t.e.ctx? j = s.e.ctx? j)

/-- TILE_REPLAY, SLOT_READ_BACK and BANK_COPY_COMPLETE (R151, R430, R431, R434, R435): a tile that wants a replay and may have one
starts its next generation with its sectors cleared and nothing counted, the command is marked REPLAYED, and an entry of its
slate's reissue list names it with floor 0; where R430 forbids it the command ends with the fault's status. A slot that cannot be
read back has its bank copied to a spare (the lowest free one, the model's choice, log entry 130). A rewritten slot that reads
back correct is no longer looked at. A bank whose copy of 2,048 cycles is done is served by its spare. -/
def Obligations.TilesReplayAndBanksAreCopied : Prop :=
  ∀ s : State, s.settled → s.e.runs = true →
    (∀ (ctx : Nat) (c : TileCtx) (m : Cmd), s.e.ctx? ctx = some c → s.e.cmd? c.ch c.seq = some m →
      (c.needReplay = none → exec (.tileReplay ctx false) s = .next s) ∧
      (∀ st : Nat, c.needReplay = some st → c.sweeping = false →
        (s.e.canReplay c = true → m.ending = false →
          ∃ (t : State) (d : TileCtx), exec (.tileReplay ctx false) s = .next t ∧ t.mem = s.mem ∧ t.e.ctx? ctx = some d ∧
            d.gen = c.gen + 1 ∧ d.marks = [] ∧ d.progress = [] ∧ d.count = 0 ∧ d.low = 0 ∧ d.dropped = 0 ∧ d.needReplay = none ∧
            d.org = c.org ∧ (t.e.cmd? c.ch c.seq).map (·.res.replayed) = some true ∧
            (t.e.cmd? c.ch c.seq).map (·.replays) = some ((c.org, shapeN c.shape) :: m.replays) ∧ t.e.count 47 = s.e.count 47 + 1 ∧
            (∀ k ∈ c.keys, t.e.stage.sector k = sectorClear) ∧ (∀ k, k ∉ c.keys → t.e.stage.sector k = s.e.stage.sector k) ∧
            ∀ sl : Slate, s.e.slate? c.ch c.seq = some sl → sl.closed = false → s.e.vacant = [] → s.e.stage.withdrawn = [] →
              ∃ sl2 : Slate, t.e.slate? c.ch c.seq = some sl2 ∧ ∃ r ∈ sl2.reissue ++ sl2.waiting, ∃ x ∈ r.tiles,
                x.ctx = some ctx ∧ x.floor = 0 ∧ x.done = false) ∧
        (s.e.canReplay c = false ∨ m.ending = true →
          ∃ (t : State) (d : TileCtx), exec (.tileReplay ctx false) s = .next t ∧ t.mem = s.mem ∧ t.e.ctx? ctx = some d ∧
            d = { c with started := false, readyAt := none, needReplay := none } ∧
            (t.e.cmd? c.ch c.seq).map (·.ending) = some true ∧
            (t.e.cmd? c.ch c.seq).map (·.res.status) = some (statusMax m.res.status st) ∧ t.e.stage.sectors = s.e.stage.sectors))) ∧
    (∀ (slice bank slot : Nat) (u : Upset),
      let key := sectorKey slice bank slot
      (key ∉ s.e.stage.readBack → exec (.slotReadBack slice bank slot ⟨u, []⟩) s = .next s) ∧
      (∀ r : SectorRead, key ∈ s.e.stage.readBack → upsetOutcome u = some r →
        (r.dataFixed = true → (s.e.stage.bank slice bank).corrected < s.e.health.ceLimit.toNat) →
        ∃ t : State, exec (.slotReadBack slice bank slot ⟨u, []⟩) s = .next t ∧ t.mem = s.mem ∧ t.e.place = s.e.place ∧
          t.e.stage.sectors = s.e.stage.sectors ∧ t.e.stage.readBack = s.e.stage.readBack.filter (· != key) ∧
          t.e.stage.copies = s.e.stage.copies ∧
          (t.e.stage.bank slice bank).corrected = (s.e.stage.bank slice bank).corrected + b2n r.dataFixed ∧
          t.e.count 39 = s.e.count 39 + b2n r.dataFixed ∧ t.e.count 41 = s.e.count 41 + b2n r.sideFixed) ∧
      (∀ i : Nat, key ∈ s.e.stage.readBack → upsetOutcome u = none → s.e.stage.withdrawn.contains slice = false →
        (∀ k ∈ s.e.stage.copies, k.slice ≠ slice ∨ k.bank ≠ bank) → s.e.stage.spareOf slice bank = none →
        s.e.stage.freeSpare slice = some i →
        ∃ t : State, exec (.slotReadBack slice bank slot ⟨u, []⟩) s = .next t ∧ t.mem = s.mem ∧ t.e.place = s.e.place ∧
          t.e.stage.sectors = s.e.stage.sectors ∧ t.e.stage.copies = s.e.stage.copies ++ [⟨slice, bank, 128 + i, s.e.cue⟩] ∧
          t.e.health.logCount = s.e.health.logCount + 1)) ∧
    (∀ (slice bank : Nat) (k : BankCopy), s.e.stage.copies.find? (fun c => c.slice == slice && c.bank == bank) = some k →
      (s.e.cue < k.since + 2048 → exec (.bankCopyComplete slice bank []) s = .next s) ∧
      (k.since + 2048 ≤ s.e.cue → exec (.bankCopyComplete slice bank []) s = .next { s with e := { s.e with stage := { s.e.stage with
        copies := s.e.stage.copies.erase k
        spareMap :=
          let m := (s.e.stage.spareOf slice bank).elim s.e.stage.spareMap fun i => ndel s.e.stage.spareMap (slice * 8 + i)
          if 128 ≤ k.spare then nput m (slice * 8 + (k.spare - 128)) bank else m } } }))

/-! ### The drains -/

/-- DRAIN_START and DRAIN_CLEAR (R131, R149, R220, R276, R47): a free drain takes the ready part of the highest class, the first token
at a tie; each sector it has read is cleared, alone; with the last sector of a part the drain is free, and with the last part the
tile leaves, its counts joining the command's, once no attempt of it is on its way (that the last clear waits for those is the
model's choice, log entry 71). -/
def Obligations.DrainsTakeAndClearParts : Prop :=
  ∀ (s : State) (d : Nat), s.settled → s.e.runs = true →
    ((s.e.drainUnit d).job.isSome = true ∨ 32 ≤ d ∨ s.e.readyParts d = [] → exec (.drainStart d) s = .next s) ∧
    (d < 32 → (s.e.drainUnit d).job = none → s.e.readyParts d ≠ [] →
      ∃ x ∈ s.e.readyParts d, (∀ y ∈ s.e.readyParts d, x.2.2.1 ≤ y.2.2.1 ∧ (x.2.2.1 = y.2.2.1 → x.2.2.2 ≤ y.2.2.2)) ∧
        exec (.drainStart d) s = .next { s with e := (s.e.updCtx x.1.id fun c => { c with started := true }).updDrain d fun u =>
          { u with job := some ⟨x.1.id, x.2.1, 0, [], [], false, false, false⟩ } }) ∧
    (∀ (j : DrainJob) (c : TileCtx) (m : Cmd) (p : Problem) (k : GemmKind) (part : Part), (s.e.drainUnit d).job = some j →
      s.e.ctx? j.ctx = some c → s.e.ctxCmd c = some (m, p, k) → c.parts[j.part]? = some part →
      let fin := part.rowHi ≤ part.rowLo + j.next ∧ j.stopped = false
      let parts := lset c.parts j.part fun p => { p with drained := true }
      (j.clear = [] → exec (.drainClear d) s = .next s) ∧
      (∀ (key : Nat) (rest : List Nat), j.clear = key :: rest → rest ≠ [] ∨ ¬ fin →
        ∃ t : State, exec (.drainClear d) s = .next t ∧ t.mem = s.mem ∧ t.e.place = s.e.place ∧ t.e.stage.sector key = sectorClear ∧
          (∀ y, y ≠ key → t.e.stage.sector y = s.e.stage.sector y) ∧ (t.e.drainUnit d).job = some { j with clear := rest }) ∧
      (∀ key : Nat, j.clear = [key] → fin → parts.all (·.drained) = false →
        ∃ t : State, exec (.drainClear d) s = .next t ∧ t.mem = s.mem ∧ t.e.stage.sector key = sectorClear ∧
          (∀ y, y ≠ key → t.e.stage.sector y = s.e.stage.sector y) ∧ (t.e.drainUnit d).job = none ∧
          t.e.ctx? c.id = some { c with parts := parts }) ∧
      (∀ key : Nat, j.clear = [key] → fin → parts.all (·.drained) = true →
        ((∃ a ∈ s.e.place.atts, a.ctx = c.id) → exec (.drainClear d) s = .next s) ∧
        ((∀ a ∈ s.e.place.atts, a.ctx ≠ c.id) →
          ∃ t : State, exec (.drainClear d) s = .next t ∧ t.mem = s.mem ∧ t.e.stage.sector key = sectorClear ∧
            (∀ y, y ≠ key → t.e.stage.sector y = s.e.stage.sector y) ∧ (t.e.drainUnit d).job = none ∧ t.e.ctx? c.id = none ∧
            t.e.count 4 = s.e.count 4 + 1 ∧ t.e.cmd? c.ch c.seq = some { m with res := { m.res with
              count := m.res.count + c.low, rangeCount := m.res.rangeCount + c.tally.ranged
              nonfinite := m.res.nonfinite + c.tally.nonfin, dropped := m.res.dropped + c.dropped } })))

/-- DRAIN_ROW (R49, R50, R58, R277, R293, R302, R427, R435): the next row of a part is read through its sectors, and its in-range
elements are emitted from the words that they hold: their output bytes join the drain's lines, their payload its hand-off, and
their counts the tile's; a row out of range emits nothing; the sectors read are to be cleared; the Stage itself stays. A row with
a sector that cannot be corrected, or with a residue mismatch, emits nothing: each such sector or mismatch is counted, a sector is
to be read back once it has been rewritten, the drain stops, and the tile wants a replay, or its command ends where R430 forbids
one. That a fault of the scale or bias arithmetic counts as such a mismatch is the model's choice (log entry 141). -/
def Obligations.RowsAreEmittedOnce : Prop :=
  ∀ (s : State) (d : Nat) (j : DrainJob) (c : TileCtx) (m : Cmd) (p : Problem) (k : GemmKind) (part : Part), s.settled → s.e.runs = true →
    (s.e.drainUnit d).job = some j → s.e.ctx? j.ctx = some c → s.e.ctxCmd c = some (m, p, k) → c.parts[j.part]? = some part →
    let i := part.rowLo + j.next
    let word : Nat → ZWord × Nat := fun t =>
      match (c.place c.acc i (part.colLo + t)).bind fun x => s.e.stage.readSector x.2.2 [] with
      | some r => if p.fast then (ZWord.zero, sectorFast (c.partCol part (part.colLo + t)) r)
          else (sectorWord c.acc (c.partCol part (part.colLo + t)) r, 0)
      | none => (ZWord.zero, 0)
    let secs := c.rowSectors c.acc i part
    (j.stopped = true ∨ part.rowHi ≤ i ∨ c.needReplay.isSome = true ∨ c.sweeping = true → exec (.drainRow d ⟨[], [], []⟩) s = .next s) ∧
    (j.stopped = false → i < part.rowHi → c.needReplay = none → c.sweeping = false →
      (∀ x ∈ secs, ∃ r, s.e.stage.readSector x.2 [] = some r ∧ r.dataFixed = false) →
      (p.fast = true ∨ ∀ t < part.cols, (word t).1.residueFault = false) →
      ∃ (t : State) (o : RowOut) (u : DrainJob), exec (.drainRow d ⟨[], [], []⟩) s = .next t ∧ t.mem = s.mem ∧ t.e.stage = s.e.stage ∧
        t.e.pods = s.e.pods ∧ t.e.mports = s.e.mports ∧
        o = (if i < c.inRows then s.e.rowOut s.rd m p k c part i word else ⟨[], [], ⟨0, 0, 0, 0, 0, 0⟩⟩) ∧
        t.e.count 5 = s.e.count 5 + o.tally.elems ∧
        t.e.ctx? c.id = some { c with tally := c.tally.add o.tally, wrote := c.wrote || !o.mem.isEmpty } ∧
        (t.e.drainUnit d).job = some u ∧ u.next = j.next + 1 ∧ u.clear = j.clear ++ secs.map (·.2) ∧ u.payload = j.payload ++ o.payload ∧
        u.ctx = j.ctx ∧ u.part = j.part ∧ (t.e.drainUnit d).out = (s.e.drainUnit d).out ++ outLines m.ch m.seq o.mem ∧
        (t.e.drainUnit d).hand = (s.e.drainUnit d).hand ++ (if part.rowHi ≤ i + 1 then handOff m p c part u else []) ∧
        ∀ n, n ≠ d → t.e.drainUnit n = s.e.drainUnit n) ∧
    (∀ (ups : List (Nat × Upset)) (faults : List Nat), j.stopped = false → i < part.rowHi → c.needReplay = none → c.sweeping = false →
      d < s.e.drain.units.length →
      let got := fun (x : Nat × Nat) => s.e.stage.readSector x.2 (((ups.find? fun u => u.1 == x.1).map (·.2)).getD [])
      let bad := secs.filter fun x => (got x).isNone
      (∀ x ∈ secs, ∀ r, got x = some r → r.dataFixed = false) → bad ≠ [] →
      ∃ t : State, exec (.drainRow d ⟨ups, faults, []⟩) s = .next t ∧ t.mem = s.mem ∧ t.e.pods = s.e.pods ∧
        t.e.stage.sectors = s.e.stage.sectors ∧ (∀ x ∈ bad, x.2 ∈ t.e.stage.suspect) ∧ t.e.count 40 = s.e.count 40 + bad.length ∧
        (t.e.drainUnit d).out = (s.e.drainUnit d).out ∧
        (s.e.canReplay c = true → t.e.ctx? c.id = some { c with needReplay := some 0x21 } ∧
          (t.e.drainUnit d).job = some { j with stopped := true } ∧ t.e.chan = s.e.chan) ∧
        (s.e.canReplay c = false → (t.e.cmd? c.ch c.seq).map (fun n => (n.ending, n.res.status)) =
          some (true, statusMax m.res.status 0x21) ∧ (t.e.drainUnit d).job = none)) ∧
    (∀ faults : List Nat, j.stopped = false → i < part.rowHi → c.needReplay = none → c.sweeping = false →
      d < s.e.drain.units.length → (∀ x ∈ secs, ∃ r, s.e.stage.readSector x.2 [] = some r ∧ r.dataFixed = false) →
      let n := (if p.fast = true then 0 else (List.range part.cols).countP fun t => (word t).1.residueFault) +
        (if i < c.inRows then p.stepFaults c part faults else 0)
      n ≠ 0 →
      ∃ t : State, exec (.drainRow d ⟨[], faults, []⟩) s = .next t ∧ t.mem = s.mem ∧ t.e.pods = s.e.pods ∧
        t.e.stage.sectors = s.e.stage.sectors ∧ t.e.count 45 = s.e.count 45 + n ∧ (t.e.drainUnit d).out = (s.e.drainUnit d).out ∧
        (s.e.canReplay c = true → t.e.ctx? c.id = some { c with needReplay := some 0x22 } ∧
          (t.e.drainUnit d).job = some { j with stopped := true } ∧ t.e.chan = s.e.chan) ∧
        (s.e.canReplay c = false → (t.e.cmd? c.ch c.seq).map (fun n => (n.ending, n.res.status)) =
          some (true, statusMax m.res.status 0x22) ∧ (t.e.drainUnit d).job = none))

/-- OUTPUT_WRITE, HANDOFF and PANEL_CHECK_WRITE (R294, R300, R301, R481, R502, R424): a drain's next output line goes to memory, byte
by byte under its enables, while its port has room for it; one beat of its hand-off leaves under a credit of its vector port, in
turn; a panel's check, once everything of its command has been written, is the CRC-32C of its 4,096 bytes, those it reads coming
through free memory ports. A line whose transfer cannot be corrected is not written, and its command ends (the model's reading of
R422, log entry 153). -/
def Obligations.OutputLeavesTheDrains : Prop :=
  ∀ s : State, s.Inv → s.e.lost = false → s.e.runs = true →
    (∀ (d : Nat) (l : OutLine) (r : List OutLine), (s.e.drainUnit d).out = l :: r →
      let room := (s.e.port (portOf ((l.bytes.head?.map (·.1)).getD 0))).unsent.length
      (64 ≤ room → exec (.outputWrite ⟨d, []⟩) s = .next s) ∧
      (room < 64 → ∃ t : State, exec (.outputWrite ⟨d, []⟩) s = .next t ∧ (t.e.drainUnit d).out = r ∧ t.e.stage = s.e.stage ∧
        t.e.place = s.e.place ∧ (∀ a, (∀ b ∈ l.bytes, b.1 % 2 ^ 64 ≠ a) → Memory.get t.mem a = Memory.get s.mem a) ∧
        ((l.bytes.map (·.1)).Nodup → (∀ b ∈ l.bytes, b.1 < 2 ^ 64) → ∀ b ∈ l.bytes,
          Memory.get t.mem b.1 = (Memory.get s.mem b.1 &&& ~~~ b.2.1) ||| (b.2.2 &&& b.2.1))) ∧
      (∀ (up : Upset) (m : Cmd), room < 64 → up ≠ [] → upsetOutcome up = none → s.e.cmd? l.ch l.seq = some m →
        ∃ t : State, exec (.outputWrite ⟨d, up⟩) s = .next t ∧ t.mem = s.mem ∧ (t.e.drainUnit d).out = r ∧ t.e.stage = s.e.stage ∧
          t.e.mports = s.e.mports ∧ t.e.count 40 = s.e.count 40 + 1 ∧
          (t.e.cmd? l.ch l.seq).map (fun n => (n.ending, n.res.status)) = some (true, statusMax m.res.status 0x21))) ∧
    (∀ d : Nat, ((s.e.drainUnit d).out = [] → exec (.outputWrite ⟨d, []⟩) s = .next s) ∧
      ((s.e.drainUnit d).hand = [] → exec (.handoff d) s = .next s)) ∧
    (∀ (d : Nat) (h : HandOff) (rest : List HandOff) (b : List Byte) (bs : List (List Byte)), d < 32 → s.e.drain.ports.length = 8 →
      (s.e.drainUnit d).hand = h :: rest → h.beats = b :: bs →
      ((s.e.vport (d / 4)).credits = 0 ∨ s.e.vpTurn (d / 4) ≠ some d → exec (.handoff d) s = .next s) ∧
      (0 < (s.e.vport (d / 4)).credits → s.e.vpTurn (d / 4) = some d →
        ∃ t : State, exec (.handoff d) s = .next t ∧ t.mem = s.mem ∧ t.e.place = s.e.place ∧ t.e.stage = s.e.stage ∧
          (t.e.vport (d / 4)).sent = (s.e.vport (d / 4)).sent ++ [(b, bs.isEmpty, h.abort)] ∧
          (t.e.vport (d / 4)).credits = (s.e.vport (d / 4)).credits - 1 ∧
          (t.e.vport (d / 4)).active = (if bs = [] then none else some d) ∧
          (t.e.drainUnit d).hand = (if bs = [] then rest else { h with beats := bs, sent := h.sent + 1 } :: rest) ∧
          t.e.count 69 = s.e.count 69 + 1 ∧ t.e.count 6 = s.e.count 6 + (if bs = [] ∧ h.abort = false then 1 else 0))) ∧
    (∀ (ch seq panel : Nat) (m : Cmd) (x : PanelDue), s.e.cmd? ch seq = some m → m.panels.find? (fun y => y.addr == panel) = some x →
      (s.e.cmdDrained ch seq = false → exec (.panelCheckWrite ch seq panel []) s = .next s) ∧
      (s.e.cmdDrained ch seq = true → s.e.portsFree → x.check + 4 ≤ 2 ^ 64 →
        ∃ t : State, exec (.panelCheckWrite ch seq panel []) s = .next t ∧
          rdNat (Memory.get t.mem) x.check 4 = crc32c (rdBytes s.rd panel 4096) ∧
          (∀ a : Nat, a < x.check ∨ x.check + 4 ≤ a → Memory.get t.mem a = Memory.get s.mem a) ∧
          t.e.cmd? ch seq = some { m with panels := m.panels.erase x } ∧ t.e.count 43 = s.e.count 43 + 1))

/-! ### Remote operations, triggers and windows -/

/-- REMOTE_OP_ARRIVAL (R353, R354, R357, R358, R375): at the first flit of an operation the target's checks run, and one that they
refuse is answered with LOADER_REJECT and its detail and changes nothing else; a PUT writes its bytes in its window and is
answered once they are accepted; a SIGNAL adds to its trigger counter, an FADD adds to its 8 bytes and returns what they held, a
GET returns the bytes or the words of its window, and an ADDX adds its words into the accumulate window; a GET, an FADD and a
SIGNAL wait for the earlier operations of their origin, under the entry read at their first flit. The updates of an ADDX issue in
their arrival step where their banks' queues are empty and give credits, stand in a queue that is not, and stay on their stream
behind what it holds or without a credit (R138, R141); one whose adder fails its check adds nothing (R46). That the final response
is a packet of its own after the data, how a refused operation answers, and that updates issue in the step of their arrival are
the model's choices (log entries 80, 31 and 136). -/
def Obligations.TargetsPerformOperations : Prop :=
  ∀ (s : State) (via : Via), s.Inv → s.e.lost = false → s.e.runs = true →
    let arrive := exec (.remoteOpArrival via [] ⟨[], false⟩) s
    (s.e.tgtNext via = none → s.e.inFirst via (fun q => q.hdr.cls == 0) = none → arrive = .next s) ∧
    ∀ p : Packet, s.e.portsFree → s.e.tgtNext via = none → s.e.inFirst via (fun q => q.hdr.cls == 0) = some p → p.bad = [] →
    let h := p.hdr
    let e0 := s.e.inDrop via p
    let n := s.e.windowOf s.rd h.window
    let w := winWord n.type
    let tg : TgtOp := ⟨h.src, h.ptag, via, h.opcode, h.window, false, true, 0, 0, n, true, []⟩
    let done := e0.sendPacket via (s.e.respPacket tg 0 [] 0 true)
    (h.first = true → h.last = true → s.e.targetCheck s.rd h = none →
      (h.opcode = 0x11 ∨ h.opcode = 0x13 ∨ h.opcode = 0x14) → (∃ y ∈ s.e.remote.tgts, y.origin = h.src) →
      (∀ y ∈ s.e.remote.tgts, (y.origin ≠ h.src ∨ y.ptag ≠ h.ptag) ∧ (y.last = false ∨ y.waits ≠ [] ∨ s.e.owes (.remote y.origin y.ptag) = true)) →
      ∃ t : State, arrive = .next t ∧ t.mem = s.mem ∧ t.e.link = e0.link ∧
        t.e.remote = { s.e.remote with tgts := s.e.remote.tgts ++ [{ tg with started := false, waits := [p] }] }) ∧
    (h.first = true → h.last = true → s.e.remote.tgts = [] → s.e.owes (.remote h.src h.ptag) = false → s.e.adding h.src h.ptag = false →
      s.e.mports.length = 32 →
      (∀ d : Nat, s.e.targetCheck s.rd h = some d →
        ∃ t : State, arrive = .next t ∧ t.mem = s.mem ∧ t.e.remote = s.e.remote ∧
          t.e.link = (e0.sendPacket via (s.e.respPacket { tg with rejected := true, status := 0x10, detail := d } 0 [] 0 true)).link ∧
          t.e.count 27 = s.e.count 27) ∧
      (s.e.targetCheck s.rd h = none →
        (h.opcode = 0x10 → p.data ≠ [] → n.base + h.offset + p.data.length ≤ 2 ^ 64 →
          ∃ t : State, arrive = .next t ∧ t.e.remote = { s.e.remote with tgts := [tg] } ∧ t.e.link = e0.link ∧
            (∀ i < p.data.length, some (Memory.get t.mem (n.base + h.offset + i)) = p.data[i]?) ∧
            ∀ a, a < n.base + h.offset ∨ n.base + h.offset + p.data.length ≤ a → Memory.get t.mem a = Memory.get s.mem a) ∧
        (h.opcode = 0x14 →
          ∃ t : State, arrive = .next t ∧ t.mem = s.mem ∧
            t.e.trig h.window = { s.e.trig h.window with count := (s.e.trig h.window).count + BitVec.ofNat 64 (leNat (p.data.take 8)) } ∧
            (∀ j, j ≠ h.window → t.e.trig j = s.e.trig j) ∧ t.e.remote.tgts = [] ∧ t.e.count 27 = s.e.count 27 + 1 ∧
            t.e.link = done.link) ∧
        (h.opcode = 0x13 → n.base + h.offset + 8 ≤ 2 ^ 64 →
          ∃ t : State, arrive = .next t ∧ t.e.remote.tgts = [tg] ∧
            rdNat (Memory.get t.mem) (n.base + h.offset) 8 =
              (rdNat s.rd (n.base + h.offset) 8 + leNat (p.data.take 8)) % 2 ^ 64 ∧
            (∀ a, a < n.base + h.offset ∨ n.base + h.offset + 8 ≤ a → Memory.get t.mem a = Memory.get s.mem a) ∧
            t.e.link = (e0.sendPacket via (s.e.respPacket tg h.offset (leBytes 8 (rdNat s.rd (n.base + h.offset) 8)) 0 false)).link) ∧
        (h.opcode = 0x11 → n.type = 1 →
          ∃ t : State, arrive = .next t ∧ t.mem = s.mem ∧ t.e.remote = s.e.remote ∧
            t.e.count 27 = s.e.count 27 + 1 ∧
            t.e.link = (((dataPieces [] (n.base + h.offset) h.total).foldl (fun e x => e.sendPacket via
              (s.e.respPacket tg (h.offset + x.1) (rdBytes s.rd (n.base + h.offset + x.1) x.2) 1 false)) e0).sendPacket via
                (s.e.respPacket tg 0 [] 0 true)).link) ∧
        (∀ a : AccWin, h.opcode = 0x11 → n.type ≠ 1 → s.e.win? h.window = some a → a.faulted = none →
          let i0 := h.offset / w
          ∃ t : State, arrive = .next t ∧ t.mem = s.mem ∧ t.e.remote = s.e.remote ∧ t.e.count 27 = s.e.count 27 + 1 ∧
            t.e.link = (((goodRuns (fun i => !a.lost.contains (i0 + i)) (h.total / w)).foldl (fun e r =>
              (packPackets 2048 w ((a.words.drop (i0 + r.1)).take r.2) 0 0 []).foldl (fun e x => e.sendPacket via
                (s.e.respPacket tg (h.offset + w * (r.1 + x.1)) x.2 n.type false)) e) e0).sendPacket via (s.e.respPacket tg 0 [] 0 true)).link) ∧
        (∀ (a : AccWin) (ws : List ZWord), h.opcode = 0x12 → s.e.win? h.window = some a → a.faulted = none →
          unpack w p.data.length p.data = (ws, true) → (∀ z ∈ ws, z.residueFault = false) →
          let us := s.e.packetUpds p
          let on := s.e.stage.xlink (.xbar via)
          let bank := fun (x : Stage) (u : StageUpd) => x.bank u.slot.1 (s.e.stage.physBank u.slot.1 u.slot.2.1)
          let kept := fun (t : State) => t.mem = s.mem ∧ t.e.link = e0.link ∧ t.e.remote = { s.e.remote with tgts := [tg] }
          (on = [] → (∀ u ∈ us, (bank s.e.stage u).q = [] ∧ us.length ≤ (bank s.e.stage u).xbar) →
            (∀ i < ws.length, a.lost.contains (h.offset / w + i) = true ∨ s.e.stageSlots (.window h.window) [(h.offset / w + i) * w / 32] ≠ []) →
            ∃ t : State, arrive = .next t ∧ t.mem = s.mem ∧ t.e.remote.tgts = [] ∧
              t.e.win? h.window = some (ws.zipIdx.foldl (fun a z => a.add (h.offset / w + z.2) z.1) a) ∧
              (∀ j, j ≠ h.window → t.e.win? j = s.e.win? j) ∧ t.e.count 27 = s.e.count 27 + 1 ∧ t.e.remote.trigs = s.e.remote.trigs ∧
              t.e.stage.sectors = s.e.stage.sectors ∧ t.e.link = done.link) ∧
          (on ≠ [] → us ≠ [] → ∃ t : State, arrive = .next t ∧ kept t ∧ t.e.stage = s.e.stage.setXlink (.xbar via) (on ++ us)) ∧
          (∀ u : StageUpd, on = [] → us = [u] →
            ((bank s.e.stage u).xbar = 0 → ∃ t : State, arrive = .next t ∧ kept t ∧ t.e.stage = s.e.stage.setXlink (.xbar via) us) ∧
            ((bank s.e.stage u).xbar ≠ 0 → (bank s.e.stage u).q ≠ [] → ∃ t : State, arrive = .next t ∧ kept t ∧
              t.e.stage.sectors = s.e.stage.sectors ∧ t.e.stage.xlink (.xbar via) = [] ∧
              bank t.e.stage u = { bank s.e.stage u with
                xbar := (bank s.e.stage u).xbar - 1
                q := (bank s.e.stage u).q ++ [⟨true, sectorKey u.slot.1 u.slot.2.1 u.slot.2.2, [], some u⟩] }) ∧
            ((bank s.e.stage u).xbar ≠ 0 → (bank s.e.stage u).q = [] → (∃ z ∈ u.words, a.lost.contains z.1 = false) →
              ∃ t : State, exec (.remoteOpArrival via [] ⟨[], true⟩) s = .next t ∧ t.mem = s.mem ∧ t.e.remote = s.e.remote ∧
                t.e.health.log.head? = some (faultEntry 0x12 1 u.slot.1 u.slot.2.1 none false s.e.cue) ∧
                t.e.link = (e0.sendPacket via (s.e.respPacket { tg with status := 0x22 } 0 [] 0 true)).link)))))

/-- RESP_ARRIVAL (R358, R362, R373): the bytes that a response carries go to their place at the local address, the words of an
accumulate window to their planes and side bytes; the final response, once every byte is accepted, ends the operation with its
status: the command's result is final and, with a status below 0x10, its trigger counter rises by one, or the entry after the one
whose action it was; a status from 0x10 up passes to the entry; a response that belongs to no operation is discarded. How a
response is matched, where it carries the window's type and its detail, and that its last packet ends the operation are the
model's choices (log entries 31 and 80). -/
def Obligations.ResponsesCompleteOperations : Prop :=
  ∀ (s : State) (via : Via), s.Inv → s.e.lost = false → s.e.runs = true →
    (s.e.inFirst via (fun q => q.hdr.cls == 1) = none → exec (.respArrival via) s = .next s) ∧
    ∀ p : Packet, s.e.inFirst via (fun q => q.hdr.cls == 1) = some p → p.bad = [] →
    let own := fun (o : RemOp) => o.ptag == p.hdr.ptag && o.args.target == p.hdr.src && !o.answered
    (s.e.remote.ops.find? own = none → exec (.respArrival via) s = .next { s with e := s.e.inDrop via p }) ∧
    ∀ o : RemOp, s.e.remote.ops.find? own = some o → o.dead = false → (∀ y ∈ s.e.remote.ops, y.answered = false ∧ y.held = []) →
    let st := statusMax o.res.status p.hdr.kind
    let detail := if st = o.res.status then o.res.detail else p.hdr.window % 256
    let type := p.hdr.window / 256
    let ends := p.hdr.last = true ∧ p.data = [] ∧ s.e.remote.ops.filter (fun y => y.ptag == p.hdr.ptag) = [o]
    (p.hdr.last = false → (o.args.opcode = 0x10 ∨ (o.args.opcode = 0x11 ∧ type ≠ 2 ∧ type ≠ 3) ∨ o.args.opcode = 0x13) →
      let a := if o.args.opcode = 0x13 then o.args.loc else o.args.loc + (p.hdr.offset - o.args.offset)
      let d := if o.args.opcode = 0x13 then p.data.take 8 else p.data
      a + d.length ≤ 2 ^ 64 →
      ∃ t : State, exec (.respArrival via) s = .next t ∧ t.e.remote = s.e.remote ∧ t.e.chan = s.e.chan ∧
        t.e.link = (s.e.inDrop via p).link ∧ (∀ i < d.length, some (Memory.get t.mem (a + i)) = d[i]?) ∧
        ∀ x, x < a ∨ a + d.length ≤ x → Memory.get t.mem x = Memory.get s.mem x) ∧
    (∀ zs : List ZWord, p.hdr.last = false → o.args.opcode = 0x11 → type = 2 ∨ type = 3 →
      unpack (winWord type) p.data.length p.data = (zs, true) → (∀ z ∈ zs, z.residueFault = false) →
      let w := winWord type
      let i0 := (p.hdr.offset - o.args.offset) / w
      ∃ t : State, exec (.respArrival via) s = .next t ∧ t.e.remote = s.e.remote ∧ t.e.chan = s.e.chan ∧
        t.e.link = (s.e.inDrop via p).link ∧
        t.mem = Memory.apply s.mem (wrapWrites (zs.zipIdx.flatMap fun z =>
          placeBytes (o.args.loc + w * (i0 + z.2)) (z.1.plane (8 * w)) ++
            placeBytes (o.args.loc + o.args.length + 2 * (i0 + z.2)) z.1.sides))) ∧
    (∀ (ch seq : Nat) (m : Cmd), ends → o.by_ = .cmd ch seq → s.e.owes (.cmd ch seq) = false → s.e.cmd? ch seq = some m →
      ∃ t : State, exec (.respArrival via) s = .next t ∧ t.mem = s.mem ∧ t.e.link = (s.e.inDrop via p).link ∧
        t.e.remote.ops = s.e.remote.ops.filter (fun y => y.ptag != o.ptag) ∧
        (t.e.cmd? ch seq).map (·.phase) = some .final ∧
        (t.e.cmd? ch seq).map (·.res.status) = some (statusMax m.res.status st) ∧
        (m.trigOf = none → t.e.remote.trigs = s.e.remote.trigs) ∧
        ∀ i : Nat, m.trigOf = some i →
          (st < 0x10 → t.e.trig i = { s.e.trig i with count := (s.e.trig i).count + 1 } ∧ ∀ j, j ≠ i → t.e.trig j = s.e.trig j) ∧
          (0x10 ≤ st → t.e.remote.trigs = (s.e.trigFail i st detail o.res.member).remote.trigs)) ∧
    (∀ i : Nat, ends → o.by_ = .trig i → s.e.owes (.remote 65536 o.ptag) = false →
      ∃ t : State, exec (.respArrival via) s = .next t ∧ t.mem = s.mem ∧ t.e.chan = s.e.chan ∧ t.e.link = (s.e.inDrop via p).link ∧
        t.e.remote.ops = s.e.remote.ops.filter (fun y => y.ptag != o.ptag) ∧
        t.e.remote.trigs = (if 0x10 ≤ st then s.e.trigFail i st detail o.res.member
          else if (s.e.trig i).nextEn = true then s.e.trigAdd (s.e.trig i).next 1 else s.e).remote.trigs)

/-- TRIGGER_FIRE and TRIGGER_ACTION_ISSUE (R360, R371, R372, R373, R380): an armed entry whose count has reached its threshold fires:
it is disarmed, or its threshold moves on by its period, and its action waits behind those fired before; a launch entry also hands
its collective on; any other entry does nothing. The oldest action is issued, or, refused by the origin's checks, passes its
status on. The operation's tag and the refusal of a launch as its entry fires are the model's choices (log entries 139 and 83). -/
def Obligations.TriggersFireAndIssue : Prop :=
  ∀ s : State, s.settled → s.e.runs = true →
    (∀ i : Nat, 4096 ≤ i ∨ (s.e.trig i).fires = false → exec (.triggerFire i) s = .next s) ∧
    (∀ i : Nat, i < 4096 → (s.e.trig i).fires = true →
      (s.e.coll.tableCount.toNat ≤ i → ∃ t : State, exec (.triggerFire i) s = .next t ∧ t.mem = s.mem ∧ t.e.coll = s.e.coll ∧
        t.e.trig i = (s.e.trig i).advance ∧ (∀ j, j ≠ i → t.e.trig j = s.e.trig j) ∧ t.e.count 30 = s.e.count 30 + 1 ∧
        t.e.remote.fired = s.e.remote.fired ++ (if (s.e.trig i).aop = 0 then [] else [(i, (s.e.trig i).args)]) ∧
        t.e.remote.ops = s.e.remote.ops) ∧
      (∀ (r : CollRec) (k : Nat) (b : Bool), s.e.portsFree → i < s.e.coll.tableCount.toNat →
        r = CollRec.ofNat (rdRec s.rd (s.e.coll.tableBase.toNat + 128 * i) 128) → r.version ≠ 0 → s.e.refusal s.rd r = some (k, b) →
        ∃ t : State, exec (.triggerFire i) s = .next t ∧ t.e.coll.lastRefusal = BitVec.ofNat 32 (i * 65536 + k) ∧
          t.e.coll.waiting = s.e.coll.waiting ∧ t.e.count 31 = s.e.count 31 + 1 ∧ t.e.count 33 = s.e.count 33 + 1) ∧
      (∀ r : CollRec, s.e.portsFree → i < s.e.coll.tableCount.toNat → r = CollRec.ofNat (rdRec s.rd (s.e.coll.tableBase.toNat + 128 * i) 128) →
        r.version ≠ 0 → s.e.refusal s.rd r = none →
        ∃ t : State, exec (.triggerFire i) s = .next t ∧ t.mem = s.mem ∧ t.e.trig i = (s.e.trig i).advance ∧
          t.e.coll.waiting = s.e.coll.waiting ++ [(i, r)] ∧ t.e.coll.colls = s.e.coll.colls ∧ t.e.count 31 = s.e.count 31 + 1)) ∧
    (s.e.remote.fired = [] → exec (.triggerActionIssue []) s = .next s) ∧
    (∀ (i : Nat) (a : RemoteArgs) (r : List (Nat × RemoteArgs)), s.e.remote.fired = (i, a) :: r →
      (256 ≤ s.e.remote.ops.length → exec (.triggerActionIssue []) s = .next s) ∧
      (∀ d : Nat, s.e.remote.ops.length < 256 → s.e.originCheck a true = some d →
        ∃ t : State, exec (.triggerActionIssue []) s = .next t ∧ t.mem = s.mem ∧ t.e.link = s.e.link ∧
          t.e.remote = { (s.e.trigFail i 0x10 d 0).remote with fired := r }) ∧
      (s.e.portsFree → s.e.remote.ops.length < 256 → s.e.originCheck a true = none → (∀ o ∈ s.e.remote.ops, o.held ≠ [] → s.e.opWaits o = true) →
        let tag := s.e.remote.nextTag
        let ps := opPieces s.rd [] a
        let packets : List Packet := ps.zipIdx.map fun y =>
          ⟨opHeader s.e.link.ident tag a (y.2 == 0) (y.2 + 1 == ps.length) y.1.1 y.1.2.length, y.1.2, []⟩
        let waits := s.e.remote.ops.any fun o => o.by_.same (.trig i) && s.e.unsentOp o
        ∃ (t : State) (via : Via), exec (.triggerActionIssue []) s = .next t ∧ t.mem = s.mem ∧ s.e.route a.target = some via ∧
          t.e.count 26 = s.e.count 26 + 1 ∧ (∀ o ∈ s.e.remote.ops, o.ptag ≠ tag) ∧ t.e.remote = { s.e.remote with
            fired := r
            ops := s.e.remote.ops ++ [⟨tag, .trig i, a, via, Result.ofStatus 0 0, false, false, if waits then packets else []⟩]
            tag := (tag + 1) % 2 ^ 16 } ∧
          t.e.link = if waits then s.e.link else (packets.foldl (fun e p => e.sendPacket via p) s.e).link))

/-- ACC_WINDOW_OPEN, ACC_WINDOW_OPENED, ACC_WINDOW_CLOSE and ACC_WINDOW_CLOSED (R364, R365, R366): a window of an accumulate type that
is not open takes staging and, once opened, holds its home words; an open is refused, and changes nothing, where the window lies
outside the table, is of another type or is open, where 64 are open, where an open or a close is in progress, and where the free
staging is short; a close is refused where its window is not open or an open or a close is in progress, and otherwise ends, once
no admitted operation on it is left, with every word written home and its staging free. Which free sectors a window takes is the
model's choice (log entry 137). -/
def Obligations.WindowsOpenAndClose : Prop :=
  ∀ s : State, s.settled →
    (∀ (p : Path) (w : BitVec 16), s.e.opens p →
      let n := s.e.winEntry s.rd w.toNat
      let refused := fun (b : Bool) => b = true ↔ s.e.remote.winCount.toNat ≤ w.toNat ∨ (n.type ≠ 2 ∧ n.type ≠ 3) ∨
        (s.e.win? w.toNat).isSome = true ∨ 64 ≤ s.e.remote.wins.length ∨ s.e.remote.winBusy.isSome = true ∨
        s.e.stage.stagingAvailable < s.e.stagingUsed + n.size
      (refused true → ∃ t : State, exec (.accWindowOpen p w) s = .next t ∧ s.turnedAway t p 5) ∧
      (refused false → s.e.portsFree → ∃ t : State, exec (.accWindowOpen p w) s = .next t ∧ s.wrote t p (Eng.countLines [(s.e.remote.winBase.toNat + 32 * w.toNat, 32)] { s.e with
        remote := { s.e.remote with
          wins := s.e.remote.wins ++ [⟨w.toNat, n, [], false, false, none, []⟩]
          uses := s.e.remote.uses ++ [⟨.window w.toNat, s.e.spread (.window w.toNat) (cdiv n.size 32)⟩]
          winBusy := some (true, w.toNat), winLast := w.toNat, winFailed := false, winFaulted := false } })) ∧
      (s.e.win? w.toNat = none ∨ s.e.remote.winBusy.isSome = true → ∃ t : State, exec (.accWindowClose p w) s = .next t ∧ s.turnedAway t p 5) ∧
      (∀ a : AccWin, s.e.win? w.toNat = some a → s.e.remote.winBusy = none → a.opened = true →
        ∃ t : State, exec (.accWindowClose p w) s = .next t ∧ t.mem = s.mem ∧ t.e.result p = 0 ∧
          t.e.win? w.toNat = some { a with closing := true } ∧ t.e.remote.winBusy = some (false, w.toNat))) ∧
    (s.e.runs = true → s.e.remote.winBusy = none →
      exec (.accWindowOpened []) s = .next s ∧ exec (.accWindowClosed []) s = .next s) ∧
    (∀ (w : Nat) (a : AccWin), s.e.runs = true → s.e.portsFree → s.e.remote.winBusy = some (true, w) → s.e.win? w = some a →
      let wb := winWord a.entry.type
      let home := (List.range (a.entry.size / wb)).map fun i => rdZ s.rd (8 * wb) (a.entry.base + wb * i) (a.entry.sideBase + 2 * i)
      (∀ z ∈ home, z.residueFault = false) →
      ∃ t : State, exec (.accWindowOpened []) s = .next t ∧ t.mem = s.mem ∧ t.e.remote.winBusy = none ∧
        t.e.win? w = some { a with opened := true, faulted := none, lost := [], words := home } ∧ t.e.remote.winFaulted = false ∧
        ∀ j, j ≠ w → t.e.win? j = s.e.win? j) ∧
    (∀ (w : Nat) (a : AccWin), s.e.runs = true → s.e.remote.winBusy = some (false, w) → s.e.win? w = some a →
      ((∃ y ∈ s.e.remote.tgts, y.rejected = false ∧ y.window = w ∧ (y.opcode = 0x11 ∨ y.opcode = 0x12)) →
        exec (.accWindowClosed []) s = .next s) ∧
      ((∀ y ∈ s.e.remote.tgts, y.rejected = true ∨ y.window ≠ w ∨ (y.opcode ≠ 0x11 ∧ y.opcode ≠ 0x12)) →
        let wb := winWord a.entry.type
        let ws := a.words.zipIdx.flatMap fun z => if a.lost.contains z.2 then []
          else placeBytes (a.entry.base + wb * z.2) (z.1.plane (8 * wb)) ++ placeBytes (a.entry.sideBase + 2 * z.2) z.1.sides
        ∃ t : State, exec (.accWindowClosed []) s = .next t ∧ t.mem = Memory.apply s.mem (wrapWrites ws) ∧ t.e.win? w = none ∧
          t.e.remote.winBusy = none ∧ (∀ u ∈ t.e.remote.uses, u.user ≠ .window w) ∧ ∀ j, j ≠ w → t.e.win? j = s.e.win? j))

/-! ### Collectives -/

/-- JOIN, CREDIT, CHUNK_UP, CHUNK_DOWN, SHORT_UP, REPORT, COMMIT message and COMMIT_ACK (R392 to R395, R402, R403, R407, R409, R415):
a message known here leaves the inbox, is noted in its collective, a COMMIT also passed on down the tree, and restarts the count
of R414; then every collective goes on as far as it can; the words of a CHUNK_UP go to the banks of its up slot, where those that
issue at once are added, and one whose adder fails its check gives an abort request (R46); a message of another signature gives an
abort request; one that follows the end of its collective is only dropped, and one that comes before its launch waits, with its
group cached (R387); with none from the port nothing happens. Where the words of an up slot lie, when their updates issue, and by
what messages a new launch of a record is told are the model's choices (log entries 136 and 32). -/
def Obligations.MessagesReachTheirCollective : Prop :=
  ∀ (s : State) (via : Via), s.settled → s.e.runs = true →
    let goesOn := fun (e : Eng) => s.commit (e.collSettle s.rd)
    let at_ := fun (k : Nat) => [Instr.join via, .credit via, .chunkUp via ⟨[], false⟩, .chunkDown via, .shortUp ⟨via, false⟩, .shortDown via,
      .report via, .commitMessage via, .commitAck via, .abortReq via, .outcome via, .loss via][k]?
    (∀ (p : Packet) (c : Coll),
      let h := p.coll
      let put := s.e.noted s.rd via p
      let d := p.data.drop 32
      (s.e.hears via 0 p c → let e1 := put fun x => { x with joined := h.sender :: x.joined }
        exec (.join via) s = .next (goesOn e1)) ∧
      (s.e.hears via 1 p c → let e1 := put fun x => { x with credits := (h.sender, h.level, h.tree, h.index) :: x.credits }
        exec (.credit via) s = .next (goesOn e1)) ∧
      (∀ (fault : Bool) (zs : List ZWord), s.e.hears via 2 p c → s.e.coll? h.group = some c → c.aborted = false → unpack (c.rcd.W / 8) d.length d = (zs, true) →
        (∀ z ∈ zs, z.residueFault = false) →
        let e0 := put id
        let us := e0.upUpds c h.level h.tree h.index h.sender (p.hdr.offset / (c.rcd.W / 8)) zs
        let (now, e1) := e0.sendUpdates (.xbar via) us
        let e2 := e1.updColl h.group (Coll.updUp h.level h.index (UpSlot.take h.sender zs.length))
        (now = [] → exec (.chunkUp via ⟨[], fault⟩) s = .next (goesOn e2)) ∧
        (fault = false → let e3 := now.foldl (fun e u => e.updColl h.group
            fun x => x.updUp h.level h.index (UpSlot.addWords c.rcd.W u.words)) e2
          exec (.chunkUp via ⟨[], fault⟩) s = .next (goesOn e3)) ∧
        (∀ u : StageUpd, now = [u] → fault = true →
          let e3 := ((e2.bump 45 1).logFault 0x15 6 0 0 none false).abortReq h.group 0x22 s.e.link.ident s.e.link.ident []
          exec (.chunkUp via ⟨[], fault⟩) s = .next (goesOn e3))) ∧
      (s.e.hears via 3 p c → c.aborted = false →
        let e1 := put fun x => x.addPieces h.level h.tree h.index [(p.hdr.offset, d, p.hdr.last)]
        exec (.chunkDown via) s = .next (goesOn e1)) ∧
      (c.aborted = true → (s.e.hears via 2 p c → exec (.chunkUp via ⟨[], false⟩) s = .next (goesOn (put id))) ∧
        (s.e.hears via 3 p c → exec (.chunkDown via) s = .next (goesOn (put id)))) ∧
      (s.e.hears via 4 p c → c.rcd.shortBad c.expo d = 0 → let e1 := put fun x => { x with shorts := x.shorts ++ [(h.sender, d)] }
        exec (.shortUp ⟨via, false⟩) s = .next (goesOn e1)) ∧
      (s.e.hears via 6 p c → let e1 := put fun x => { x with reports := x.reports ++ [Report.ofBytes h.sender d] }
        exec (.report via) s = .next (goesOn e1)) ∧
      (s.e.hears via 7 p c → let e1 := ((put id).collDownAll c (fun x => { x with kind := 7 }) []).updColl h.group fun x =>
          { x with committed := true }
        exec (.commitMessage via) s = .next (goesOn e1)) ∧
      (s.e.hears via 8 p c → let e1 := put fun x => { x with acks := h.sender :: x.acks }
        exec (.commitAck via) s = .next (goesOn e1))) ∧
    ∀ (k : Nat) (i : Instr), at_ k = some i →
      (s.e.inFirst via (fun q => q.hdr.cls == 2 && !q.bad.contains 0 && q.coll.kind == k) = none → exec i s = .next s) ∧
      (s.e.inFirst via (fun q => q.hdr.cls == 2 && !q.bad.contains 0 && q.coll.kind == k && s.e.collKnows q.coll) = none →
        let others := s.e.link.inbox.filter fun x => x.via == via && x.pkt.hdr.cls == 2 && !x.pkt.bad.contains 0 && x.pkt.coll.kind == k
        let e1 := others.foldl (fun e x => e.cacheNamed s.rd x.pkt.coll.group) s.e
        exec i s = .next (s.commit e1)) ∧
      ∀ p : Packet,
        s.e.inFirst via (fun q => q.hdr.cls == 2 && !q.bad.contains 0 && q.coll.kind == k && s.e.collKnows q.coll) = some p →
        (s.e.coll.colls.find? (fun x => x.group.num == p.coll.group && x.rcd.seq == p.coll.seq) = none →
          let e0 := (s.e.inDrop via p).cacheNamed s.rd p.coll.group
          (k ≠ 0 → k ≠ 9 → k ≠ 10 → exec i s = .next (s.commit e0)) ∧
          (k = 0 → exec i s = .next (s.commit { e0 with coll := { e0.coll with ended := e0.coll.ended.map fun x =>
            if x.group = p.coll.group ∧ x.seq = p.coll.seq then { x with joined := p.coll.sender :: x.joined } else x } })) ∧
          (k = 9 → exec i s = .next (s.commit (e0.bump 37 1)))) ∧
        ∀ c : Coll, s.e.coll.colls.find? (fun x => x.group.num == p.coll.group && x.rcd.seq == p.coll.seq) = some c →
          p.coll.signature ≠ c.sig →
          exec i s = .next (goesOn ((s.e.noted s.rd via p id).abortReq p.coll.group 0x30 p.coll.sender s.e.link.ident
            (leBytes 8 c.sig ++ leBytes 8 p.coll.signature)))

/-- OUTCOME, LOSS, ABORT_REQ, SHORT_DOWN, COLL_ABORT and COLL_END_LOCAL (R402, R408 to R412, R417): an outcome, a loss, a final short
result, an abort request at the deciding root before it has committed, and a local end each end this member's part, after they
have told the members that must know; any other member passes an abort request toward the root. That a short result with a word
that fails its check ends the member with the fault, that an abort request keeps the requester as its sender, and what is
remembered of an ended collective are the model's choices (log entries 140, 33 and 32). -/
def Obligations.CollectivesEnd : Prop :=
  ∀ (s : State) (c : Coll), s.Inv → s.e.lost = false → s.e.coll.colls = [c] → s.e.coll.progs = [] →
    s.e.coll.cache.any (fun g => g.num == c.group.num) = true → c.rcd.result + 32 ≤ 2 ^ 64 →
    let me := s.e.link.ident
    let none5 : Report := ⟨0, 0, 0, 0, 0⟩
    (∀ (via : Via) (p : Packet), s.e.runs = true →
      let h := p.coll
      let e0 := s.e.noted s.rd via p id
      let d := p.data.drop 32
      (s.e.hears via 10 p c → ∃ t : State, exec (.outcome via) s = .next t ∧
        s.collEnded t c (if h.late then statusMax h.status 0x32 else h.status) h.named h.late (Report.ofBytes h.sender d) [] ∧
        t.e.link = (e0.collDownAll c (fun x => { x with kind := 10, status := h.status, named := h.named, late := h.late })
          (Report.ofBytes h.sender d).bytes).link) ∧
      (s.e.hears via 11 p c → ∃ t : State, exec (.loss via) s = .next t ∧ s.collEnded t c 0x33 h.named false none5 [] ∧
        t.e.link = (((c.rcd.neighbours c.group me).filter (· != h.named)).foldl (fun e n =>
          e.collTell n { c.header me 11 (c.rcd.meets c.group me n).1 (c.rcd.meets c.group me n).2 with named := h.named } []) e0).link) ∧
      (s.e.hears via 5 p c → c.expo = false →
        (c.rcd.shortBad false d = 0 → ∃ t : State, exec (.shortDown via) s = .next t ∧
          s.collEnded t c 0 0 false none5 (if c.rcd.op = 2 then c.rcd.shortWrites d else []) ∧
          t.e.link = (e0.collDownAll c (fun x => { x with kind := 5, elems := c.rcd.count }) d).link) ∧
        (c.rcd.shortBad false d ≠ 0 → ∃ t : State, exec (.shortDown via) s = .next t ∧ s.collEnded t c 0x22 me false none5 [] ∧
          t.e.link = (e0.collDownAll c (fun x => { x with kind := 5, elems := c.rcd.count }) d).link)) ∧
      (s.e.hears via 5 p c → c.expo = true →
        exec (.shortDown via) s = .next (s.commit (((e0.collDownAll c (fun x => { x with kind := 5, elems := 1 }) d).updColl c.group.num
          fun x => { x with expo := false, anchor := x.rcd.expAnchor (sext 64 (leNat (d.take 8))) }).collSettle s.rd))) ∧
      (s.e.hears via 9 p c → (c.rcd.bulk = true ∨ c.shortSent = false) → c.group.parent me 0 = none → c.committed = false →
        ∃ t : State, exec (.abortReq via) s = .next t ∧ s.collEnded t c h.status (c.abortNamed h.status h.named h.sender d) false none5 [] ∧
          t.e.link = (e0.collDownAll c (fun x => { x with
            kind := 10, status := h.status, named := c.abortNamed h.status h.named h.sender d, late := false }) none5.bytes).link) ∧
      (∀ l u : Nat, s.e.hears via 9 p c → (c.rcd.bulk = true ∨ c.shortSent = false) → c.group.parent me 0 = some (l, u) → c.aborted = false →
        let e1 := (e0.collTell u { c.header me 9 l 0 with status := h.status, named := h.named, sender := h.sender } d).updColl c.group.num
          fun x => { x with aborted := true }
        e1.collSettle s.rd = e1 → exec (.abortReq via) s = .next { s with e := e1 })) ∧
    ∀ (p : Path) (n : BitVec 16), s.e.opens p →
      (n.toNat ≠ c.num → (∃ t, exec (.collAbort p n) s = .next t ∧ s.turnedAway t p 5) ∧
        ∃ t, exec (.collEndLocal p n) s = .next t ∧ s.turnedAway t p 5) ∧
      (n.toNat = c.num → (c.rcd.bulk = true ∨ c.shortSent = false) → c.group.parent me 0 = none → c.committed = false →
        ∃ t : State, exec (.collAbort p n) s = .next t ∧ t.e.result p = 0 ∧ s.collEnded t c 0x31 0 false none5 [] ∧
          t.e.link = (s.e.collDownAll c (fun x => { x with kind := 10, status := 0x31 }) none5.bytes).link) ∧
      (∀ l u : Nat, n.toNat = c.num → (c.rcd.bulk = true ∨ c.shortSent = false) → c.group.parent me 0 = some (l, u) → c.aborted = false →
        let e1 := (s.e.collTell u { c.header me 9 l 0 with status := 0x31 } []).updColl c.group.num fun x => { x with aborted := true }
        e1.collSettle s.rd = e1 → ∃ t : State, exec (.collAbort p n) s = .next t ∧ s.wrote t p e1) ∧
      (n.toNat = c.num → ∃ t : State, exec (.collEndLocal p n) s = .next t ∧ t.e.result p = 0 ∧ s.collEnded t c 0x31 0 false none5 [] ∧
        t.e.link = s.e.link)

/-- COLL_START, HEARTBEAT, ECHO, HEARTBEAT_TIMER and COLL_STALL_WATCHDOG (R383, R385, R414, R416): the oldest waiting launch is
refused, waits for a context, its group or staging, or takes a context and says JOIN to its neighbours; a heartbeat is answered
with an echo, an echo clears its sender's count, and the timer sends a heartbeat to every watched peer but loses one that left
three unanswered; a collective without progress for STALL_LIMIT cues is counted and logged. That the checks of R385 are judged
once more at the start, and that heartbeats leave the count of R414 as it is, are the model's choices (log entries 83 and 82). -/
def Obligations.CollectivesStartAndStall : Prop :=
  ∀ s : State, s.settled → s.e.runs = true →
    (s.e.coll.waiting = [] → exec (.collStart []) s = .next s) ∧
    (∀ (num : Nat) (r : CollRec) (rest : List (Nat × CollRec)), s.e.coll.waiting = (num, r) :: rest →
      let busy := fun (b : Bool) => b = true ↔ 16 ≤ s.e.coll.colls.length ∨ ∃ c ∈ s.e.coll.colls, c.group.num = r.group
      let e1 : Eng := { s.e with coll := { s.e.coll with waiting := rest } }
      (∀ (n : Nat) (a : Bool), s.e.refusal s.rd r = some (n, a) →
        ∃ t : State, exec (.collStart []) s = .next t ∧ t.e.coll.lastRefusal = BitVec.ofNat 32 (num * 65536 + n) ∧ t.e.coll.waiting = rest ∧
          t.e.remote.trigs = (s.e.trigFail r.done 0x31 0 0).remote.trigs ∧ t.e.count 33 = s.e.count 33 + 1 ∧
          (a = false → t.e.link = s.e.link ∧ t.e.coll.colls = s.e.coll.colls)) ∧
      (∀ g : Group, s.e.refusal s.rd r = none → s.e.group? s.rd r.group = some g →
        (busy true → exec (.collStart []) s = .next s) ∧
        (busy false → r.bulk = true → s.e.stage.stagingAvailable < s.e.stagingUsed + r.staging g.hier s.e.coll.chunkDefault.toNat →
          exec (.collStart []) s = .next s) ∧
        (∀ e2 : Eng, s.e.portsFree → busy false → (r.bulk = true → e1.allot (.coll r.group) (r.staging g.hier s.e.coll.chunkDefault.toNat) = some e2) →
          (r.bulk = false → e2 = e1) →
          let c := Coll.launch s.rd num r g s.e.coll.chunkDefault.toNat s.e.cue
          r.shortBad c.expo (c.own.getD []) = 0 →
          let e3 := (e2.cacheGroup s.rd r.group).rewroteStaging (.coll r.group)
          let e4 : Eng := { e3 with coll := { e3.coll with
            colls := e3.coll.colls ++ [c], ended := e3.coll.ended.filter fun x => !(x.group == r.group && x.seq == r.seq) } }
          let e5 := (r.neighbours g s.e.link.ident).foldl (fun e n =>
            e.collTell n (c.header s.e.link.ident 0 (r.meets g s.e.link.ident n).1 (r.meets g s.e.link.ident n).2) []) e4
          let e6 := (c.srcRanges s.e.link.ident).foldl (fun e x => e.noteTook [x]) e5
          exec (.collStart []) s = .next (s.commit (e6.collSettle s.rd))))) ∧
    (∀ (via : Via) (k : Nat) (i : Instr), (k = 12 ∧ i = .heartbeat via) ∨ (k = 13 ∧ i = .echo via) →
      s.e.inFirst via (fun q => q.hdr.cls == 2 && !q.bad.contains 0 && q.coll.kind == k) = none → exec i s = .next s) ∧
    (∀ (via : Via) (p : Packet), s.e.inFirst via (fun q => q.hdr.cls == 2 && !q.bad.contains 0 && q.coll.kind == 12) = some p →
      (s.e.route p.coll.sender = none → exec (.heartbeat via) s = .next { s with e := s.e.inDrop via p }) ∧
      (∀ v : Via, s.e.route p.coll.sender = some v →
        ∃ q : Packet, q.hdr.dest = p.coll.sender ∧ q.hdr.vc = 2 ∧ q.hdr.cls = 2 ∧ q.bad = [] ∧ q.coll.kind = 13 ∧
          q.coll.sender = s.e.link.ident % 65536 ∧ exec (.heartbeat via) s = .next { s with e := (s.e.inDrop via p).sendPacket v q })) ∧
    (∀ (via : Via) (p : Packet), s.e.inFirst via (fun q => q.hdr.cls == 2 && !q.bad.contains 0 && q.coll.kind == 13) = some p →
      exec (.echo via) s = .next { s with e := { s.e.inDrop via p with
        coll := { s.e.coll with peers := mapIf (fun x => x.1 == p.coll.sender) (fun x => (x.1, 0)) s.e.coll.peers } } }) ∧
    (let unanswered := fun (n : Nat) => ((s.e.coll.peers.find? fun x => x.1 == n).map (·.2)).getD 0
      let lost := s.e.watched.filter fun n => decide (3 ≤ unanswered n)
      let live := s.e.watched.filter fun n => decide (unanswered n < 3)
      ∃ t : State, exec .heartbeatTimer s = .next t ∧ t.e.coll.peers = live.map (fun n => (n, unanswered n + 1)) ∧
        t.e.count 36 = s.e.count 36 + lost.length ∧
        (∀ o ∈ t.e.remote.ops, o.args.target ∉ lost) ∧
        (∀ c ∈ t.e.coll.colls, ∀ n ∈ lost, n ∉ c.rcd.neighbours c.group s.e.link.ident) ∧
        (lost = [] → t.mem = s.mem ∧ t.e.remote = s.e.remote ∧ t.e.coll.colls = s.e.coll.colls ∧
          t.e.link = (live.foldl (fun e n => e.collTell n (beatHdr s.e.link.ident 12) []) s.e).link)) ∧
    ∀ num : Nat, (s.e.coll.colls.find? (fun c => c.num == num) = none → exec (.collStallWatchdog num) s = .next s) ∧
      ∀ c : Coll, s.e.coll.colls.find? (fun c => c.num == num) = some c →
        (s.e.coll.stallLimit = 0 ∨ s.e.cue < c.since + s.e.coll.stallLimit.toNat → exec (.collStallWatchdog num) s = .next s) ∧
        (s.e.coll.stallLimit ≠ 0 → c.since + s.e.coll.stallLimit.toNat ≤ s.e.cue →
          ∃ t : State, exec (.collStallWatchdog num) s = .next t ∧ t.mem = s.mem ∧ t.e.count 34 = s.e.count 34 + 1 ∧
            t.e.health.log.head? = some (faultEntry 0x48 6 0 0 none false s.e.cue) ∧ t.e.health.logCount = s.e.health.logCount + 1 ∧
            t.e.coll = (s.e.updColl c.group.num fun x => { x with since := s.e.cue }).coll ∧ t.e.link = s.e.link)

/-! ### Exact sums and codes -/

/-- R44 to R46: a product adds its integer to the word modulo 2^W and ORs its tag and its high miss into it, with no check of the
range; two words of one width combine by adding their integers modulo 2^W and by ORing their tags and their high misses, with the
residue that R46 predicts, which is the result's unless a word of them is in error; so the word of a list of products does not
depend on their order or grouping, nor does a combination of words without residue faults. -/
def Obligations.SumsDoNotDependOnOrder : Prop :=
  ∀ W : Nat, W = 128 ∨ W = 256 →
    (∀ x y : ZWord, (zAdd W x y).toInt W = sext W ((x.toInt W + y.toInt W) % 2 ^ W).toNat ∧
      (zAdd W x y).tag = x.tag ||| y.tag ∧ (zAdd W x y).hm = (x.hm || y.hm) ∧ zAdd W x y = zAdd W y x) ∧
    (∀ x y : ZWord, x.val.toNat < 2 ^ W → y.val.toNat < 2 ^ W →
      let c := (x.val.toNat + y.val.toNat) / 2 ^ W
      let ρ := if W = 128 then 4 else 16
      ((zAdd W x y).res.toNat : Int) = ((x.res.toNat : Int) + y.res.toNat - c * ρ) % 63 ∧
      ((zAdd W x y).residueFault = true ↔ (zAdd W x y).res.toNat ≠ (zAdd W x y).val.toNat % 63)) ∧
    (∀ x y z : ZWord, x.val.toNat < 2 ^ W → y.val.toNat < 2 ^ W → z.val.toNat < 2 ^ W →
      x.residueFault = false → y.residueFault = false →
      (zAdd W x y).residueFault = false ∧
      (z.residueFault = false → zAdd W (zAdd W x y) z = zAdd W x (zAdd W y z)) ∧
      (z.residueFault = true → z.res ≠ 63 → (zAdd W x z).residueFault = true)) ∧
    ∀ (a : Int) (l m : List Prd),
      (∀ p : Prd, let q := placeProduct W a p
        (sumProducts W a (l ++ [p])).1.toInt W = sext W (((sumProducts W a l).1.toInt W + q.p) % 2 ^ W).toNat ∧
        (sumProducts W a (l ++ [p])).1.tag = (sumProducts W a l).1.tag ||| q.tag ∧
        (sumProducts W a (l ++ [p])).1.hm = ((sumProducts W a l).1.hm || q.high)) ∧
      (sumProducts W a (l ++ m)).1 = zAdd W (sumProducts W a l).1 (sumProducts W a m).1 ∧
      (sumProducts W a (l ++ m)).2 = (sumProducts W a l).2 + (sumProducts W a m).2 ∧
      (sumProducts W a l).1.residueFault = false ∧
      (l.Perm m → sumProducts W a l = sumProducts W a m)

/-- R120, R121, R420, R421: a sector that is stored reads back as it was written; a change of one byte of its 36 coded bytes is
corrected, and a change of two or three is uncorrectable and never miscorrected; the side field's code corrects one bit of the 39
and detects two (the places of its check bits are the model's, log entry 5). -/
def Obligations.StoredSectorsAreProtected : Prop :=
  (∀ d : List Byte, d.length = 32 →
    rsDecode (d ++ rsCheck d) = .clean d ∧
    (∀ (i : Nat) (x : Byte), i < 36 → x ≠ 0 → rsDecode (lset (d ++ rsCheck d) i (· ^^^ x)) = .corrected d) ∧
    (∀ (i j : Nat) (x y : Byte), i < j → j < 36 → x ≠ 0 → y ≠ 0 →
      rsDecode (lset (lset (d ++ rsCheck d) i (· ^^^ x)) j (· ^^^ y)) = .bad ∧
      ∀ (k : Nat) (z : Byte), j < k → k < 36 → z ≠ 0 →
        rsDecode (lset (lset (lset (d ++ rsCheck d) i (· ^^^ x)) j (· ^^^ y)) k (· ^^^ z)) = .bad)) ∧
  (∀ v : Nat, v < 2 ^ 32 →
    sideDecode v (sideCheck v) = some (v, false) ∧
    (∀ i < 32, sideDecode (v ^^^ 2 ^ i) (sideCheck v) = some (v, true)) ∧
    (∀ k < 7, sideDecode v (sideCheck v ^^^ 2 ^ k) = some (v, true)) ∧
    (∀ i < 32, ∀ k < 7, sideDecode (v ^^^ 2 ^ i) (sideCheck v ^^^ 2 ^ k) = none) ∧
    (∀ i < 32, ∀ j < i, sideDecode (v ^^^ 2 ^ i ^^^ 2 ^ j) (sideCheck v) = none) ∧
    (∀ i < 7, ∀ j < i, sideDecode v (sideCheck v ^^^ 2 ^ i ^^^ 2 ^ j) = none)) ∧
  ∀ (st : Stage) (k : Nat) (d : List Byte) (side : Nat), d.length = 32 → side < 2 ^ 32 →
    decodeSector ((st.putSector k d side).sector k) = some ⟨d, side, false, false⟩ ∧
    ∀ j, j ≠ k → (st.putSector k d side).sector j = st.sector j
end

