-- ==== Sys2Proof/Laws/Memory.lean ====
section
/-!
SUPPORT. Memory: a write keeps the canonical form, a read after a write gives the value written, and every other byte reads as
before.
-/

namespace Sys2Proof.Machine

theorem wfFrom_mono {lo lo' : Nat} {m : Mem} (h : Memory.wfFrom lo' m = true) (hl : lo ≤ lo') : Memory.wfFrom lo m = true := by
  cases m with
  | nil => rfl
  | cons p r =>
    simp only [Memory.wfFrom, Bool.and_eq_true, decide_eq_true_eq] at h ⊢
    exact ⟨⟨by omega, h.1.2⟩, h.2⟩

theorem wfFrom_nput {m : Mem} {a : Nat} {b : Byte} (hb : b ≠ memUnwritten) :
    ∀ {lo : Nat}, Memory.wfFrom lo m = true → lo ≤ a → Memory.wfFrom lo (nput m a b) = true := by
  induction m with
  | nil => intro lo _ hl; simp [nput, Memory.wfFrom, hb, hl]
  | cons p r ih =>
    obtain ⟨k, v⟩ := p
    intro lo h hl
    simp only [Memory.wfFrom, Bool.and_eq_true, decide_eq_true_eq] at h
    unfold nput
    split
    · next hk => subst hk; simp [Memory.wfFrom, hb, hl, h.2]
    · split
      · next hk hlt => simp [Memory.wfFrom, hb, hl, h.1.2, h.2]; omega
      · next hk hge =>
        have := ih (lo := k + 1) h.2 (by omega)
        simp [Memory.wfFrom, h.1.1, h.1.2, this]

theorem wfFrom_ndel {m : Mem} {a : Nat} :
    ∀ {lo : Nat}, Memory.wfFrom lo m = true → Memory.wfFrom lo (ndel m a) = true := by
  induction m with
  | nil => intro lo _; rfl
  | cons p r ih =>
    obtain ⟨k, v⟩ := p
    intro lo h
    simp only [Memory.wfFrom, Bool.and_eq_true, decide_eq_true_eq] at h
    unfold ndel
    split
    · exact wfFrom_mono (ih h.2) (by omega)
    · simp [Memory.wfFrom, h.1.1, h.1.2, ih h.2]

/-- A write of one byte keeps the canonical form. -/
theorem Memory.put_wf {m : Mem} (h : Memory.wf m = true) (a : Nat) (b : Byte) : Memory.wf (Memory.put m a b) = true := by
  unfold Memory.put
  split
  · exact wfFrom_ndel h
  · next hb => exact wfFrom_nput hb h (Nat.zero_le a)

/-- The writes of a step keep the canonical form. -/
theorem Memory.apply_wf (ws : List (Nat × Byte)) : ∀ {m : Mem}, Memory.wf m = true → Memory.wf (Memory.apply m ws) = true := by
  induction ws with
  | nil => exact id
  | cons w r ih => exact fun h => ih (Memory.put_wf h w.1 w.2)

theorem mem_nput {m : Mem} {a : Nat} {b : Byte} {c : Nat × Byte} (h : c ∈ nput m a b) : c = (a, b) ∨ c ∈ m := by
  induction m with
  | nil => simpa [nput] using h
  | cons p r ih =>
    unfold nput at h
    split at h
    · rcases List.mem_cons.mp h with h | h <;> simp [h]
    · split at h
      · rcases List.mem_cons.mp h with h | h
        · exact .inl h
        · exact .inr h
      · rcases List.mem_cons.mp h with h | h
        · simp [h]
        · rcases ih h with h | h <;> simp [h]

theorem mem_ndel {m : Mem} {a : Nat} {c : Nat × Byte} (h : c ∈ ndel m a) : c ∈ m := by
  induction m with
  | nil => exact h
  | cons p r ih =>
    unfold ndel at h
    split at h
    · exact List.mem_cons_of_mem _ (ih h)
    · rcases List.mem_cons.mp h with h | h
      · simp [h]
      · exact List.mem_cons_of_mem _ (ih h)

/-- A byte listed after the writes of a step was listed before or is one of the writes. -/
theorem Memory.mem_apply (ws : List (Nat × Byte)) :
    ∀ {m : Mem} {c : Nat × Byte}, c ∈ Memory.apply m ws → c ∈ m ∨ c ∈ ws := by
  induction ws with
  | nil => exact fun h => .inl h
  | cons w r ih =>
    intro m c h
    rcases ih h with h | h
    · replace h : c ∈ Memory.put m w.1 w.2 := h
      unfold Memory.put at h
      split at h
      · exact .inl (mem_ndel h)
      · rcases mem_nput h with h | h
        · exact .inr (by simp [h])
        · exact .inl h
    · exact .inr (List.mem_cons_of_mem _ h)

/-- Addresses after the wrap of R474 have 64 bits. -/
theorem wrapWrites_lt {ws : List (Nat × Byte)} {c : Nat × Byte} (h : c ∈ wrapWrites ws) : c.1 < 2 ^ 64 := by
  simp only [wrapWrites, List.mem_map] at h
  obtain ⟨w, -, rfl⟩ := h
  exact Nat.mod_lt _ (by decide)

/-- A map after a write of one key: the value there, and every other key as before. -/
theorem nget?_nput {α : Type} (m : NMap α) (a x : Nat) (b : α) :
    nget? (nput m a b) x = if x = a then some b else nget? m x := by
  induction m with
  | nil => simp only [nput, nget?]; grind
  | cons p r ih => grind [nput, nget?]

/-- A map without one key: nothing there, and every other key as before. -/
theorem nget?_ndel {α : Type} (m : NMap α) (a x : Nat) : nget? (ndel m a) x = if x = a then none else nget? m x := by
  induction m with
  | nil => simp [ndel, nget?]
  | cons p r ih => grind [ndel, nget?]

/-- Reading after a write of one byte: the value written at its address, and every other byte as before. -/
theorem Memory.get_put (m : Mem) (a x : Nat) (b : Byte) :
    Memory.get (Memory.put m a b) x = if x = a then b else Memory.get m x := by
  unfold Memory.put Memory.get nget
  split
  · next hb => rw [nget?_ndel]; split <;> simp [hb]
  · rw [nget?_nput]; split <;> simp

/-- A byte that no write of a step names reads as before. -/
theorem Memory.get_apply_other (ws : List (Nat × Byte)) :
    ∀ {m : Mem} {x : Nat}, (∀ w ∈ ws, w.1 ≠ x) → Memory.get (Memory.apply m ws) x = Memory.get m x := by
  induction ws with
  | nil => intros; rfl
  | cons w r ih =>
    intro m x hx
    have hw : w.1 ≠ x := hx w List.mem_cons_self
    have := ih (m := Memory.put m w.1 w.2) (x := x) fun y hy => hx y (List.mem_cons_of_mem _ hy)
    rw [show Memory.apply m (w :: r) = Memory.apply (Memory.put m w.1 w.2) r from rfl, this, Memory.get_put, if_neg (Ne.symm hw)]

end Sys2Proof.Machine
end

