-- ==== Sys2Proof/Laws/State.lean ====
section
/-!
SUPPORT. What each named operation over the engine leaves as it was: one lemma per operation, a conjunction with one equation per
field, for simp.
-/

namespace Sys2Proof.Machine

/-- `Eng.updPod` changes no field but `pods`. -/
@[simp] theorem Eng.updPod_keeps (n : Nat) (f : Pod → Pod) (e : Eng) :
    (e.updPod n f).cue = e.cue ∧ (e.updPod n f).ready = e.ready ∧ (e.updPod n f).stage = e.stage ∧ (e.updPod n f).place = e.place ∧
    (e.updPod n f).drain = e.drain ∧ (e.updPod n f).chan = e.chan ∧ (e.updPod n f).mports = e.mports ∧ (e.updPod n f).health = e.health ∧
    (e.updPod n f).link = e.link ∧ (e.updPod n f).remote = e.remote ∧ (e.updPod n f).coll = e.coll ∧ (e.updPod n f).dict = e.dict ∧
    (e.updPod n f).ring = e.ring ∧ (e.updPod n f).power = e.power ∧ (e.updPod n f).segMax = e.segMax ∧ (e.updPod n f).bias = e.bias ∧
    (e.updPod n f).anchorDefault = e.anchorDefault ∧ (e.updPod n f).chkgen = e.chkgen ∧ (e.updPod n f).throttle = e.throttle ∧ (e.updPod n f).throttleNext = e.throttleNext ∧
    (e.updPod n f).throttleSeen = e.throttleSeen ∧ (e.updPod n f).droop = e.droop ∧ (e.updPod n f).cnt = e.cnt ∧ (e.updPod n f).daily = e.daily ∧
    (e.updPod n f).setCnt = e.setCnt ∧ (e.updPod n f).setDaily = e.setDaily ∧ (e.updPod n f).products = e.products ∧ (e.updPod n f).wr = e.wr ∧
    (e.updPod n f).took = e.took ∧ (e.updPod n f).free = e.free ∧ (e.updPod n f).lost = e.lost := by
  simp [Eng.updPod]

/-- `Eng.updCtx` changes no field but `place`. -/
@[simp] theorem Eng.updCtx_keeps (i : Nat) (f : TileCtx → TileCtx) (e : Eng) :
    (e.updCtx i f).cue = e.cue ∧ (e.updCtx i f).ready = e.ready ∧ (e.updCtx i f).pods = e.pods ∧ (e.updCtx i f).stage = e.stage ∧
    (e.updCtx i f).drain = e.drain ∧ (e.updCtx i f).chan = e.chan ∧ (e.updCtx i f).mports = e.mports ∧ (e.updCtx i f).health = e.health ∧
    (e.updCtx i f).link = e.link ∧ (e.updCtx i f).remote = e.remote ∧ (e.updCtx i f).coll = e.coll ∧ (e.updCtx i f).dict = e.dict ∧
    (e.updCtx i f).ring = e.ring ∧ (e.updCtx i f).power = e.power ∧ (e.updCtx i f).segMax = e.segMax ∧ (e.updCtx i f).bias = e.bias ∧
    (e.updCtx i f).anchorDefault = e.anchorDefault ∧ (e.updCtx i f).chkgen = e.chkgen ∧ (e.updCtx i f).throttle = e.throttle ∧ (e.updCtx i f).throttleNext = e.throttleNext ∧
    (e.updCtx i f).throttleSeen = e.throttleSeen ∧ (e.updCtx i f).droop = e.droop ∧ (e.updCtx i f).cnt = e.cnt ∧ (e.updCtx i f).daily = e.daily ∧
    (e.updCtx i f).setCnt = e.setCnt ∧ (e.updCtx i f).setDaily = e.setDaily ∧ (e.updCtx i f).products = e.products ∧ (e.updCtx i f).wr = e.wr ∧
    (e.updCtx i f).took = e.took ∧ (e.updCtx i f).free = e.free ∧ (e.updCtx i f).lost = e.lost := by
  simp [Eng.updCtx]

/-- `Eng.updAtt` changes no field but `place`. -/
@[simp] theorem Eng.updAtt_keeps (i : Nat) (f : Attempt → Attempt) (e : Eng) :
    (e.updAtt i f).cue = e.cue ∧ (e.updAtt i f).ready = e.ready ∧ (e.updAtt i f).pods = e.pods ∧ (e.updAtt i f).stage = e.stage ∧
    (e.updAtt i f).drain = e.drain ∧ (e.updAtt i f).chan = e.chan ∧ (e.updAtt i f).mports = e.mports ∧ (e.updAtt i f).health = e.health ∧
    (e.updAtt i f).link = e.link ∧ (e.updAtt i f).remote = e.remote ∧ (e.updAtt i f).coll = e.coll ∧ (e.updAtt i f).dict = e.dict ∧
    (e.updAtt i f).ring = e.ring ∧ (e.updAtt i f).power = e.power ∧ (e.updAtt i f).segMax = e.segMax ∧ (e.updAtt i f).bias = e.bias ∧
    (e.updAtt i f).anchorDefault = e.anchorDefault ∧ (e.updAtt i f).chkgen = e.chkgen ∧ (e.updAtt i f).throttle = e.throttle ∧ (e.updAtt i f).throttleNext = e.throttleNext ∧
    (e.updAtt i f).throttleSeen = e.throttleSeen ∧ (e.updAtt i f).droop = e.droop ∧ (e.updAtt i f).cnt = e.cnt ∧ (e.updAtt i f).daily = e.daily ∧
    (e.updAtt i f).setCnt = e.setCnt ∧ (e.updAtt i f).setDaily = e.setDaily ∧ (e.updAtt i f).products = e.products ∧ (e.updAtt i f).wr = e.wr ∧
    (e.updAtt i f).took = e.took ∧ (e.updAtt i f).free = e.free ∧ (e.updAtt i f).lost = e.lost := by
  simp [Eng.updAtt]

/-- `Eng.dropAtt` changes no field but `place`. -/
@[simp] theorem Eng.dropAtt_keeps (i : Nat) (e : Eng) :
    (e.dropAtt i).cue = e.cue ∧ (e.dropAtt i).ready = e.ready ∧ (e.dropAtt i).pods = e.pods ∧ (e.dropAtt i).stage = e.stage ∧
    (e.dropAtt i).drain = e.drain ∧ (e.dropAtt i).chan = e.chan ∧ (e.dropAtt i).mports = e.mports ∧ (e.dropAtt i).health = e.health ∧
    (e.dropAtt i).link = e.link ∧ (e.dropAtt i).remote = e.remote ∧ (e.dropAtt i).coll = e.coll ∧ (e.dropAtt i).dict = e.dict ∧
    (e.dropAtt i).ring = e.ring ∧ (e.dropAtt i).power = e.power ∧ (e.dropAtt i).segMax = e.segMax ∧ (e.dropAtt i).bias = e.bias ∧
    (e.dropAtt i).anchorDefault = e.anchorDefault ∧ (e.dropAtt i).chkgen = e.chkgen ∧ (e.dropAtt i).throttle = e.throttle ∧ (e.dropAtt i).throttleNext = e.throttleNext ∧
    (e.dropAtt i).throttleSeen = e.throttleSeen ∧ (e.dropAtt i).droop = e.droop ∧ (e.dropAtt i).cnt = e.cnt ∧ (e.dropAtt i).daily = e.daily ∧
    (e.dropAtt i).setCnt = e.setCnt ∧ (e.dropAtt i).setDaily = e.setDaily ∧ (e.dropAtt i).products = e.products ∧ (e.dropAtt i).wr = e.wr ∧
    (e.dropAtt i).took = e.took ∧ (e.dropAtt i).free = e.free ∧ (e.dropAtt i).lost = e.lost := by
  simp [Eng.dropAtt]

/-- `Eng.updCmd` changes no field but `chan`. -/
@[simp] theorem Eng.updCmd_keeps (ch seq : Nat) (f : Cmd → Cmd) (e : Eng) :
    (e.updCmd ch seq f).cue = e.cue ∧ (e.updCmd ch seq f).ready = e.ready ∧ (e.updCmd ch seq f).pods = e.pods ∧ (e.updCmd ch seq f).stage = e.stage ∧
    (e.updCmd ch seq f).place = e.place ∧ (e.updCmd ch seq f).drain = e.drain ∧ (e.updCmd ch seq f).mports = e.mports ∧ (e.updCmd ch seq f).health = e.health ∧
    (e.updCmd ch seq f).link = e.link ∧ (e.updCmd ch seq f).remote = e.remote ∧ (e.updCmd ch seq f).coll = e.coll ∧ (e.updCmd ch seq f).dict = e.dict ∧
    (e.updCmd ch seq f).ring = e.ring ∧ (e.updCmd ch seq f).power = e.power ∧ (e.updCmd ch seq f).segMax = e.segMax ∧ (e.updCmd ch seq f).bias = e.bias ∧
    (e.updCmd ch seq f).anchorDefault = e.anchorDefault ∧ (e.updCmd ch seq f).chkgen = e.chkgen ∧ (e.updCmd ch seq f).throttle = e.throttle ∧ (e.updCmd ch seq f).throttleNext = e.throttleNext ∧
    (e.updCmd ch seq f).throttleSeen = e.throttleSeen ∧ (e.updCmd ch seq f).droop = e.droop ∧ (e.updCmd ch seq f).cnt = e.cnt ∧ (e.updCmd ch seq f).daily = e.daily ∧
    (e.updCmd ch seq f).setCnt = e.setCnt ∧ (e.updCmd ch seq f).setDaily = e.setDaily ∧ (e.updCmd ch seq f).products = e.products ∧ (e.updCmd ch seq f).wr = e.wr ∧
    (e.updCmd ch seq f).took = e.took ∧ (e.updCmd ch seq f).free = e.free ∧ (e.updCmd ch seq f).lost = e.lost := by
  simp [Eng.updCmd]

/-- `Eng.updSlate` changes no field but `place`. -/
@[simp] theorem Eng.updSlate_keeps (ch seq : Nat) (f : Slate → Slate) (e : Eng) :
    (e.updSlate ch seq f).cue = e.cue ∧ (e.updSlate ch seq f).ready = e.ready ∧ (e.updSlate ch seq f).pods = e.pods ∧ (e.updSlate ch seq f).stage = e.stage ∧
    (e.updSlate ch seq f).drain = e.drain ∧ (e.updSlate ch seq f).chan = e.chan ∧ (e.updSlate ch seq f).mports = e.mports ∧ (e.updSlate ch seq f).health = e.health ∧
    (e.updSlate ch seq f).link = e.link ∧ (e.updSlate ch seq f).remote = e.remote ∧ (e.updSlate ch seq f).coll = e.coll ∧ (e.updSlate ch seq f).dict = e.dict ∧
    (e.updSlate ch seq f).ring = e.ring ∧ (e.updSlate ch seq f).power = e.power ∧ (e.updSlate ch seq f).segMax = e.segMax ∧ (e.updSlate ch seq f).bias = e.bias ∧
    (e.updSlate ch seq f).anchorDefault = e.anchorDefault ∧ (e.updSlate ch seq f).chkgen = e.chkgen ∧ (e.updSlate ch seq f).throttle = e.throttle ∧ (e.updSlate ch seq f).throttleNext = e.throttleNext ∧
    (e.updSlate ch seq f).throttleSeen = e.throttleSeen ∧ (e.updSlate ch seq f).droop = e.droop ∧ (e.updSlate ch seq f).cnt = e.cnt ∧ (e.updSlate ch seq f).daily = e.daily ∧
    (e.updSlate ch seq f).setCnt = e.setCnt ∧ (e.updSlate ch seq f).setDaily = e.setDaily ∧ (e.updSlate ch seq f).products = e.products ∧ (e.updSlate ch seq f).wr = e.wr ∧
    (e.updSlate ch seq f).took = e.took ∧ (e.updSlate ch seq f).free = e.free ∧ (e.updSlate ch seq f).lost = e.lost := by
  simp [Eng.updSlate]

/-- `Eng.updGang` changes no field but `place`. -/
@[simp] theorem Eng.updGang_keeps (q : Nat) (f : Gang → Gang) (e : Eng) :
    (e.updGang q f).cue = e.cue ∧ (e.updGang q f).ready = e.ready ∧ (e.updGang q f).pods = e.pods ∧ (e.updGang q f).stage = e.stage ∧
    (e.updGang q f).drain = e.drain ∧ (e.updGang q f).chan = e.chan ∧ (e.updGang q f).mports = e.mports ∧ (e.updGang q f).health = e.health ∧
    (e.updGang q f).link = e.link ∧ (e.updGang q f).remote = e.remote ∧ (e.updGang q f).coll = e.coll ∧ (e.updGang q f).dict = e.dict ∧
    (e.updGang q f).ring = e.ring ∧ (e.updGang q f).power = e.power ∧ (e.updGang q f).segMax = e.segMax ∧ (e.updGang q f).bias = e.bias ∧
    (e.updGang q f).anchorDefault = e.anchorDefault ∧ (e.updGang q f).chkgen = e.chkgen ∧ (e.updGang q f).throttle = e.throttle ∧ (e.updGang q f).throttleNext = e.throttleNext ∧
    (e.updGang q f).throttleSeen = e.throttleSeen ∧ (e.updGang q f).droop = e.droop ∧ (e.updGang q f).cnt = e.cnt ∧ (e.updGang q f).daily = e.daily ∧
    (e.updGang q f).setCnt = e.setCnt ∧ (e.updGang q f).setDaily = e.setDaily ∧ (e.updGang q f).products = e.products ∧ (e.updGang q f).wr = e.wr ∧
    (e.updGang q f).took = e.took ∧ (e.updGang q f).free = e.free ∧ (e.updGang q f).lost = e.lost := by
  simp [Eng.updGang]

/-- `Eng.updBuf` changes no field but `place`. -/
@[simp] theorem Eng.updBuf_keeps (pos run : Nat) (t : Tensor) (l : Nat) (f : BufLine → BufLine) (e : Eng) :
    (e.updBuf pos run t l f).cue = e.cue ∧ (e.updBuf pos run t l f).ready = e.ready ∧ (e.updBuf pos run t l f).pods = e.pods ∧ (e.updBuf pos run t l f).stage = e.stage ∧
    (e.updBuf pos run t l f).drain = e.drain ∧ (e.updBuf pos run t l f).chan = e.chan ∧ (e.updBuf pos run t l f).mports = e.mports ∧ (e.updBuf pos run t l f).health = e.health ∧
    (e.updBuf pos run t l f).link = e.link ∧ (e.updBuf pos run t l f).remote = e.remote ∧ (e.updBuf pos run t l f).coll = e.coll ∧ (e.updBuf pos run t l f).dict = e.dict ∧
    (e.updBuf pos run t l f).ring = e.ring ∧ (e.updBuf pos run t l f).power = e.power ∧ (e.updBuf pos run t l f).segMax = e.segMax ∧ (e.updBuf pos run t l f).bias = e.bias ∧
    (e.updBuf pos run t l f).anchorDefault = e.anchorDefault ∧ (e.updBuf pos run t l f).chkgen = e.chkgen ∧ (e.updBuf pos run t l f).throttle = e.throttle ∧ (e.updBuf pos run t l f).throttleNext = e.throttleNext ∧
    (e.updBuf pos run t l f).throttleSeen = e.throttleSeen ∧ (e.updBuf pos run t l f).droop = e.droop ∧ (e.updBuf pos run t l f).cnt = e.cnt ∧ (e.updBuf pos run t l f).daily = e.daily ∧
    (e.updBuf pos run t l f).setCnt = e.setCnt ∧ (e.updBuf pos run t l f).setDaily = e.setDaily ∧ (e.updBuf pos run t l f).products = e.products ∧ (e.updBuf pos run t l f).wr = e.wr ∧
    (e.updBuf pos run t l f).took = e.took ∧ (e.updBuf pos run t l f).free = e.free ∧ (e.updBuf pos run t l f).lost = e.lost := by
  simp [Eng.updBuf]

/-- `Eng.updStage` changes no field but `stage`. -/
@[simp] theorem Eng.updStage_keeps (f : Stage → Stage) (e : Eng) :
    (e.updStage f).cue = e.cue ∧ (e.updStage f).ready = e.ready ∧ (e.updStage f).pods = e.pods ∧ (e.updStage f).place = e.place ∧
    (e.updStage f).drain = e.drain ∧ (e.updStage f).chan = e.chan ∧ (e.updStage f).mports = e.mports ∧ (e.updStage f).health = e.health ∧
    (e.updStage f).link = e.link ∧ (e.updStage f).remote = e.remote ∧ (e.updStage f).coll = e.coll ∧ (e.updStage f).dict = e.dict ∧
    (e.updStage f).ring = e.ring ∧ (e.updStage f).power = e.power ∧ (e.updStage f).segMax = e.segMax ∧ (e.updStage f).bias = e.bias ∧
    (e.updStage f).anchorDefault = e.anchorDefault ∧ (e.updStage f).chkgen = e.chkgen ∧ (e.updStage f).throttle = e.throttle ∧ (e.updStage f).throttleNext = e.throttleNext ∧
    (e.updStage f).throttleSeen = e.throttleSeen ∧ (e.updStage f).droop = e.droop ∧ (e.updStage f).cnt = e.cnt ∧ (e.updStage f).daily = e.daily ∧
    (e.updStage f).setCnt = e.setCnt ∧ (e.updStage f).setDaily = e.setDaily ∧ (e.updStage f).products = e.products ∧ (e.updStage f).wr = e.wr ∧
    (e.updStage f).took = e.took ∧ (e.updStage f).free = e.free ∧ (e.updStage f).lost = e.lost := by
  simp [Eng.updStage]

/-- `Eng.updBank` changes no field but `stage`. -/
@[simp] theorem Eng.updBank_keeps (slice bank : Nat) (f : Bank → Bank) (e : Eng) :
    (e.updBank slice bank f).cue = e.cue ∧ (e.updBank slice bank f).ready = e.ready ∧ (e.updBank slice bank f).pods = e.pods ∧ (e.updBank slice bank f).place = e.place ∧
    (e.updBank slice bank f).drain = e.drain ∧ (e.updBank slice bank f).chan = e.chan ∧ (e.updBank slice bank f).mports = e.mports ∧ (e.updBank slice bank f).health = e.health ∧
    (e.updBank slice bank f).link = e.link ∧ (e.updBank slice bank f).remote = e.remote ∧ (e.updBank slice bank f).coll = e.coll ∧ (e.updBank slice bank f).dict = e.dict ∧
    (e.updBank slice bank f).ring = e.ring ∧ (e.updBank slice bank f).power = e.power ∧ (e.updBank slice bank f).segMax = e.segMax ∧ (e.updBank slice bank f).bias = e.bias ∧
    (e.updBank slice bank f).anchorDefault = e.anchorDefault ∧ (e.updBank slice bank f).chkgen = e.chkgen ∧ (e.updBank slice bank f).throttle = e.throttle ∧ (e.updBank slice bank f).throttleNext = e.throttleNext ∧
    (e.updBank slice bank f).throttleSeen = e.throttleSeen ∧ (e.updBank slice bank f).droop = e.droop ∧ (e.updBank slice bank f).cnt = e.cnt ∧ (e.updBank slice bank f).daily = e.daily ∧
    (e.updBank slice bank f).setCnt = e.setCnt ∧ (e.updBank slice bank f).setDaily = e.setDaily ∧ (e.updBank slice bank f).products = e.products ∧ (e.updBank slice bank f).wr = e.wr ∧
    (e.updBank slice bank f).took = e.took ∧ (e.updBank slice bank f).free = e.free ∧ (e.updBank slice bank f).lost = e.lost := by
  simp [Eng.updBank, Eng.updStage]

/-- `Eng.sendLink` changes no field but `stage`. -/
@[simp] theorem Eng.sendLink_keeps (src : Stream) (l : List PartialW) (e : Eng) :
    (e.sendLink src l).cue = e.cue ∧ (e.sendLink src l).ready = e.ready ∧ (e.sendLink src l).pods = e.pods ∧ (e.sendLink src l).place = e.place ∧
    (e.sendLink src l).drain = e.drain ∧ (e.sendLink src l).chan = e.chan ∧ (e.sendLink src l).mports = e.mports ∧ (e.sendLink src l).health = e.health ∧
    (e.sendLink src l).link = e.link ∧ (e.sendLink src l).remote = e.remote ∧ (e.sendLink src l).coll = e.coll ∧ (e.sendLink src l).dict = e.dict ∧
    (e.sendLink src l).ring = e.ring ∧ (e.sendLink src l).power = e.power ∧ (e.sendLink src l).segMax = e.segMax ∧ (e.sendLink src l).bias = e.bias ∧
    (e.sendLink src l).anchorDefault = e.anchorDefault ∧ (e.sendLink src l).chkgen = e.chkgen ∧ (e.sendLink src l).throttle = e.throttle ∧ (e.sendLink src l).throttleNext = e.throttleNext ∧
    (e.sendLink src l).throttleSeen = e.throttleSeen ∧ (e.sendLink src l).droop = e.droop ∧ (e.sendLink src l).cnt = e.cnt ∧ (e.sendLink src l).daily = e.daily ∧
    (e.sendLink src l).setCnt = e.setCnt ∧ (e.sendLink src l).setDaily = e.setDaily ∧ (e.sendLink src l).products = e.products ∧ (e.sendLink src l).wr = e.wr ∧
    (e.sendLink src l).took = e.took ∧ (e.sendLink src l).free = e.free ∧ (e.sendLink src l).lost = e.lost := by
  simp [Eng.sendLink, Eng.updStage]

/-- `Eng.clearKeys` changes no field but `stage`. -/
@[simp] theorem Eng.clearKeys_keeps (ks : List Nat) (e : Eng) :
    (e.clearKeys ks).cue = e.cue ∧ (e.clearKeys ks).ready = e.ready ∧ (e.clearKeys ks).pods = e.pods ∧ (e.clearKeys ks).place = e.place ∧
    (e.clearKeys ks).drain = e.drain ∧ (e.clearKeys ks).chan = e.chan ∧ (e.clearKeys ks).mports = e.mports ∧ (e.clearKeys ks).health = e.health ∧
    (e.clearKeys ks).link = e.link ∧ (e.clearKeys ks).remote = e.remote ∧ (e.clearKeys ks).coll = e.coll ∧ (e.clearKeys ks).dict = e.dict ∧
    (e.clearKeys ks).ring = e.ring ∧ (e.clearKeys ks).power = e.power ∧ (e.clearKeys ks).segMax = e.segMax ∧ (e.clearKeys ks).bias = e.bias ∧
    (e.clearKeys ks).anchorDefault = e.anchorDefault ∧ (e.clearKeys ks).chkgen = e.chkgen ∧ (e.clearKeys ks).throttle = e.throttle ∧ (e.clearKeys ks).throttleNext = e.throttleNext ∧
    (e.clearKeys ks).throttleSeen = e.throttleSeen ∧ (e.clearKeys ks).droop = e.droop ∧ (e.clearKeys ks).cnt = e.cnt ∧ (e.clearKeys ks).daily = e.daily ∧
    (e.clearKeys ks).setCnt = e.setCnt ∧ (e.clearKeys ks).setDaily = e.setDaily ∧ (e.clearKeys ks).products = e.products ∧ (e.clearKeys ks).wr = e.wr ∧
    (e.clearKeys ks).took = e.took ∧ (e.clearKeys ks).free = e.free ∧ (e.clearKeys ks).lost = e.lost := by
  simp [Eng.clearKeys, Eng.updStage]

/-- `Eng.updCh` changes no field but `chan`. -/
@[simp] theorem Eng.updCh_keeps (c : Nat) (f : Chan → Chan) (e : Eng) :
    (e.updCh c f).cue = e.cue ∧ (e.updCh c f).ready = e.ready ∧ (e.updCh c f).pods = e.pods ∧ (e.updCh c f).stage = e.stage ∧
    (e.updCh c f).place = e.place ∧ (e.updCh c f).drain = e.drain ∧ (e.updCh c f).mports = e.mports ∧ (e.updCh c f).health = e.health ∧
    (e.updCh c f).link = e.link ∧ (e.updCh c f).remote = e.remote ∧ (e.updCh c f).coll = e.coll ∧ (e.updCh c f).dict = e.dict ∧
    (e.updCh c f).ring = e.ring ∧ (e.updCh c f).power = e.power ∧ (e.updCh c f).segMax = e.segMax ∧ (e.updCh c f).bias = e.bias ∧
    (e.updCh c f).anchorDefault = e.anchorDefault ∧ (e.updCh c f).chkgen = e.chkgen ∧ (e.updCh c f).throttle = e.throttle ∧ (e.updCh c f).throttleNext = e.throttleNext ∧
    (e.updCh c f).throttleSeen = e.throttleSeen ∧ (e.updCh c f).droop = e.droop ∧ (e.updCh c f).cnt = e.cnt ∧ (e.updCh c f).daily = e.daily ∧
    (e.updCh c f).setCnt = e.setCnt ∧ (e.updCh c f).setDaily = e.setDaily ∧ (e.updCh c f).products = e.products ∧ (e.updCh c f).wr = e.wr ∧
    (e.updCh c f).took = e.took ∧ (e.updCh c f).free = e.free ∧ (e.updCh c f).lost = e.lost := by
  simp [Eng.updCh]

/-- `Eng.tickStamp` changes no field but `chan`. -/
@[simp] theorem Eng.tickStamp_keeps (e : Eng) :
    (e.tickStamp).cue = e.cue ∧ (e.tickStamp).ready = e.ready ∧ (e.tickStamp).pods = e.pods ∧ (e.tickStamp).stage = e.stage ∧
    (e.tickStamp).place = e.place ∧ (e.tickStamp).drain = e.drain ∧ (e.tickStamp).mports = e.mports ∧ (e.tickStamp).health = e.health ∧
    (e.tickStamp).link = e.link ∧ (e.tickStamp).remote = e.remote ∧ (e.tickStamp).coll = e.coll ∧ (e.tickStamp).dict = e.dict ∧
    (e.tickStamp).ring = e.ring ∧ (e.tickStamp).power = e.power ∧ (e.tickStamp).segMax = e.segMax ∧ (e.tickStamp).bias = e.bias ∧
    (e.tickStamp).anchorDefault = e.anchorDefault ∧ (e.tickStamp).chkgen = e.chkgen ∧ (e.tickStamp).throttle = e.throttle ∧ (e.tickStamp).throttleNext = e.throttleNext ∧
    (e.tickStamp).throttleSeen = e.throttleSeen ∧ (e.tickStamp).droop = e.droop ∧ (e.tickStamp).cnt = e.cnt ∧ (e.tickStamp).daily = e.daily ∧
    (e.tickStamp).setCnt = e.setCnt ∧ (e.tickStamp).setDaily = e.setDaily ∧ (e.tickStamp).products = e.products ∧ (e.tickStamp).wr = e.wr ∧
    (e.tickStamp).took = e.took ∧ (e.tickStamp).free = e.free ∧ (e.tickStamp).lost = e.lost := by
  simp [Eng.tickStamp]

/-- `Eng.updHealth` changes no field but `health`. -/
@[simp] theorem Eng.updHealth_keeps (f : HealthSt → HealthSt) (e : Eng) :
    (e.updHealth f).cue = e.cue ∧ (e.updHealth f).ready = e.ready ∧ (e.updHealth f).pods = e.pods ∧ (e.updHealth f).stage = e.stage ∧
    (e.updHealth f).place = e.place ∧ (e.updHealth f).drain = e.drain ∧ (e.updHealth f).chan = e.chan ∧ (e.updHealth f).mports = e.mports ∧
    (e.updHealth f).link = e.link ∧ (e.updHealth f).remote = e.remote ∧ (e.updHealth f).coll = e.coll ∧ (e.updHealth f).dict = e.dict ∧
    (e.updHealth f).ring = e.ring ∧ (e.updHealth f).power = e.power ∧ (e.updHealth f).segMax = e.segMax ∧ (e.updHealth f).bias = e.bias ∧
    (e.updHealth f).anchorDefault = e.anchorDefault ∧ (e.updHealth f).chkgen = e.chkgen ∧ (e.updHealth f).throttle = e.throttle ∧ (e.updHealth f).throttleNext = e.throttleNext ∧
    (e.updHealth f).throttleSeen = e.throttleSeen ∧ (e.updHealth f).droop = e.droop ∧ (e.updHealth f).cnt = e.cnt ∧ (e.updHealth f).daily = e.daily ∧
    (e.updHealth f).setCnt = e.setCnt ∧ (e.updHealth f).setDaily = e.setDaily ∧ (e.updHealth f).products = e.products ∧ (e.updHealth f).wr = e.wr ∧
    (e.updHealth f).took = e.took ∧ (e.updHealth f).free = e.free ∧ (e.updHealth f).lost = e.lost := by
  simp [Eng.updHealth]

/-- `Eng.updPath` changes no field but `dict`. -/
@[simp] theorem Eng.updPath_keeps (p : Path) (f : PathBuf → PathBuf) (e : Eng) :
    (e.updPath p f).cue = e.cue ∧ (e.updPath p f).ready = e.ready ∧ (e.updPath p f).pods = e.pods ∧ (e.updPath p f).stage = e.stage ∧
    (e.updPath p f).place = e.place ∧ (e.updPath p f).drain = e.drain ∧ (e.updPath p f).chan = e.chan ∧ (e.updPath p f).mports = e.mports ∧
    (e.updPath p f).health = e.health ∧ (e.updPath p f).link = e.link ∧ (e.updPath p f).remote = e.remote ∧ (e.updPath p f).coll = e.coll ∧
    (e.updPath p f).ring = e.ring ∧ (e.updPath p f).power = e.power ∧ (e.updPath p f).segMax = e.segMax ∧ (e.updPath p f).bias = e.bias ∧
    (e.updPath p f).anchorDefault = e.anchorDefault ∧ (e.updPath p f).chkgen = e.chkgen ∧ (e.updPath p f).throttle = e.throttle ∧ (e.updPath p f).throttleNext = e.throttleNext ∧
    (e.updPath p f).throttleSeen = e.throttleSeen ∧ (e.updPath p f).droop = e.droop ∧ (e.updPath p f).cnt = e.cnt ∧ (e.updPath p f).daily = e.daily ∧
    (e.updPath p f).setCnt = e.setCnt ∧ (e.updPath p f).setDaily = e.setDaily ∧ (e.updPath p f).products = e.products ∧ (e.updPath p f).wr = e.wr ∧
    (e.updPath p f).took = e.took ∧ (e.updPath p f).free = e.free ∧ (e.updPath p f).lost = e.lost := by
  simp [Eng.updPath]

/-- `Eng.poke` changes no field but `wr`. -/
@[simp] theorem Eng.poke_keeps (ws : List (Nat × Byte)) (e : Eng) :
    (e.poke ws).cue = e.cue ∧ (e.poke ws).ready = e.ready ∧ (e.poke ws).pods = e.pods ∧ (e.poke ws).stage = e.stage ∧
    (e.poke ws).place = e.place ∧ (e.poke ws).drain = e.drain ∧ (e.poke ws).chan = e.chan ∧ (e.poke ws).mports = e.mports ∧
    (e.poke ws).health = e.health ∧ (e.poke ws).link = e.link ∧ (e.poke ws).remote = e.remote ∧ (e.poke ws).coll = e.coll ∧
    (e.poke ws).dict = e.dict ∧ (e.poke ws).ring = e.ring ∧ (e.poke ws).power = e.power ∧ (e.poke ws).segMax = e.segMax ∧
    (e.poke ws).bias = e.bias ∧ (e.poke ws).anchorDefault = e.anchorDefault ∧ (e.poke ws).chkgen = e.chkgen ∧ (e.poke ws).throttle = e.throttle ∧
    (e.poke ws).throttleNext = e.throttleNext ∧ (e.poke ws).throttleSeen = e.throttleSeen ∧ (e.poke ws).droop = e.droop ∧ (e.poke ws).cnt = e.cnt ∧
    (e.poke ws).daily = e.daily ∧ (e.poke ws).setCnt = e.setCnt ∧ (e.poke ws).setDaily = e.setDaily ∧ (e.poke ws).products = e.products ∧
    (e.poke ws).took = e.took ∧ (e.poke ws).free = e.free ∧ (e.poke ws).lost = e.lost := by
  simp [Eng.poke]

/-- `Eng.freeBytes` changes no field but `wr` and `free`. -/
@[simp] theorem Eng.freeBytes_keeps (as : List Nat) (e : Eng) :
    (e.freeBytes as).cue = e.cue ∧ (e.freeBytes as).ready = e.ready ∧ (e.freeBytes as).pods = e.pods ∧ (e.freeBytes as).stage = e.stage ∧
    (e.freeBytes as).place = e.place ∧ (e.freeBytes as).drain = e.drain ∧ (e.freeBytes as).chan = e.chan ∧ (e.freeBytes as).mports = e.mports ∧
    (e.freeBytes as).health = e.health ∧ (e.freeBytes as).link = e.link ∧ (e.freeBytes as).remote = e.remote ∧ (e.freeBytes as).coll = e.coll ∧
    (e.freeBytes as).dict = e.dict ∧ (e.freeBytes as).ring = e.ring ∧ (e.freeBytes as).power = e.power ∧ (e.freeBytes as).segMax = e.segMax ∧
    (e.freeBytes as).bias = e.bias ∧ (e.freeBytes as).anchorDefault = e.anchorDefault ∧ (e.freeBytes as).chkgen = e.chkgen ∧ (e.freeBytes as).throttle = e.throttle ∧
    (e.freeBytes as).throttleNext = e.throttleNext ∧ (e.freeBytes as).throttleSeen = e.throttleSeen ∧ (e.freeBytes as).droop = e.droop ∧ (e.freeBytes as).cnt = e.cnt ∧
    (e.freeBytes as).daily = e.daily ∧ (e.freeBytes as).setCnt = e.setCnt ∧ (e.freeBytes as).setDaily = e.setDaily ∧ (e.freeBytes as).products = e.products ∧
    (e.freeBytes as).took = e.took ∧ (e.freeBytes as).lost = e.lost := by
  simp [Eng.freeBytes, Eng.poke]

/-- `Eng.endCmd` changes no field but `chan` and `place`. -/
@[simp] theorem Eng.endCmd_keeps (ch seq st dt : Nat) (e : Eng) :
    (e.endCmd ch seq st dt).cue = e.cue ∧ (e.endCmd ch seq st dt).ready = e.ready ∧ (e.endCmd ch seq st dt).pods = e.pods ∧ (e.endCmd ch seq st dt).stage = e.stage ∧
    (e.endCmd ch seq st dt).drain = e.drain ∧ (e.endCmd ch seq st dt).mports = e.mports ∧ (e.endCmd ch seq st dt).health = e.health ∧ (e.endCmd ch seq st dt).link = e.link ∧
    (e.endCmd ch seq st dt).remote = e.remote ∧ (e.endCmd ch seq st dt).coll = e.coll ∧ (e.endCmd ch seq st dt).dict = e.dict ∧ (e.endCmd ch seq st dt).ring = e.ring ∧
    (e.endCmd ch seq st dt).power = e.power ∧ (e.endCmd ch seq st dt).segMax = e.segMax ∧ (e.endCmd ch seq st dt).bias = e.bias ∧ (e.endCmd ch seq st dt).anchorDefault = e.anchorDefault ∧
    (e.endCmd ch seq st dt).chkgen = e.chkgen ∧ (e.endCmd ch seq st dt).throttle = e.throttle ∧ (e.endCmd ch seq st dt).throttleNext = e.throttleNext ∧ (e.endCmd ch seq st dt).throttleSeen = e.throttleSeen ∧
    (e.endCmd ch seq st dt).droop = e.droop ∧ (e.endCmd ch seq st dt).cnt = e.cnt ∧ (e.endCmd ch seq st dt).daily = e.daily ∧ (e.endCmd ch seq st dt).setCnt = e.setCnt ∧
    (e.endCmd ch seq st dt).setDaily = e.setDaily ∧ (e.endCmd ch seq st dt).products = e.products ∧ (e.endCmd ch seq st dt).wr = e.wr ∧ (e.endCmd ch seq st dt).took = e.took ∧
    (e.endCmd ch seq st dt).free = e.free ∧ (e.endCmd ch seq st dt).lost = e.lost := by
  simp [Eng.endCmd, Eng.updCmd, Eng.updSlate]

/-- `Eng.bump` changes no field but `cnt` and `daily`. -/
@[simp] theorem Eng.bump_keeps (k n : Nat) (e : Eng) :
    (e.bump k n).cue = e.cue ∧ (e.bump k n).ready = e.ready ∧ (e.bump k n).pods = e.pods ∧ (e.bump k n).stage = e.stage ∧
    (e.bump k n).place = e.place ∧ (e.bump k n).drain = e.drain ∧ (e.bump k n).chan = e.chan ∧ (e.bump k n).mports = e.mports ∧
    (e.bump k n).health = e.health ∧ (e.bump k n).link = e.link ∧ (e.bump k n).remote = e.remote ∧ (e.bump k n).coll = e.coll ∧
    (e.bump k n).dict = e.dict ∧ (e.bump k n).ring = e.ring ∧ (e.bump k n).power = e.power ∧ (e.bump k n).segMax = e.segMax ∧
    (e.bump k n).bias = e.bias ∧ (e.bump k n).anchorDefault = e.anchorDefault ∧ (e.bump k n).chkgen = e.chkgen ∧ (e.bump k n).throttle = e.throttle ∧
    (e.bump k n).throttleNext = e.throttleNext ∧ (e.bump k n).throttleSeen = e.throttleSeen ∧ (e.bump k n).droop = e.droop ∧ (e.bump k n).setCnt = e.setCnt ∧
    (e.bump k n).setDaily = e.setDaily ∧ (e.bump k n).products = e.products ∧ (e.bump k n).wr = e.wr ∧ (e.bump k n).took = e.took ∧
    (e.bump k n).free = e.free ∧ (e.bump k n).lost = e.lost := by
  unfold Eng.bump; split
  · simp
  · split <;> simp

/-- `Eng.bumpSet` changes no field but `setCnt` and `setDaily`. -/
@[simp] theorem Eng.bumpSet_keeps (s k n : Nat) (e : Eng) :
    (e.bumpSet s k n).cue = e.cue ∧ (e.bumpSet s k n).ready = e.ready ∧ (e.bumpSet s k n).pods = e.pods ∧ (e.bumpSet s k n).stage = e.stage ∧
    (e.bumpSet s k n).place = e.place ∧ (e.bumpSet s k n).drain = e.drain ∧ (e.bumpSet s k n).chan = e.chan ∧ (e.bumpSet s k n).mports = e.mports ∧
    (e.bumpSet s k n).health = e.health ∧ (e.bumpSet s k n).link = e.link ∧ (e.bumpSet s k n).remote = e.remote ∧ (e.bumpSet s k n).coll = e.coll ∧
    (e.bumpSet s k n).dict = e.dict ∧ (e.bumpSet s k n).ring = e.ring ∧ (e.bumpSet s k n).power = e.power ∧ (e.bumpSet s k n).segMax = e.segMax ∧
    (e.bumpSet s k n).bias = e.bias ∧ (e.bumpSet s k n).anchorDefault = e.anchorDefault ∧ (e.bumpSet s k n).chkgen = e.chkgen ∧ (e.bumpSet s k n).throttle = e.throttle ∧
    (e.bumpSet s k n).throttleNext = e.throttleNext ∧ (e.bumpSet s k n).throttleSeen = e.throttleSeen ∧ (e.bumpSet s k n).droop = e.droop ∧ (e.bumpSet s k n).cnt = e.cnt ∧
    (e.bumpSet s k n).daily = e.daily ∧ (e.bumpSet s k n).products = e.products ∧ (e.bumpSet s k n).wr = e.wr ∧ (e.bumpSet s k n).took = e.took ∧
    (e.bumpSet s k n).free = e.free ∧ (e.bumpSet s k n).lost = e.lost := by
  unfold Eng.bumpSet; split
  · simp
  · split <;> simp

/-- `Eng.raiseIrq` changes no field but `chan`. -/
@[simp] theorem Eng.raiseIrq_keeps (c : Nat) (e : Eng) :
    (e.raiseIrq c).cue = e.cue ∧ (e.raiseIrq c).ready = e.ready ∧ (e.raiseIrq c).pods = e.pods ∧ (e.raiseIrq c).stage = e.stage ∧
    (e.raiseIrq c).place = e.place ∧ (e.raiseIrq c).drain = e.drain ∧ (e.raiseIrq c).mports = e.mports ∧ (e.raiseIrq c).health = e.health ∧
    (e.raiseIrq c).link = e.link ∧ (e.raiseIrq c).remote = e.remote ∧ (e.raiseIrq c).coll = e.coll ∧ (e.raiseIrq c).dict = e.dict ∧
    (e.raiseIrq c).ring = e.ring ∧ (e.raiseIrq c).power = e.power ∧ (e.raiseIrq c).segMax = e.segMax ∧ (e.raiseIrq c).bias = e.bias ∧
    (e.raiseIrq c).anchorDefault = e.anchorDefault ∧ (e.raiseIrq c).chkgen = e.chkgen ∧ (e.raiseIrq c).throttle = e.throttle ∧ (e.raiseIrq c).throttleNext = e.throttleNext ∧
    (e.raiseIrq c).throttleSeen = e.throttleSeen ∧ (e.raiseIrq c).droop = e.droop ∧ (e.raiseIrq c).cnt = e.cnt ∧ (e.raiseIrq c).daily = e.daily ∧
    (e.raiseIrq c).setCnt = e.setCnt ∧ (e.raiseIrq c).setDaily = e.setDaily ∧ (e.raiseIrq c).products = e.products ∧ (e.raiseIrq c).wr = e.wr ∧
    (e.raiseIrq c).took = e.took ∧ (e.raiseIrq c).free = e.free ∧ (e.raiseIrq c).lost = e.lost := by
  unfold Eng.raiseIrq; split <;> simp

/-- `Eng.logFault` changes no field but `health` and `chan` and `cnt` and `daily`. -/
@[simp] theorem Eng.logFault_keeps (code unit index sub : Nat) (ch : Option Nat) (r : Bool) (e : Eng) :
    (e.logFault code unit index sub ch r).cue = e.cue ∧ (e.logFault code unit index sub ch r).ready = e.ready ∧ (e.logFault code unit index sub ch r).pods = e.pods ∧ (e.logFault code unit index sub ch r).stage = e.stage ∧
    (e.logFault code unit index sub ch r).place = e.place ∧ (e.logFault code unit index sub ch r).drain = e.drain ∧ (e.logFault code unit index sub ch r).mports = e.mports ∧ (e.logFault code unit index sub ch r).link = e.link ∧
    (e.logFault code unit index sub ch r).remote = e.remote ∧ (e.logFault code unit index sub ch r).coll = e.coll ∧ (e.logFault code unit index sub ch r).dict = e.dict ∧ (e.logFault code unit index sub ch r).ring = e.ring ∧
    (e.logFault code unit index sub ch r).power = e.power ∧ (e.logFault code unit index sub ch r).segMax = e.segMax ∧ (e.logFault code unit index sub ch r).bias = e.bias ∧ (e.logFault code unit index sub ch r).anchorDefault = e.anchorDefault ∧
    (e.logFault code unit index sub ch r).chkgen = e.chkgen ∧ (e.logFault code unit index sub ch r).throttle = e.throttle ∧ (e.logFault code unit index sub ch r).throttleNext = e.throttleNext ∧ (e.logFault code unit index sub ch r).throttleSeen = e.throttleSeen ∧
    (e.logFault code unit index sub ch r).droop = e.droop ∧ (e.logFault code unit index sub ch r).setCnt = e.setCnt ∧ (e.logFault code unit index sub ch r).setDaily = e.setDaily ∧ (e.logFault code unit index sub ch r).products = e.products ∧
    (e.logFault code unit index sub ch r).wr = e.wr ∧ (e.logFault code unit index sub ch r).took = e.took ∧ (e.logFault code unit index sub ch r).free = e.free ∧ (e.logFault code unit index sub ch r).lost = e.lost := by
  simp only [Eng.logFault]; split <;> simp

/-- `Eng.failRead` changes no field but `health` and `chan` and `cnt` and `daily`. -/
@[simp] theorem Eng.failRead_keeps (ch : Option Nat) (u : Nat) (first : Bool) (e : Eng) :
    (e.failRead ch u first).cue = e.cue ∧ (e.failRead ch u first).ready = e.ready ∧ (e.failRead ch u first).pods = e.pods ∧ (e.failRead ch u first).stage = e.stage ∧
    (e.failRead ch u first).place = e.place ∧ (e.failRead ch u first).drain = e.drain ∧ (e.failRead ch u first).mports = e.mports ∧ (e.failRead ch u first).link = e.link ∧
    (e.failRead ch u first).remote = e.remote ∧ (e.failRead ch u first).coll = e.coll ∧ (e.failRead ch u first).dict = e.dict ∧ (e.failRead ch u first).ring = e.ring ∧
    (e.failRead ch u first).power = e.power ∧ (e.failRead ch u first).segMax = e.segMax ∧ (e.failRead ch u first).bias = e.bias ∧ (e.failRead ch u first).anchorDefault = e.anchorDefault ∧
    (e.failRead ch u first).chkgen = e.chkgen ∧ (e.failRead ch u first).throttle = e.throttle ∧ (e.failRead ch u first).throttleNext = e.throttleNext ∧ (e.failRead ch u first).throttleSeen = e.throttleSeen ∧
    (e.failRead ch u first).droop = e.droop ∧ (e.failRead ch u first).setCnt = e.setCnt ∧ (e.failRead ch u first).setDaily = e.setDaily ∧ (e.failRead ch u first).products = e.products ∧
    (e.failRead ch u first).wr = e.wr ∧ (e.failRead ch u first).took = e.took ∧ (e.failRead ch u first).free = e.free ∧ (e.failRead ch u first).lost = e.lost := by
  simp [Eng.failRead]

/-- `Eng.noteUnit` changes no field but `health` and `chan` and `cnt` and `daily`. -/
@[simp] theorem Eng.noteUnit_keeps (ch : Option Nat) (x : BadUnit) (e : Eng) :
    (e.noteUnit ch x).cue = e.cue ∧ (e.noteUnit ch x).ready = e.ready ∧ (e.noteUnit ch x).pods = e.pods ∧ (e.noteUnit ch x).stage = e.stage ∧
    (e.noteUnit ch x).place = e.place ∧ (e.noteUnit ch x).drain = e.drain ∧ (e.noteUnit ch x).mports = e.mports ∧ (e.noteUnit ch x).link = e.link ∧
    (e.noteUnit ch x).remote = e.remote ∧ (e.noteUnit ch x).coll = e.coll ∧ (e.noteUnit ch x).dict = e.dict ∧ (e.noteUnit ch x).ring = e.ring ∧
    (e.noteUnit ch x).power = e.power ∧ (e.noteUnit ch x).segMax = e.segMax ∧ (e.noteUnit ch x).bias = e.bias ∧ (e.noteUnit ch x).anchorDefault = e.anchorDefault ∧
    (e.noteUnit ch x).chkgen = e.chkgen ∧ (e.noteUnit ch x).throttle = e.throttle ∧ (e.noteUnit ch x).throttleNext = e.throttleNext ∧ (e.noteUnit ch x).throttleSeen = e.throttleSeen ∧
    (e.noteUnit ch x).droop = e.droop ∧ (e.noteUnit ch x).setCnt = e.setCnt ∧ (e.noteUnit ch x).setDaily = e.setDaily ∧ (e.noteUnit ch x).products = e.products ∧
    (e.noteUnit ch x).wr = e.wr ∧ (e.noteUnit ch x).took = e.took ∧ (e.noteUnit ch x).free = e.free ∧ (e.noteUnit ch x).lost = e.lost := by
  unfold Eng.noteUnit; split <;> simp

/-- `Eng.noteTook` changes no field but `took` and `cnt` and `daily`. -/
@[simp] theorem Eng.noteTook_keeps (rs : List (Nat × Nat)) (e : Eng) :
    (e.noteTook rs).cue = e.cue ∧ (e.noteTook rs).ready = e.ready ∧ (e.noteTook rs).pods = e.pods ∧ (e.noteTook rs).stage = e.stage ∧
    (e.noteTook rs).place = e.place ∧ (e.noteTook rs).drain = e.drain ∧ (e.noteTook rs).chan = e.chan ∧ (e.noteTook rs).mports = e.mports ∧
    (e.noteTook rs).health = e.health ∧ (e.noteTook rs).link = e.link ∧ (e.noteTook rs).remote = e.remote ∧ (e.noteTook rs).coll = e.coll ∧
    (e.noteTook rs).dict = e.dict ∧ (e.noteTook rs).ring = e.ring ∧ (e.noteTook rs).power = e.power ∧ (e.noteTook rs).segMax = e.segMax ∧
    (e.noteTook rs).bias = e.bias ∧ (e.noteTook rs).anchorDefault = e.anchorDefault ∧ (e.noteTook rs).chkgen = e.chkgen ∧ (e.noteTook rs).throttle = e.throttle ∧
    (e.noteTook rs).throttleNext = e.throttleNext ∧ (e.noteTook rs).throttleSeen = e.throttleSeen ∧ (e.noteTook rs).droop = e.droop ∧ (e.noteTook rs).setCnt = e.setCnt ∧
    (e.noteTook rs).setDaily = e.setDaily ∧ (e.noteTook rs).products = e.products ∧ (e.noteTook rs).wr = e.wr ∧ (e.noteTook rs).free = e.free ∧
    (e.noteTook rs).lost = e.lost := by
  simp [Eng.noteTook, Eng.countLines]

/-- `Eng.completionIrq` changes no field but `chan`. -/
@[simp] theorem Eng.completionIrq_keeps (m : Cmd) (n : ChanEntry) (st : Nat) (e : Eng) :
    (e.completionIrq m n st).cue = e.cue ∧ (e.completionIrq m n st).ready = e.ready ∧ (e.completionIrq m n st).pods = e.pods ∧ (e.completionIrq m n st).stage = e.stage ∧
    (e.completionIrq m n st).place = e.place ∧ (e.completionIrq m n st).drain = e.drain ∧ (e.completionIrq m n st).mports = e.mports ∧ (e.completionIrq m n st).health = e.health ∧
    (e.completionIrq m n st).link = e.link ∧ (e.completionIrq m n st).remote = e.remote ∧ (e.completionIrq m n st).coll = e.coll ∧ (e.completionIrq m n st).dict = e.dict ∧
    (e.completionIrq m n st).ring = e.ring ∧ (e.completionIrq m n st).power = e.power ∧ (e.completionIrq m n st).segMax = e.segMax ∧ (e.completionIrq m n st).bias = e.bias ∧
    (e.completionIrq m n st).anchorDefault = e.anchorDefault ∧ (e.completionIrq m n st).chkgen = e.chkgen ∧ (e.completionIrq m n st).throttle = e.throttle ∧ (e.completionIrq m n st).throttleNext = e.throttleNext ∧
    (e.completionIrq m n st).throttleSeen = e.throttleSeen ∧ (e.completionIrq m n st).droop = e.droop ∧ (e.completionIrq m n st).cnt = e.cnt ∧ (e.completionIrq m n st).daily = e.daily ∧
    (e.completionIrq m n st).setCnt = e.setCnt ∧ (e.completionIrq m n st).setDaily = e.setDaily ∧ (e.completionIrq m n st).products = e.products ∧ (e.completionIrq m n st).wr = e.wr ∧
    (e.completionIrq m n st).took = e.took ∧ (e.completionIrq m n st).free = e.free ∧ (e.completionIrq m n st).lost = e.lost := by
  unfold Eng.completionIrq; split <;> simp

/-- `Eng.passTime` changes no field but `power` and `free`. -/
@[simp] theorem Eng.passTime_keeps (e : Eng) :
    (e.passTime).cue = e.cue ∧ (e.passTime).ready = e.ready ∧ (e.passTime).pods = e.pods ∧ (e.passTime).stage = e.stage ∧
    (e.passTime).place = e.place ∧ (e.passTime).drain = e.drain ∧ (e.passTime).chan = e.chan ∧ (e.passTime).mports = e.mports ∧
    (e.passTime).health = e.health ∧ (e.passTime).link = e.link ∧ (e.passTime).remote = e.remote ∧ (e.passTime).coll = e.coll ∧
    (e.passTime).dict = e.dict ∧ (e.passTime).ring = e.ring ∧ (e.passTime).segMax = e.segMax ∧ (e.passTime).bias = e.bias ∧
    (e.passTime).anchorDefault = e.anchorDefault ∧ (e.passTime).chkgen = e.chkgen ∧ (e.passTime).throttle = e.throttle ∧ (e.passTime).throttleNext = e.throttleNext ∧
    (e.passTime).throttleSeen = e.throttleSeen ∧ (e.passTime).droop = e.droop ∧ (e.passTime).cnt = e.cnt ∧ (e.passTime).daily = e.daily ∧
    (e.passTime).setCnt = e.setCnt ∧ (e.passTime).setDaily = e.setDaily ∧ (e.passTime).products = e.products ∧ (e.passTime).wr = e.wr ∧
    (e.passTime).took = e.took ∧ (e.passTime).lost = e.lost := by
  unfold Eng.passTime; split <;> simp [Eng.fresh]

/-- `Eng.wake` changes no field but `power` and `pods` and `free`. -/
@[simp] theorem Eng.wake_keeps (c : Nat) (e : Eng) :
    (e.wake c).cue = e.cue ∧ (e.wake c).ready = e.ready ∧ (e.wake c).stage = e.stage ∧ (e.wake c).place = e.place ∧
    (e.wake c).drain = e.drain ∧ (e.wake c).chan = e.chan ∧ (e.wake c).mports = e.mports ∧ (e.wake c).health = e.health ∧
    (e.wake c).link = e.link ∧ (e.wake c).remote = e.remote ∧ (e.wake c).coll = e.coll ∧ (e.wake c).dict = e.dict ∧
    (e.wake c).ring = e.ring ∧ (e.wake c).segMax = e.segMax ∧ (e.wake c).bias = e.bias ∧ (e.wake c).anchorDefault = e.anchorDefault ∧
    (e.wake c).chkgen = e.chkgen ∧ (e.wake c).throttle = e.throttle ∧ (e.wake c).throttleNext = e.throttleNext ∧ (e.wake c).throttleSeen = e.throttleSeen ∧
    (e.wake c).droop = e.droop ∧ (e.wake c).cnt = e.cnt ∧ (e.wake c).daily = e.daily ∧ (e.wake c).setCnt = e.setCnt ∧
    (e.wake c).setDaily = e.setDaily ∧ (e.wake c).products = e.products ∧ (e.wake c).wr = e.wr ∧ (e.wake c).took = e.took ∧
    (e.wake c).lost = e.lost := by
  unfold Eng.wake; split <;> simp

/-- `Eng.updPort` changes no field but `mports` and `cnt` and `daily`. -/
@[simp] theorem Eng.updPort_keeps (n : Nat) (f : MemPort → MemPort) (e : Eng) :
    (e.updPort n f).cue = e.cue ∧ (e.updPort n f).ready = e.ready ∧ (e.updPort n f).pods = e.pods ∧ (e.updPort n f).stage = e.stage ∧
    (e.updPort n f).place = e.place ∧ (e.updPort n f).drain = e.drain ∧ (e.updPort n f).chan = e.chan ∧ (e.updPort n f).health = e.health ∧
    (e.updPort n f).link = e.link ∧ (e.updPort n f).remote = e.remote ∧ (e.updPort n f).coll = e.coll ∧ (e.updPort n f).dict = e.dict ∧
    (e.updPort n f).ring = e.ring ∧ (e.updPort n f).power = e.power ∧ (e.updPort n f).segMax = e.segMax ∧ (e.updPort n f).bias = e.bias ∧
    (e.updPort n f).anchorDefault = e.anchorDefault ∧ (e.updPort n f).chkgen = e.chkgen ∧ (e.updPort n f).throttle = e.throttle ∧ (e.updPort n f).throttleNext = e.throttleNext ∧
    (e.updPort n f).throttleSeen = e.throttleSeen ∧ (e.updPort n f).droop = e.droop ∧ (e.updPort n f).setCnt = e.setCnt ∧ (e.updPort n f).setDaily = e.setDaily ∧
    (e.updPort n f).products = e.products ∧ (e.updPort n f).wr = e.wr ∧ (e.updPort n f).took = e.took ∧ (e.updPort n f).free = e.free ∧
    (e.updPort n f).lost = e.lost := by
  simp [Eng.updPort]

/-- `Eng.sendLine` changes no field but `mports` and `cnt` and `daily`. -/
@[simp] theorem Eng.sendLine_keeps (o : Owner) (l : Nat) (ws : List (Nat × Byte)) (e : Eng) :
    (e.sendLine o l ws).cue = e.cue ∧ (e.sendLine o l ws).ready = e.ready ∧ (e.sendLine o l ws).pods = e.pods ∧ (e.sendLine o l ws).stage = e.stage ∧
    (e.sendLine o l ws).place = e.place ∧ (e.sendLine o l ws).drain = e.drain ∧ (e.sendLine o l ws).chan = e.chan ∧ (e.sendLine o l ws).health = e.health ∧
    (e.sendLine o l ws).link = e.link ∧ (e.sendLine o l ws).remote = e.remote ∧ (e.sendLine o l ws).coll = e.coll ∧ (e.sendLine o l ws).dict = e.dict ∧
    (e.sendLine o l ws).ring = e.ring ∧ (e.sendLine o l ws).power = e.power ∧ (e.sendLine o l ws).segMax = e.segMax ∧ (e.sendLine o l ws).bias = e.bias ∧
    (e.sendLine o l ws).anchorDefault = e.anchorDefault ∧ (e.sendLine o l ws).chkgen = e.chkgen ∧ (e.sendLine o l ws).throttle = e.throttle ∧ (e.sendLine o l ws).throttleNext = e.throttleNext ∧
    (e.sendLine o l ws).throttleSeen = e.throttleSeen ∧ (e.sendLine o l ws).droop = e.droop ∧ (e.sendLine o l ws).setCnt = e.setCnt ∧ (e.sendLine o l ws).setDaily = e.setDaily ∧
    (e.sendLine o l ws).products = e.products ∧ (e.sendLine o l ws).wr = e.wr ∧ (e.sendLine o l ws).took = e.took ∧ (e.sendLine o l ws).free = e.free ∧
    (e.sendLine o l ws).lost = e.lost := by
  simp [Eng.sendLine]

/-! ### Commit and the outcomes -/

/-- A step leaves no write behind. -/
@[simp] theorem State.commit_wr (s : State) (e : Eng) : (s.commit e).e.wr = [] := rfl

/-- A step leaves no read behind. -/
@[simp] theorem State.commit_took (s : State) (e : Eng) : (s.commit e).e.took = [] := rfl

/-- A step leaves the queue to the queue's rest. -/
@[simp] theorem State.commit_pending (s : State) (e : Eng) : (s.commit e).pending = s.pending := rfl

/-- Memory after a step is memory before it with the writes of the step. -/
@[simp] theorem State.commit_mem (s : State) (e : Eng) : (s.commit e).mem = Memory.apply s.mem (wrapWrites e.wr) := rfl

/-- The engine after a step, its writes and reads apart. -/
@[simp] theorem State.commit_e (s : State) (e : Eng) : (s.commit e).e = { e with wr := [], took := [] } := rfl

/-- An effect always has a next state. -/
theorem State.run_eq (s : State) (f : (Nat → Byte) → Eng → Eng) : s.run f = .next (s.commit (f s.rd s.e)) := rfl

/-- The events of the ACLK domain occur while the engine runs and is not stuck. -/
theorem Eng.aclkOn_of {e : Eng} (h : e.lost = false) (hr : e.runs = true) : e.aclkOn = true := by
  simp [Eng.aclkOn, h, hr]

/-- An event of the ACLK domain while they occur. -/
theorem State.runAclk_eq {s : State} (h : s.e.aclkOn = true) (f : (Nat → Byte) → Eng → Eng) :
    s.runAclk f = .next (s.commit (f s.rd s.e)) := by
  simp [State.runAclk, h, State.run_eq]

/-- An event of the ACLK domain while they do not occur. -/
theorem State.runAclk_out {s : State} (h : s.e.aclkOn = false) (f : (Nat → Byte) → Eng → Eng) : s.runAclk f = .next s := by
  simp [State.runAclk, h]

/-- What an effect that reads memory leaves: it happens whole, or the command waits. -/
theorem State.held_cases (s : State) (e : Eng) : s.held e = .next (s.commit e) ∨ s.held e = .next s := by
  unfold State.held; split
  · exact .inr rfl
  · exact .inl rfl

/-- An effect that reads memory, where the ports can make its reads. -/
theorem State.held_eq {s : State} {e : Eng} (h : s.e.holdsBack (e.took.drop s.e.took.length) = false) :
    s.held e = .next (s.commit e) := by
  simp [State.held, h]

/-- An event of the ACLK domain that reads memory, where the ports can make its reads and none meets an error. -/
theorem State.runReads_eq {s : State} (h : s.e.aclkOn = true) {f : (Nat → Byte) → List BadUnit → Eng → Eng}
    (hb : s.e.holdsBack ((f s.rd [] s.e).took.drop s.e.took.length) = false) :
    s.runReads [] f = .next (s.commit (f s.rd [] s.e)) := by
  simpa [State.runReads, h, State.runUnits, received, fates] using State.held_eq hb

/-- Ports whose reads can all be made hold no command back. -/
theorem Eng.holdsBack_nil (e : Eng) : e.holdsBack [] = false := rfl

/-- An event in service. -/
theorem State.runService_eq {s : State} (hr : s.e.inService = true) (f : (Nat → Byte) → Eng → Eng) :
    s.runService f = .next (s.commit (f s.rd s.e)) := by
  simp [State.runService, hr, State.run_eq]

/-- An event of service out of service. -/
theorem State.runService_out {s : State} (hr : s.e.inService = false) (f : (Nat → Byte) → Eng → Eng) :
    s.runService f = .next s := by
  simp [State.runService, hr]

/-- An engine that runs is in service. -/
theorem Eng.inService_of_runs {e : Eng} (h : e.runs = true) : e.inService = true := by
  simp only [Eng.runs, Eng.inService, Bool.and_eq_true, beq_iff_eq, bne_iff_ne] at h ⊢
  exact ⟨h.1, by omega⟩

/-- An engine in E0 has nothing to return from. -/
theorem Eng.wake_of_runs {e : Eng} (h : e.runs = true) (c : Nat) : e.wake c = e := by
  simp only [Eng.runs, Bool.and_eq_true, beq_iff_eq] at h
  simp [Eng.wake, h.2]

end Sys2Proof.Machine
end

