-- ==== Sys2Proof/Laws/Run.lean ====
section
/-!
SUPPORT. What a step and the ways by which a command acts on the state can do, and what an entry that was changed by an
operation reads as afterwards.
-/

namespace Sys2Proof.Machine

/-! ### A step and its commands -/

theorem step_cons (c : Instr) (r : List Instr) (s : State) (h : s.pending = c :: r) : step s = exec c { s with pending := r } := by
  unfold step
  rw [h]

theorem step_nil (s : State) (h : s.pending = []) : step s = .next (s.commit (s.e.tick s.rd)) := by
  unfold step State.idle
  rw [h]

/-- An effect that leaves no write and no read changes the engine alone. -/
theorem State.commit_quiet (s : State) (e : Eng) (h : e.wr = []) (ht : e.took = []) : s.commit e = { s with e := e } := by
  cases e
  simp only at h ht
  subst h ht
  rfl

/-- In a settled state an effect that changes nothing leaves the state as it is. -/
theorem State.commit_self (s : State) (h : s.settled) : s.commit s.e = s := State.commit_quiet s s.e h.1 h.2.1

/-- Whatever effect an event has, what it answers with meets the invariant, or it is a stop. -/
theorem State.commit_inv (s : State) (e : Eng) (h : s.Inv) : (s.commit e).Inv := by
  refine ⟨Memory.apply_wf _ h.1, ?_, rfl, rfl⟩
  intro c hc
  rcases Memory.mem_apply _ hc with hc | hc
  · exact h.2.1 c hc
  · exact wrapWrites_lt hc

/-- Free ports hold no command back. -/
theorem Eng.holdsBack_of_free {e : Eng} (h : e.portsFree) (rs : List (Nat × Nat)) : e.holdsBack rs = false := by
  unfold Eng.holdsBack
  refine List.any_eq_false.2 fun r _ => ?_
  simp only [Bool.not_eq_true]
  refine List.any_eq_false.2 fun x hx => ?_
  obtain ⟨hc, ht, hw, hu⟩ := h x.1 (List.fst_mem_of_mem_zipIdx hx)
  simp [MemPort.writesIn, MemPort.sends, hc, ht, hw, hu]

/-- An effect that reads memory, under free ports. -/
theorem State.held_free {s : State} (h : s.e.portsFree) (e : Eng) : s.held e = .next (s.commit e) :=
  State.held_eq (Eng.holdsBack_of_free h _)

/-! ### Entries that were changed -/

theorem mapIf_find_other {α : Type} (p q : α → Bool) (f : α → α) (l : List α) (h : ∀ x ∈ l, q x = true → p x = false ∧ q (f x) = q x)
    (h2 : ∀ x ∈ l, p x = true → q (f x) = q x) : (mapIf p f l).find? q = l.find? q := by
  induction l with
  | nil => rfl
  | cons x r ih =>
    have ihr := ih (fun y hy => h y (List.mem_cons_of_mem _ hy)) fun y hy => h2 y (List.mem_cons_of_mem _ hy)
    unfold mapIf at ihr ⊢
    simp only [List.map_cons, List.find?_cons]
    by_cases hp : p x = true
    · have hq : q (f x) = q x := h2 x List.mem_cons_self hp
      have hx : q x = false := by
        cases hqx : q x with
        | false => rfl
        | true =>
          have := (h x List.mem_cons_self hqx).1
          rw [hp] at this
          cases this
      simp only [hp, if_true, hq, hx]
      exact ihr
    · simp only [hp]
      cases hqx : q x with
      | true => simp [hqx]
      | false => simpa [hqx] using ihr

/-- A pod that was changed, and the others. -/
theorem Eng.pod_updPod (e : Eng) (n m : Nat) (f : Pod → Pod) (h : n < e.pods.length) :
    (e.updPod n f).pod m = if m = n then f (e.pod n) else e.pod m := by
  unfold Eng.pod Eng.updPod
  by_cases hm : m = n
  · subst hm
    simp [List.getD_eq_getElem?_getD, h]
  · have hne : n ≠ m := fun e => hm e.symm
    simp [List.getD_eq_getElem?_getD, hm, hne]

/-- A channel that was changed, and the others. -/
theorem Eng.ch_updCh (e : Eng) (c d : Nat) (f : Chan → Chan) : (e.updCh c f).ch d = if d = c then f (e.ch c) else e.ch d := by
  unfold Eng.updCh
  simp only [Eng.ch, nget, nget?_nput]
  split <;> simp

/-- A trigger entry that was changed, and the others. -/
theorem Eng.trig_updTrig (e : Eng) (i j : Nat) (f : Trig → Trig) : (e.updTrig i f).trig j = if j = i then f (e.trig i) else e.trig j := by
  unfold Eng.updTrig Eng.trig nget
  simp only
  split
  · next h => rw [nget?_ndel]; split <;> simp_all
  · rw [nget?_nput]; split <;> simp

/-- A tile context that was changed, and the others, where the change keeps its number. -/
theorem Eng.ctx_updCtx (e : Eng) (i j : Nat) (f : TileCtx → TileCtx) (h : j ≠ i) (hf : ∀ c, (f c).id = c.id) :
    (e.updCtx i f).ctx? j = e.ctx? j := by
  unfold Eng.updCtx Eng.ctx?
  refine mapIf_find_other _ _ _ _ (fun x _ hx => ?_) fun x _ _ => by simp [hf]
  simp only [beq_iff_eq] at hx
  simp [hf, hx, h]

end Sys2Proof.Machine
end

