-- ==== Sys2Proof/Tests/Slice0.lean ====
section
/-!
SUPPORT. The model's own tests: ill-formed commands that the check refuses, and for the statements of
Certificates/Slice0/Obligations.lean concrete states and operands that meet their hypotheses, with one step from each.
-/

namespace Sys2Proof.Machine.Tests

set_option Elab.async false

/-! ### Small states -/

/-- What a step answers with a next state that meets `f`. -/
def after (o : Host.Outcome State Fault Refusal) (f : State → Bool) : Bool :=
  match o with
  | .next t => f t
  | _ => false

/-- In service in E0, with known set versions, and with read credits at the memory ports. -/
def base : State := { State.reset with e := { Eng.reset with
  ready := true
  power := { PowerSt.reset with t0 := true, step := 0 }
  pods := Eng.reset.pods.map fun d => { d with pwrReq := true, version := 7 }
  mports := Eng.reset.mports.map fun p => { p with rdCred := 4 }
  health := { HealthSt.reset with setVersion := 7 } } }

/-- `base` with another engine. -/
def st (f : Eng → Eng) : State := { base with e := f base.e }

/-- A state with another power record. -/
def pw (f : PowerSt → PowerSt) : State := st fun e => { e with power := f e.power }

/-- A state with another health record. -/
def hl (f : HealthSt → HealthSt) : State := st fun e => { e with health := f e.health }

/-- A state with another link record. -/
def lk (f : LinkSt → LinkSt) : State := st fun e => { e with link := f e.link }

/-- A state with another pod `n`. -/
def pd (n : Nat) (f : Pod → Pod) : State := st fun e => e.updPod n f

/-- Packet header 0. -/
def hdr0 : PktHdr := PktHdr.ofNat 0

/-- Writes made in memory. -/
def withMem (s : State) (ws : List (Nat × Byte)) : State := { s with mem := Memory.apply s.mem ws }

/-! ### The queue, presence, resets, power -/

theorem test_step_front : after (step { base with pending := [.presenceAssert, .droopApply] }) (fun t =>
    t.pending == [.droopApply] && t.e.power.presence && !t.e.droop) = true := by decide +kernel

theorem wit_tick : (base.pending = [] ∧ base.e.coreOn = true ∧ base.e.power.estate = 0 ∧ base.e.dueNow = false) ∧
    base.settled ∧ base.e.coll.colls = [] ∧
    after (step base) (fun t => t.e.cue == 1 && t.e.place == base.e.place && t.e.chan == base.e.chan) = true :=
  ⟨by decide +kernel, ⟨rfl, rfl, rfl⟩, rfl, by decide +kernel⟩

theorem wit_tick_due : let s := hl fun h => { h with reelDue := some 0 }
    (s.pending = [] ∧ s.e.coreOn = true ∧ s.e.power.estate = 0 ∧ s.e.dueNow = true) ∧
    after (step s) (fun t => t.e.cue == 0 && t.e.stage == s.e.stage && t.e.health == s.e.health) = true := by decide +kernel

theorem wit_tick_throttle : let s := st fun e => { e with cue := 7, throttleNext := some 3 }
    (s.e.dueNow = false ∧ (s.e.cue + 1) % 8 = 0) ∧
    after (step s) (fun t => t.e.throttle == 3 && t.e.throttleNext == none && t.e.cue == 8) = true := by decide +kernel

theorem wit_tick_throttle_waits : let s := st fun e => { e with cue := 6, throttleNext := some 3 }
    (s.e.dueNow = false ∧ (s.e.cue + 1) % 8 ≠ 0) ∧
    after (step s) (fun t => t.e.throttle == 0 && t.e.throttleNext == some 3 && t.e.cue == 7) = true := by decide +kernel

theorem wit_inv : base.Inv := ⟨by decide, by decide, rfl, rfl⟩

theorem wit_inv_step : base.Inv ∧ ∃ t, step base = .next t := ⟨wit_inv, _, rfl⟩

theorem wit_units : base.e.sized ∧ ∃ t, step base = .next t := ⟨by unfold Eng.sized; decide +kernel, _, rfl⟩

theorem wit_numbers : base.e.numbered ∧ base.e.bounded ∧ ∃ t, step base = .next t :=
  ⟨by unfold Eng.numbered; decide +kernel, ⟨⟨by decide, fun ch => by show (0 : Nat) ≤ 16; decide⟩, by decide +kernel, by decide +kernel, by decide +kernel⟩, _, rfl⟩

theorem wit_queue_kept : after (exec .droopApply { base with pending := [.presenceAssert] }) (fun t =>
    t.pending == [.presenceAssert]) = true := by decide +kernel

theorem test_ack_unasked : after (exec (.memoryWriteAck 0 0 false) base) (fun t => t.e.lost) = true ∧
    after (exec (.memoryReadBeat 0 0 false 0 []) base) (fun t => t.e.lost) = true := by decide +kernel

/-- `base` after an undefined case. -/
def lostBase : State := st fun e => { e with lost := true }

theorem wit_lost : (lostBase.e.lost = true ∧ lostBase.pending = [] ∧ lostBase.e.wr = [] ∧ lostBase.e.took = [] ∧ lostBase.e.owesReply = false) ∧
    lostBase.e.opens .ring ∧ after (step lostBase) (fun t => t.e.lost && t.e.cue == 0) = true ∧ after (exec .erstNLow lostBase) (fun t => !t.e.lost && !t.e.ready) = true ∧
    after (exec (.engineReset .ring 0xE5) lostBase) (fun t => !t.e.lost && !t.e.ready) = true :=
  ⟨by decide +kernel, ⟨by decide +kernel, rfl, rfl, rfl, by simp⟩, by decide +kernel⟩

theorem wit_presence : base.settled ∧ after (exec .presenceDeassert (st fun e => { e with dict := { e.dict with debugUnlock := true } }))
    (fun t => !t.e.dict.debugUnlock && !t.e.power.presence) = true := ⟨⟨rfl, rfl, rfl⟩, by decide +kernel⟩

/-- `base` with DEBUG_UNLOCK 1 and pod 33 in OUT. -/
def unlockedState : State := st fun e => { e.updPod 33 (fun d => { d with svc := .out }) with dict := { e.dict with debugUnlock := true } }

theorem wit_tap : base.settled ∧ (base.e.dict.debugUnlock = false) ∧
    after (exec (.testAccessPort (.bypass true)) base) (fun t => t.e.power.tdo == [1]) = true ∧
    after (exec (.testAccessPort (.scan 33 none)) base) (fun t => t == base) = true ∧
    after (exec (.testAccessPort (.sector 0 0 0)) base) (fun t => t == base) = true ∧
    after (exec (.testAccessPort (.observe true)) base) (fun t => t == base) = true := ⟨⟨rfl, rfl, rfl⟩, by decide +kernel⟩

theorem wit_tap_unlocked : unlockedState.settled ∧
    (unlockedState.e.dict.debugUnlock = true ∧ (33 : Nat) < 34 ∧ ((unlockedState.e.pod 33).svc = .out ∨ (unlockedState.e.pod 33).svc = .retired)) ∧
    after (exec (.testAccessPort (.scan 33 (some 5))) unlockedState) (fun t => t.e.power.tdo.length == 1 && (t.e.pod 33).scan == 5) = true ∧
    after (exec (.testAccessPort (.sector 31 127 2047)) unlockedState) (fun t => t.e.power.tdo == [0, 0, 0, 0, 0, 0]) = true ∧
    after (exec (.testAccessPort (.observe true)) unlockedState) (fun t => t.e.power.observe) = true := ⟨⟨rfl, rfl, rfl⟩, by decide +kernel⟩

theorem wit_droop_apply : base.settled ∧ base.e.power.estate = 0 ∧
    after (exec .droopApply base) (fun t => t.e.droop && t.e.health.screenArmed == none) = true := ⟨⟨rfl, rfl, rfl⟩, by decide +kernel⟩

theorem wit_droop_lift : let s := st fun e => { e with droop := true, cue := 8 }
    (s.e.power.estate = 0 ∧ s.e.droop = true ∧ s.e.cue % 8 = 0) ∧ after (exec .droopLift s) (fun t => !t.e.droop && t.e.slotOpen) = true := by
  decide +kernel

theorem wit_droop_held : let s := st fun e => { e with droop := true, cue := 9 }
    (s.e.droop = false ∨ s.e.cue % 8 ≠ 0) ∧ after (exec .droopLift s) (fun t => t == s) = true := by decide +kernel

theorem wit_throttle : base.settled ∧ (5 : BitVec 3).toNat ≠ base.e.throttleSeen ∧
    after (exec (.throttleChange 5) base) (fun t => t.e.throttleSeen == 5 && t.e.throttleNext == none) = true :=
  ⟨⟨rfl, rfl, rfl⟩, by decide +kernel⟩

theorem wit_throttle_agrees : let s := st fun e => { e with throttleSeen := 5 }
    s.settled ∧ (5 : BitVec 3).toNat = s.e.throttleSeen ∧ after (exec (.throttleChange 5) s) (fun t => t.e.throttleNext == some 5) = true :=
  ⟨⟨rfl, rfl, rfl⟩, by decide +kernel⟩

theorem wit_idle1 : let s := pw fun p => { p with idleState := 1 }
    (s.e.runs = true ∧ s.e.idle = true ∧ s.e.power.idleState = 1) ∧ after (exec .idleEntry s) (fun t => t.e.power.estate == 1) = true := by
  decide +kernel

theorem wit_idle2 : let s := pw fun p => { p with idleState := 2 }
    (s.e.runs = true ∧ s.e.idle = true ∧ s.e.power.idleState = 2) ∧
    after (exec .idleEntry s) (fun t => t.e.power.estate == 2 && t.e.pods.all fun d => !d.pwrReq) = true := by decide +kernel

theorem wit_idle0 : (base.e.runs = true ∧ (base.e.idle = false ∨ base.e.power.idleState = 0)) ∧
    after (exec .idleEntry base) (fun t => t == base) = true := by decide +kernel

theorem wit_power_on : after (exec .powerOnReset (hl fun h => { h with fuses := [5], fusesUsed := 1, burning := [9] })) (fun t =>
    t.e.health.fuses == [5] && t.e.health.fusesUsed == 2 && t.e.health.burning == [] && !t.e.ready && t.e.power.resetCount == 1) = true := by
  decide +kernel

theorem wit_erst : base.settled ∧ base.e.power.porLow = false ∧ base.e.power.estate ≠ 3 ∧ base.e.power.entry = none ∧
    base.e.power.t0 = true ∧ base.e.owesReply = false ∧ base.e.health.burning = [] ∧
    after (exec .erstNLow base) (fun t => !t.e.ready && t.e.power.resetCause == 2 && t.e.power.resetCount == 2 && !t.e.power.t0) = true :=
  ⟨⟨rfl, rfl, rfl⟩, by decide +kernel⟩

theorem wit_erst_owed : let s := st fun e => { e with mports := e.mports.modify 0 fun p => { p with rd := [⟨2, 0, 1, 0, 0, 0, .a, 256, 0⟩] } }
    s.settled ∧ (s.e.power.entry = none ∧ s.e.owesReply = true) ∧
    after (exec .erstNLow s) (fun t => !t.e.ready && t.e.power.resetCount == 1 && t.e.power.entry == some (.reset 2)) = true :=
  ⟨⟨rfl, rfl, rfl⟩, by decide +kernel⟩

theorem wit_erst_entry : let s := pw fun p => { p with entry := some (.reset 3) }
    s.settled ∧ (s.e.power.porLow = false ∧ s.e.power.estate ≠ 3 ∧ s.e.power.entry = some (.reset 3)) ∧
    after (exec .erstNLow s) (fun t => t.e.power.entry == some (.reset 2)) = true := ⟨⟨rfl, rfl, rfl⟩, by decide +kernel⟩

theorem wit_erst_por : let s := pw fun p => { p with porLow := true }
    s.settled ∧ s.e.power.porLow = true ∧ after (exec .erstNLow s) (fun t => t == s) = true := ⟨⟨rfl, rfl, rfl⟩, by decide +kernel⟩

theorem wit_erst_e3 : let s := pw fun p => { p with estate := 3 }
    s.settled ∧ (s.e.power.porLow = false ∧ s.e.power.estate = 3) ∧ after (exec .erstNLow s) (fun t => t.e.power.step == 1 && t.e.power.fromE3 && t.e.power.estate == 0) = true := ⟨⟨rfl, rfl, rfl⟩, by decide +kernel⟩

theorem wit_erst_again : let s := pw fun p => { p with t0 := false, resetCause := 3 }
    s.settled ∧ (s.e.power.porLow = false ∧ s.e.power.estate ≠ 3 ∧ s.e.power.entry = none ∧ s.e.power.t0 = false ∧ s.e.power.resetCause = 3 ∧ s.e.power.fromE3 = false) ∧
    after (exec .erstNLow s) (fun t => t == { s with e := { s.e with power := { s.e.power with resetCause := 2 } } }) = true :=
  ⟨⟨rfl, rfl, rfl⟩, by decide +kernel⟩

/-- Start-up that finds nothing wrong, with link 2 strapped. -/
def bistOk : Bist := ⟨[], [], true, 4, 0, false⟩

theorem wit_start_up : let s := State.reset
    (s.e.power.estate ≠ 3 ∧ s.e.power.t0 = false ∧ s.e.health.burning = [] ∧ s.e.owesReply = false ∧ s.e.unsent = [] ∧
      s.e.power.fromE3 = false ∧ s.e.power.entry = none ∧ bistOk.banks = [] ∧ bistOk.columns = [] ∧ s.e.health.fuses = []) ∧
    after (exec (.startUp bistOk) s) (fun t => t.e.chkgen && t.e.power.resetCount == 1 && (t.e.pod 31).lpos == some 31 &&
      (t.e.pod 32).lpos == none && (t.e.link.slinks[2]?).map SLink.st == some 1 && (t.e.link.slinks[1]?).map SLink.st == some 0) = true := by
  decide +kernel

theorem wit_start_up_e3 : let s : State := { State.reset with e := { Eng.reset with power := { PowerSt.reset with fromE3 := true } } }
    (s.e.power.estate ≠ 3 ∧ s.e.power.t0 = false ∧ s.e.power.fromE3 = true) ∧
    after (exec (.startUp bistOk) s) (fun t => t.e.power.resetCount == 2 && t.e.power.resetCause == 4) = true := by decide +kernel

/-- Start-up with a read that has not been answered. -/
def owing : State := st fun e => { e with
  ready := false, power := { e.power with t0 := false }
  mports := e.mports.modify 0 fun p => { p with rd := [⟨2, 0, 1, 0, 0, 0, .a, 256, 0⟩] } }

theorem wit_start_up_owed : (owing.settled ∧ owing.e.power.estate ≠ 3 ∧ owing.e.power.t0 = false ∧ owing.e.health.burning = [] ∧
      owing.e.owesReply = true) ∧
    after (exec (.startUp bistOk) owing) (fun t => t == owing) = true ∧
    after (exec (.startUp { bistOk with forgone := true }) owing) (fun t => t.e.power.t0 && !t.e.owesReply) = true :=
  ⟨⟨⟨rfl, rfl, rfl⟩, by decide +kernel⟩, by decide +kernel⟩

theorem wit_start_up_entry : let s := pw fun p => { p with t0 := false, entry := some (.reset 3), estate := 0 }
    s.settled ∧ (s.e.power.estate ≠ 3 ∧ s.e.power.t0 = false ∧ s.e.health.burning = [] ∧ s.e.owesReply = false ∧
      s.e.power.entry = some (.reset 3) ∧ s.e.power.fromE3 = false) ∧
    after (exec (.startUp bistOk) s) (fun t => t.e.power.resetCount == 2 && t.e.power.resetCause == 3 && t.e.power.t0 && !t.e.ready) = true :=
  ⟨⟨rfl, rfl, rfl⟩, by decide +kernel⟩

theorem wit_ready : let s := st fun e => { e with ready := false }
    s.settled ∧ (s.e.power.t0 = true ∧ s.e.power.estate ≠ 3 ∧ s.e.ready = false ∧
      (∀ l ∈ s.e.link.slinks, l.enabled = true → l.st = 3 ∨ l.st = 5 ∨ l.st = 6) ∧ s.e.vacant = []) ∧
    after (exec .readyRise s) (fun t => t.e.ready && t.e.health == s.e.health && t.e.link == s.e.link) = true := ⟨⟨rfl, rfl, rfl⟩, by decide +kernel⟩

theorem wit_ready_vacant : let s := st fun e => { e with ready := false, pods := e.pods.map fun d => { d with svc := .retired, lpos := none } }
    s.settled ∧ (s.e.vacant ≠ []) ∧ after (exec .readyRise s) (fun t => t.e.ready && t.e.health.exPods) = true := ⟨⟨rfl, rfl, rfl⟩, by decide +kernel⟩

theorem wit_ready_waits : let s := st fun e => { e with
      ready := false, link := { e.link with slinks := lset e.link.slinks 1 fun l => { l with enabled := true, st := 1 } } }
    s.settled ∧ (∃ l ∈ s.e.link.slinks, l.enabled = true ∧ l.st ≠ 3 ∧ l.st ≠ 5 ∧ l.st ≠ 6) ∧
    after (exec .readyRise s) (fun t => t == s) = true := ⟨⟨rfl, rfl, rfl⟩, by decide +kernel⟩

/-! ### Periodic events, pods, fuses -/

theorem wit_screen_spacing : let s := st fun e => { e with cue := 0x100000 * 2 ^ 20 }
    s.settled ∧ (s.e.runs = true ∧ s.e.health.screenSpacing ≠ 0 ∧ s.e.health.screenTurn = none ∧
      s.e.health.screenSince + s.e.health.screenSpacing.toNat * 2 ^ 20 ≤ s.e.cue) ∧
    after (exec .screenSpacingExpiry s) (fun t => t.e.health.screenDue && t.e.health.screenSince == s.e.health.screenSince) = true :=
  ⟨⟨rfl, rfl, rfl⟩, by decide +kernel⟩

theorem wit_screen_spacing_early : (base.e.health.screenSpacing = 0 ∨
      base.e.cue < base.e.health.screenSince + base.e.health.screenSpacing.toNat * 2 ^ 20) ∧
    after (exec .screenSpacingExpiry base) (fun t => t == base) = true := by decide +kernel

theorem wit_screen_spacing_on_its_way : let s := st fun e => { e with
      cue := 0x100000 * 2 ^ 20, health := { e.health with screenTurn := some 3 }
      pods := e.pods.modify 3 fun d => { d with svc := .draining, why := some .screen } }
    (s.e.health.screenTurn = some 3 ∧ (s.e.pod 3).why = some .screen) ∧
    after (exec .screenSpacingExpiry s) (fun t => t == s) = true := by decide +kernel

theorem wit_reel : let s := st fun e => { e with cue := 40, cnt := [(3, 5)], health := { e.health with reelDue := some 40, reelNumber := 9 } }
    s.settled ∧ (s.e.runs = true ∧ s.e.health.reelDue = some s.e.cue ∧ s.e.health.reelLast = none) ∧
    after (exec .reelBoundaryInterval s) (fun t => t.e.health.reelNumber == 10 && t.e.daily == [(3, 5)] && t.e.cnt == [] &&
      fld (leNat t.e.health.header) 0 64 == 9 && fld (leNat t.e.health.header) 128 64 == 40 && fld (leNat t.e.health.header) 192 32 == 0 &&
      fld (leNat t.e.health.header) 224 8 == 2 && t.e.health.reelStart == 40 && t.e.place == s.e.place && t.e.chan == s.e.chan) = true :=
  ⟨⟨rfl, rfl, rfl⟩, by decide +kernel⟩

theorem wit_reel_not_due : base.e.health.reelDue ≠ some base.e.cue ∧
    after (exec .reelBoundaryInterval base) (fun t => t == base) = true := by decide +kernel

/-- Pod 32 in OUT, armed for a screen test at this cue value. -/
def armed : State := hl fun h => { h with screenArmed := some (32, 0) }

theorem wit_screen_start : armed.settled ∧ (armed.e.runs = true ∧ armed.e.health.screenArmed = some (32, armed.e.cue) ∧
      (armed.e.pod 32).svc = .out ∧ (armed.e.pod 32).task = .idle ∧ armed.e.droop = false ∧ ∀ x ∈ armed.e.place.trans, x.pod ≠ 32) ∧
    after (exec (.screenTestStart 32) armed) (fun t => t.e.health.screenArmed == none && (t.e.pod 32).svc == .screenTest &&
      (t.e.pod 32).task == .testing && (t.e.pod 32).stress == armed.e.nextStress 32 && t.e.pod 31 == armed.e.pod 31 &&
      t.e.place == armed.e.place && t.e.stage == armed.e.stage) = true := ⟨⟨rfl, rfl, rfl⟩, by decide +kernel⟩

theorem wit_screen_start_periodic : let s : State := { armed with e := { armed.e with
      cue := 0,
      pods := armed.e.pods.modify 32 fun d => { d with why := some .screen },
      health := { armed.e.health with screenTurn := some 32, screenSince := 5 } } }
    (s.e.health.screenTurn = some 32 ∧ (s.e.pod 32).why = some .screen ∧ s.e.health.screenArmed = some (32, s.e.cue)) ∧
    after (exec (.screenTestStart 32) s) (fun t => t.e.health.screenSince == 0) = true := by decide +kernel

/-- Pod 32 at work on its screen test. -/
def testing : State := pd 32 fun d => { d with svc := .screenTest, task := .testing }

theorem wit_screen_end : testing.settled ∧ (testing.e.runs = true ∧ (testing.e.pod 32).svc = .screenTest ∧
      (testing.e.pod 32).task = .testing ∧ (testing.e.pod 32).vreq = (testing.e.pod 32).vack) ∧
    after (exec (.screenTestEnd 32 []) testing) (fun t => (t.e.pod 32).svc == .out && (t.e.pod 32).task == .idle && (t.e.pod 32).tested &&
      !(t.e.pod 32).faulted && (t.e.pod 32).screen == screenResult 0 0 true false 0 && t.e.stage == testing.e.stage) = true :=
  ⟨⟨rfl, rfl, rfl⟩, by decide +kernel⟩

theorem wit_screen_repair : ([5] ≠ [] ∧ [5].Nodup ∧ (∀ c ∈ [5], c < 132) ∧ (testing.e.pod 32).repairable [5] = true) ∧
    after (exec (.screenTestEnd 32 [5]) testing) (fun t => (t.e.pod 32).svc == .screenTest &&
      (t.e.pod 32).spares == ((testing.e.pod 32).repair [5]).spares && t.e.health.log.contains (faultEntry 0x40 0 32 0 none false 0)) = true := by
  decide +kernel

theorem wit_screen_retire : ([1, 2, 3, 4, 5].Nodup ∧ (∀ c ∈ [1, 2, 3, 4, 5], c < 132) ∧ (testing.e.pod 32).repairable [1, 2, 3, 4, 5] = false) ∧
    after (exec (.screenTestEnd 32 [1, 2, 3, 4, 5]) testing) (fun t => (t.e.pod 32).svc == .retired &&
      t.e.health.log.contains (faultEntry 0x39 0 32 0 none false 0) && t.e.health.log.contains (faultEntry 0x40 0 32 0 none false 0)) = true := by
  decide +kernel

/-- Pod 33 in OUT at work on its built-in test. -/
def inBist : State := pd 33 fun d => { d with task := .bist, version := 0 }

theorem wit_bist_done : inBist.settled ∧ (inBist.e.runs = true ∧ (inBist.e.pod 33).svc = .out ∧ (inBist.e.pod 33).task = .bist ∧
      (inBist.e.pod 33).vreq = (inBist.e.pod 33).vack) ∧
    after (exec (.podBistDone 33 []) inBist) (fun t => (t.e.pod 33).svc == .out && (t.e.pod 33).task == .idle && (t.e.pod 33).version == 7 &&
      !(t.e.pod 33).faulted && (t.e.pod 33).pgood) = true := ⟨⟨rfl, rfl, rfl⟩, by decide +kernel⟩

theorem wit_bist_fails : ([1, 2, 3, 4, 5].Nodup ∧ (inBist.e.pod 33).repairable [1, 2, 3, 4, 5] = false ∧ 33 < 34) ∧
    after (exec (.podBistDone 33 [1, 2, 3, 4, 5]) inBist) (fun t => (t.e.pod 33).faulted && (t.e.pod 33).lpos == none) = true := by
  decide +kernel

/-- Pod 33 in OUT while it loads an update, the last that waits. -/
def loading : State := st fun e => { e with
  pods := e.pods.modify 33 fun d => { d with task := .loading, version := 3 }
  health := { e.health with updQueue := [33], updBusy := true, updDone := 33 } }

theorem wit_update_done : loading.settled ∧ (loading.e.runs = true ∧ (loading.e.pod 33).svc = .out ∧ (loading.e.pod 33).task = .loading ∧
      (loading.e.pod 33).vreq = (loading.e.pod 33).vack) ∧
    after (exec (.builtinUpdatePodDone 33 []) loading) (fun t => (t.e.pod 33).svc == .out && (t.e.pod 33).task == .idle &&
      (t.e.pod 33).version == 7 && t.e.health.updDone == 34 && t.e.health.updQueue == [] && !t.e.health.updBusy) = true :=
  ⟨⟨rfl, rfl, rfl⟩, by decide +kernel⟩

theorem wit_update_fails : after (exec (.builtinUpdatePodDone 33 [4]) loading) (fun t => (t.e.pod 33).svc == .retired) = true := by
  decide +kernel

theorem wit_fuse_burn : let s := hl fun h => { h with burning := [6, 8], fuses := [1], fusesUsed := 1 }
    s.settled ∧ s.e.health.burning ≠ [] ∧
    after (exec (.fuseBurnComplete true) s) (fun t => t.e.health.fuses == [1, 6, 8] && t.e.health.fusesUsed == 3) = true ∧
    after (exec (.fuseBurnComplete false) s) (fun t => t.e.health.fuses == [1] && t.e.health.fusesUsed == 3 && t.e.health.burnFailed) = true :=
  ⟨⟨rfl, rfl, rfl⟩, by decide +kernel⟩

theorem wit_vack : let s := pd 5 fun d => { d with vreq := true, voff := 1, vwant := 2 }
    s.settled ∧ (s.e.runs = true ∧ (s.e.pod 5).vreq ≠ (s.e.pod 5).vack ∧ (s.e.pod 5).vwant ≠ (s.e.pod 5).voff) ∧
    after (exec (.podVack 5) s) (fun t => (t.e.pod 5).vack && (t.e.pod 5).voff == 2 && !(t.e.pod 5).vreq) = true := ⟨⟨rfl, rfl, rfl⟩, by decide +kernel⟩

theorem wit_vack_settled : let s := pd 5 fun d => { d with vreq := true, voff := 2, vwant := 2 }
    ((s.e.pod 5).vreq ≠ (s.e.pod 5).vack ∧ (s.e.pod 5).vwant = (s.e.pod 5).voff) ∧
    after (exec (.podVack 5) s) (fun t => (t.e.pod 5).vack && (t.e.pod 5).vreq && t.e.pod 6 == s.e.pod 6) = true := by decide +kernel

/-- Whether pod `n` has been pulled with fault code `c`. -/
def pulled (n : Nat) (c : BitVec 8) (v : PodSvc) (t : State) : Bool :=
  (t.e.pod n).lpos == none && (t.e.pod n).faulted && (t.e.pod n).svc == v &&
    t.e.health.log.any fun x => x.extractLsb' 0 8 == c && x.extractLsb' 16 8 == BitVec.ofNat 8 n

theorem wit_pod_faults : base.settled ∧ (base.e.runs = true ∧ 4 < 34 ∧ (base.e.pod 4).svc ≠ .retired ∧ (base.e.pod 4).pwrReq = true ∧
      base.e.serves 4 = true) ∧
    after (exec (.podPgoodFall 4) base) (pulled 4 0x41 .out) = true ∧ after (exec (.podFault 4 .clock 0) base) (pulled 4 0x41 .out) = true ∧
    after (exec (.podFault 4 .store 0) base) (pulled 4 0x41 .out) = true ∧
    after (exec (.podFault 4 .residue 9) base) (pulled 4 0x10 .out) = true ∧
    after (exec (.podFault 4 .powerGood 9) base) (pulled 4 0x41 .out) = true := ⟨⟨rfl, rfl, rfl⟩, by decide +kernel⟩

theorem wit_pod_fault_retires : let s := pd 4 fun d => { d with passed := true, vreq := true }
    ((s.e.pod 4).svc ≠ .retired ∧ (s.e.pod 4).vreq ≠ (s.e.pod 4).vack) ∧
    after (exec (.podVackTimeout 4) s) (pulled 4 0x41 .retired) = true := by decide +kernel

theorem wit_join : let s := st fun e => { e with
      pods := e.pods.modify 3 fun d => { d with svc := .out, lpos := none }
      place := { e.place with trans := [⟨0, 32, some 3⟩] } }
    s.settled ∧ (s.e.runs = true ∧ s.e.place.trans.find? (fun t => t.pod == 32 && t.cue == s.e.cue) = some ⟨0, 32, some 3⟩ ∧
      (s.e.pod 32).svc = .out ∧ (s.e.pod 32).task = .idle ∧ (s.e.pod 32).faulted = false ∧ (s.e.pod 32).pgood = true ∧
      s.e.health.screenArmed = none ∧ s.e.served 3 = false ∧ 3 ∉ s.e.stage.withdrawn) ∧
    after (exec (.serviceTransition 32) s) (fun t => (t.e.pod 32).svc == .inService && (t.e.pod 32).lpos == some 3 && t.e.place.trans == []) =
      true := ⟨⟨rfl, rfl, rfl⟩, by decide +kernel⟩

/-- Pod 3 has drained and leaves at this cue value. -/
def leaving : State := st fun e => { e with
  pods := e.pods.modify 3 fun d => { d with svc := .draining }
  place := { e.place with trans := [⟨0, 3, none⟩] } }

theorem wit_leave : leaving.settled ∧ (leaving.e.place.trans.find? (fun t => t.pod == 3 && t.cue == leaving.e.cue) = some ⟨0, 3, none⟩ ∧
      (leaving.e.pod 3).lpos = some 3 ∧ (leaving.e.pod 3).svc = .draining ∧ leaving.e.freePod = some 32) ∧
    after (exec (.serviceTransition 3) leaving) (fun t => (t.e.pod 3).svc == .out && (t.e.pod 3).lpos == none &&
      (t.e.pod 32).svc == .inService && (t.e.pod 32).lpos == some 3) = true := ⟨⟨rfl, rfl, rfl⟩, by decide +kernel⟩

theorem wit_leave_no_spare : let s : State := { leaving with e := { leaving.e with
      pods := (leaving.e.pods.modify 32 fun d => { d with svc := .retired }).modify 33 fun d => { d with svc := .retired } } }
    s.e.freePod = none ∧ after (exec (.serviceTransition 3) s) (fun t => (t.e.pod 3).svc == .out && t.e.health.exPods) = true := by
  decide +kernel

theorem wit_rotate : let s := hl fun h => { h with screenDue := true }
    s.settled ∧ (∃ n < 34, s.e.rotationDue n .screen = true ∧ (s.e.pod n).svc = .inService) ∧ ((∀ d ∈ s.e.pods, d.why = none) ∧
      s.e.sparesAllow = true ∧ s.e.health.exPods = false ∧ s.e.place.slates = []) ∧
    after (exec (.podRotationRequest 0 .screen) s) (fun t => (t.e.pod 0).svc == .draining && (t.e.pod 0).why == some .screen &&
      (t.e.pod 0).lpos == some 0) = true := ⟨⟨rfl, rfl, rfl⟩, by decide +kernel⟩

/-! ### Fabric ports, Splice links, memory and vector ports -/

/-- A packet of header `h` and data `d` on its way in from `via`. -/
def inPkt (via : Via) (h : PktHdr) (d : List Byte) : InPkt := ⟨via, ⟨h, d, []⟩⟩

/-- A CAPS of this generation; `kind` is 1 from a fabric port, 0 from a Splice link. -/
def capsData (kind : Nat) : List Byte := leBytes 32 (4 + kind * 2 ^ 8 + 77 * 2 ^ 16)

/-- A state whose inbox holds one packet. -/
def boxed (via : Via) (h : PktHdr) (d : List Byte) (f : Eng → Eng) : State :=
  st fun e => f { e with link := { e.link with inbox := [inPkt via h d] } }

/-- Splice link `n` changed. -/
def sl (n : Nat) (f : SLink → SLink) (e : Eng) : Eng := { e with link := { e.link with slinks := e.link.slinks.modify n f } }

/-- Fabric port `j` changed. -/
def fp (j : Nat) (f : FPort → FPort) (e : Eng) : Eng := { e with link := { e.link with fports := e.link.fports.modify j f } }

theorem wit_ni_ready : base.settled ∧ (2 < 4 ∧ base.e.link.fports[2]? = some FPort.reset ∧ base.e.coreOn = true) ∧
    after (exec (.niReadyRise 2) base) (fun t => t.e.link.fports[2]? ==
      some { FPort.reset with
        niReady := true, st := 1, sent := fabricFlits 3 (base.e.capsPacket 64).units, arb := FPort.reset.arb.note 3 }) = true := ⟨⟨rfl, rfl, rfl⟩, by decide +kernel⟩

theorem wit_ni_ready_early : State.reset.settled ∧ (State.reset.e.coreOn = false ∧ State.reset.e.link.fports[2]? = some FPort.reset) ∧
    after (exec (.niReadyRise 2) State.reset) (fun t => t.e.link.fports[2]? == some { FPort.reset with niReady := true }) = true :=
  ⟨⟨rfl, rfl, rfl⟩, by decide +kernel⟩

/-- A fabric port and a Splice link that wait for CAPS, with one from each. -/
def waitCaps (k : Nat) : State := st fun e => fp 1 (fun p => { p with st := 1 }) (sl 0 (fun l => { l with st := 2 })
  { e with link := { e.link with
      inbox := [inPkt (.fabric 1) { hdr0 with cls := 4 } (capsData k), inPkt (.splice 0) { hdr0 with cls := 4 } (capsData k)] } })

theorem wit_caps_fabric : let s := waitCaps 1
    s.settled ∧ (s.e.coreOn = true ∧ (s.e.remote.ops = [] ∧ s.e.coll.colls = []) ∧ s.e.link.fports[1]? = some { FPort.reset with st := 1 } ∧
      s.e.inFirst (.fabric 1) (fun x => x.hdr.cls == 4) = some ⟨{ hdr0 with cls := 4 }, capsData 1, []⟩ ∧ 32 ≤ (capsData 1).length ∧
      (capsData 1)[0]? = some 4 ∧ ((capsData 1)[1]?).map (fun b => b.getLsbD 0) = some true) ∧
    after (exec (.caps (.fabric 1)) s) (fun t => (t.e.link.fports[1]?).map FPort.st == some 2 && t.e.link.inbox.length == 1) = true ∧
    after (exec (.caps (.splice 0)) s) (fun t => (t.e.link.slinks[0]?).map SLink.st == some 5) = true := ⟨⟨rfl, rfl, rfl⟩, by decide +kernel⟩

theorem wit_caps_splice : let s := waitCaps 0
    s.settled ∧ (s.e.coreOn = true ∧ s.e.link.slinks[0]? = some { SLink.reset with st := 2 } ∧
      s.e.inFirst (.splice 0) (fun x => x.hdr.cls == 4) = some ⟨{ hdr0 with cls := 4 }, capsData 0, []⟩ ∧
      (capsData 0)[0]? = some 4 ∧ ((capsData 0)[1]?).map (fun b => b.getLsbD 0) = some false) ∧
    after (exec (.caps (.splice 0)) s) (fun t => (t.e.link.slinks[0]?).map (fun l => (l.st, l.pid)) == some (3, 77)) = true ∧
    after (exec (.caps (.fabric 1)) s) (fun t => (t.e.link.fports[1]?).map FPort.st == some 3) = true := ⟨⟨rfl, rfl, rfl⟩, by decide +kernel⟩

/-- A fabric port that is UP, with a flit that waits on VC 1. -/
def upPort : FPort := { FPort.reset with st := 2, txq := [[], [⟨1, true, true, []⟩], [], []] }

theorem wit_flit : let s := st (fp 1 fun _ => upPort)
    (s.e.coreOn = true ∧ s.e.link.fports[1]? = some upPort ∧ (upPort.st = 1 ∨ upPort.st = 2) ∧ 1 < 4 ∧ upPort.rx.length = 4 ∧
      upPort.freed.length = 4) ∧
    after (exec (.fabricFlitReceive 1 ⟨1, true, false, [[1], [2]]⟩) s) (fun t =>
      (t.e.link.fports[1]?).map (fun p => p.rx[1]?) == some (some [[1], [2]]) && t.e.link.inbox == []) = true ∧
    after (exec (.fabricFlitReceive 1 ⟨1, false, true, [[1]]⟩) s) (fun t =>
      (t.e.link.fports[1]?).map (fun p => (p.rx[1]?, p.freed[1]?)) == some (some [], some 1)) = true := by decide +kernel

theorem wit_fabric_credit : let s := st (fp 1 fun _ => upPort)
    (s.e.coreOn = true ∧ s.e.link.fports[1]? = some upPort ∧ upPort.credits.length = 4 ∧ upPort.txq.length = 4 ∧ upPort.st = 2) ∧
    after (exec (.fabricCredit 1 0b0011) s) (fun t =>
      (t.e.link.fports[1]?).map (fun p => (p.credits, p.txq)) == some ([1, 0, 0, 0], [[], [], [], []])) = true := by decide +kernel

theorem wit_fabric_credit_down : let s := st (fp 1 fun _ => { upPort with st := 3 })
    ((s.e.link.fports[1]?).map FPort.st ≠ some 2) ∧
    after (exec (.fabricCredit 1 0b0011) s) (fun t =>
      (t.e.link.fports[1]?).map (fun p => (p.credits, p.txq)) == some ([1, 1, 0, 0], upPort.txq)) = true := by decide +kernel

theorem wit_fabric_full : let p := { upPort with held := [64, 0, 0, 0] }
    (p.st = 2 ∧ 64 ≤ p.held.getD 0 0) ∧
    after (exec (.fabricFlitReceive 1 ⟨0, true, false, []⟩) (st (fp 1 fun _ => p))) (fun t => t.e == (st (fp 1 fun _ => p)).e) = true := by
  decide +kernel

/-- A Splice link that is UP and expects number 9, with one flit in its replay buffer. -/
def upLink : SLink := { SLink.reset with st := 3, enabled := true, exp := 9, seq := 5, buf := [⟨4, 0, [], 0, 0, 3⟩] }

/-- A DATA flit of 320 bytes with sequence number `q` and no units. -/
def flit320 (q : Nat) : List Byte :=
  let b := leBytes 16 (1 + q * 2 ^ 8) ++ List.replicate 300 0
  b ++ leBytes 4 (crc32c b)

theorem wit_splice_in_sequence : let s := st (sl 2 fun _ => upLink)
    (s.e.coreOn = true ∧ s.e.link.slinks[2]? = some upLink ∧ (flit320 9).length = 320 ∧
      crc32c ((flit320 9).take 316) = leNat ((flit320 9).drop 316) ∧ fld (leNat ((flit320 9).take 16)) 0 4 = 1 ∧
      fld (leNat ((flit320 9).take 16)) 8 12 = upLink.exp) ∧
    after (exec (.spliceFlitReceive 2 (flit320 9)) s) (fun t =>
      (t.e.link.slinks[2]?).map (fun l => (l.exp, l.accepted)) == some (10, true)) = true := by decide +kernel

theorem wit_splice_out_of_sequence : let s := st (sl 2 fun _ => upLink)
    (crc32c ((flit320 8).take 316) = leNat ((flit320 8).drop 316) ∧ fld (leNat ((flit320 8).take 16)) 8 12 ≠ upLink.exp) ∧
    after (exec (.spliceFlitReceive 2 (flit320 8)) s) (fun t => (t.e.link.slinks[2]?).map SLink.exp == some 9 && t.e.link.inbox == []) =
      true := by decide +kernel

theorem wit_splice_crc : let s := st (sl 2 fun _ => upLink)
    let b := lset (flit320 9) 100 fun x => x ^^^ 1
    (b.length = 320 ∧ crc32c (b.take 316) ≠ leNat (b.drop 316)) ∧
    after (exec (.spliceFlitReceive 2 b) s) (fun t => (t.e.link.slinks[2]?).map (fun l => (l.exp, l.rx)) == some (9, upLink.rx)) = true := by
  decide +kernel

theorem wit_replay : let s := st (sl 2 fun _ => upLink)
    (upLink.buf ≠ [] ∧ ∀ f ∈ upLink.buf, f.resends < 16) ∧
    after (exec (.spliceReplayTimeout 2) s) (fun t => (t.e.link.slinks[2]?).map (fun l => (l.st, l.seq, l.sent.length, l.buf.map SFlit.resends)) ==
      some (3, 5, 1, [4])) = true := by decide +kernel

theorem wit_replay_retrain : let l := { upLink with buf := [⟨4, 0, [], 0, 0, 16⟩] }
    (∃ f ∈ l.buf, 16 ≤ f.resends) ∧
    after (exec (.spliceReplayTimeout 2) (st (sl 2 fun _ => l))) (fun t =>
      (t.e.link.slinks[2]?).map (fun l => (l.st, l.re, l.seq, l.sent)) == some (4, true, 5, [])) = true := by decide +kernel

theorem wit_idle_flit : let s := st (sl 2 fun _ => upLink)
    (s.pending = [] ∧ upLink.caps = none ∧ upLink.txq = [[], [], [], []]) ∧
    after (step s) (fun t => (t.e.link.slinks[2]?).map (fun l => (l.sent.length, l.seq, l.exp)) == some (1, 5, 9)) = true := by decide +kernel

theorem wit_training_done : let l := { SLink.reset with st := 1, enabled := true }
    (l.re = false ∧ 1 ≤ 6 ∧ 6 ≤ 6 ∧ rateOf 6 ≤ l.rateMax.toNat) ∧
    after (exec (.linkTrainingDone 2 6 2 0) (st (sl 2 fun _ => l))) (fun t =>
      (t.e.link.slinks[2]?).map (fun l => (l.st, l.rate, l.ucie, l.seq, l.exp, l.buf.length, l.sent.length)) == some (2, 6, 2, 1, 0, 1, 1)) =
      true := by decide +kernel

theorem wit_retraining_done : let l := { upLink with st := 4, re := true }
    ((l.st = 1 ∨ l.st = 4) ∧ l.re = true ∧ rateOf 1 ≤ l.rateMax.toNat ∧ rateOf 1 ≤ 16 ∧ ∀ f ∈ l.buf, f.resends < 16) ∧
    after (exec (.linkTrainingDone 2 1 1 0) (st (sl 2 fun _ => l))) (fun t =>
      (t.e.link.slinks[2]?).map (fun l => (l.st, l.exp, l.seq, l.sent.length)) == some (2, 9, 6, 2)) = true := by decide +kernel

theorem wit_training_timeout : let l := { SLink.reset with st := 4, enabled := true }
    (l.re = false ∧ (l.st = 1 ∨ l.st = 2 ∨ l.st = 4)) ∧
    after (exec (.linkTrainingTimeout 2) (st (sl 2 fun _ => l))) (fun t => t.e.link.slinks[2]? == some { l with st := 6 }) = true := by
  decide +kernel

theorem wit_training_retry : let l := { SLink.reset with st := 6, enabled := true }
    (l.st = 6 ∧ l.enabled = true) ∧
    after (exec (.linkTrainingRetry 2) (st (sl 2 fun _ => l))) (fun t => t.e.link.slinks[2]? == some { l with st := 1 }) = true := by
  decide +kernel

theorem wit_link_down : let l := { upLink with st := 4, re := true, idv := true, pid := 6 }
    let s := boxed (.splice 2) hdr0 [] (sl 2 fun _ => l)
    (l.re = true ∧ s.e.remote.ops = [] ∧ s.e.coll.colls = []) ∧
    after (exec (.linkDown 2) s) (fun t => (t.e.link.slinks[2]?).map (fun l => (l.st, l.re, l.buf, l.seq, l.exp)) == some (1, false, [], 0, 0) &&
      t.e.link.inbox == []) = true ∧
    after (exec (.linkTrainingTimeout 2) s) (fun t => (t.e.link.slinks[2]?).map SLink.st == some 1) = true := by decide +kernel

/-- Memory port `n` changed. -/
def mp (n : Nat) (f : MemPort → MemPort) (e : Eng) : Eng := { e with mports := e.mports.modify n f }

/-- A read of line 0 outstanding at port 0 under tag 3, for a buffer line of position 1. -/
def reading : State := withMem (st fun e => mp 0 (fun p => { p with rd := [⟨3, 0, 0b00000110, 0, 1, 0, .a, 4, 5⟩] })
  { e with place := { e.place with bufs := [⟨1, 0, .a, 0, 0b00000110, [], false, 0, []⟩] } }) [(40, 7)]

theorem wit_read_beat : reading.settled ∧ ((reading.e.port 0).rd.find? (fun r => r.tag == 3) = some ⟨3, 0, 0b00000110, 0, 1, 0, .a, 4, 5⟩ ∧
      (∃ j < 4, Nat.testBit 0b00000110 (4 * b2n false + j) = true) ∧ reading.e.buf? 1 0 .a 0 = some ⟨1, 0, .a, 0, 0b00000110, [], false, 0, []⟩) ∧
    after (exec (.memoryReadBeat 0 3 false 0 []) reading) (fun t => (t.e.buf? 1 0 .a 0).any fun b =>
      nget? b.units 1 == some (rdBytes reading.rd 32 32) && nget? b.units 2 == some (rdBytes reading.rd 64 32) && !b.token) = true :=
  ⟨⟨rfl, rfl, rfl⟩, by decide +kernel⟩

theorem wit_read_err : let r : RdReq := ⟨3, 0, 0b100, 0, 1, 0, .a, 4, 5⟩
    let s := st fun e => mp 0 (fun p => { p with rd := [r] }) { e with place := { e.place with bufs := [⟨1, 0, .a, 0, 4, [], false, 0, []⟩] } }
    (s.e.power.entry = none ∧ r.mask = 2 ^ (4 * b2n false + 2) ∧ (4 : BitVec 4).getLsbD 2 = true ∧ r.again.testBit 2 = false) ∧
    after (exec (.memoryReadBeat 0 3 false 4 []) s) (fun t => t.e.count 53 == 1 &&
      ((t.e.port 0).rq ++ (t.e.port 0).rd).any fun x => x.mask == 4 && x.again == 4) = true := by decide +kernel

theorem wit_read_err_again : let r : RdReq := ⟨3, 0, 0b100, 4, 1, 0, .a, 4, 5⟩
    let s := st fun e => mp 0 (fun p => { p with rd := [r] }) { e with
      place := { e.place with bufs := [⟨1, 0, .a, 0, 4, [], false, 0, []⟩] }
      chan := { e.chan with cmds := [Cmd.fetched 4 5 0x01 (ChanEntry.ofNat 0)] } }
    (r.again.testBit 2 = true) ∧
    after (exec (.memoryReadBeat 0 3 false 4 []) s) (fun t => t.e.count 53 == 1 &&
      (t.e.cmd? 4 5).map (fun x => (x.ending, x.res.status)) == some (true, 0x21)) = true := by decide +kernel

/-- A write of a command outstanding at port 0 under tag 2. -/
def writing : State := st fun e => mp 0 (fun p => { p with wr := [⟨2, .cmd 4 5, [64, 65]⟩] })
  { e with chan := { e.chan with cmds := [Cmd.fetched 4 5 0x30 (ChanEntry.ofNat 0)] } }

theorem wit_write_ack : writing.Inv ∧ (writing.e.lost = false ∧ (writing.e.port 0).wr.find? (fun x => x.tag == 2) = some ⟨2, .cmd 4 5, [64, 65]⟩ ∧
      (writing.e.port 0).wq = [] ∧ (writing.e.port 0).late = [] ∧ writing.e.power.entry = none ∧ (writing.e.port 0).rq = [] ∧ writing.e.remote.ops = [] ∧ writing.e.remote.tgts = [] ∧
      writing.e.coll.colls = [] ∧ (∀ c ∈ writing.e.chan.chans, c.2.rst = 0) ∧ [64, 65].Nodup ∧ (∀ x ∈ [64, 65], x < 2 ^ 64) ∧
      (writing.e.cmd? 4 5).isSome = true) ∧
    after (exec (.memoryWriteAck 0 2 false) writing) (fun t => (t.e.port 0).wr == [] && t.e.chan == writing.e.chan) = true ∧
    after (exec (.memoryWriteAck 0 2 true) writing) (fun t => (t.e.port 0).wr == [] &&
      (t.e.cmd? 4 5).map (fun x => (x.ending, x.res.status)) == some (true, 0x21)) = true :=
  ⟨⟨by decide, by decide, rfl, rfl⟩, by decide +kernel⟩

theorem wit_write_ack_later : let s := st (mp 0 fun p => { p with wr := [⟨2, .cmd 4 5, [64]⟩], wq := [(.none, [(64, 9)])] })
    ((s.e.port 0).wr.find? (fun x => x.tag == 2) = some ⟨2, .cmd 4 5, [64]⟩ ∧ (s.e.port 0).wq = [(.none, [(64, 9)])] ∧
      (s.e.port 0).late = [] ∧ (s.e.port 0).rq = []) := by decide +kernel

theorem wit_memory_credit : let s := st (mp 31 fun p => { p with wq := [(.none, [(256, 1)])] })
    s.settled ∧ (s.e.coreOn = true ∧ 31 < 32 ∧ 31 < s.e.mports.length) ∧
    after (exec (.memoryCredit 31 true) s) (fun t => (t.e.port 31).wrCred == 0 && (t.e.port 31).wr.length == 1) = true ∧
    after (exec (.memoryCredit 31 false) s) (fun t => (t.e.port 31).rdCred == 5 && (t.e.port 31).wr.length == 0) = true :=
  ⟨⟨rfl, rfl, rfl⟩, by decide +kernel⟩

theorem wit_write_beats : let s := st (mp 31 fun p => { p with wq := [(.none, [(8064, 1), (8065, 2)])] })
    ((s.e.port 31).late = [] ∧ (s.e.port 31).wrCred = 0 ∧ (s.e.port 31).wr = [] ∧ (s.e.port 31).rd = []) ∧
    after (exec (.memoryCredit 31 true) s) (fun t => (t.e.port 31).beats.map (fun b => (b.line, b.half, b.last, b.be)) ==
      [(31, false, false, 0), (31, true, true, 3)]) = true := by decide +kernel

theorem wit_vp_credit : base.settled ∧ (base.e.coreOn = true ∧ base.e.drain.ports[7]? = some ⟨0, none, 3, []⟩) ∧
    after (exec (.vpCredit 7) base) (fun t => (t.e.drain.ports[7]?).map VPort.credits == some 1) = true ∧
    after (exec (.vpCredit 7) (st fun e => { e with drain := { e.drain with ports := lset e.drain.ports 7 fun p => { p with credits := 256 } } }))
      (fun t => (t.e.drain.ports[7]?).map VPort.credits == some 256) = true := ⟨⟨rfl, rfl, rfl⟩, by decide +kernel⟩

/-! ### The object dictionary, the window, the ring and the tunnel -/

/-- An access answered with result `c` and no other change of the engine. -/
def refusedWith (s : State) (p : Path) (c : Nat) (t : State) : Bool := t.e.result p == c && t.e.sansResults == s.e.sansResults && t.mem == s.mem

/-- An access performed, with the engine `e` after it. -/
def wroteE (s : State) (p : Path) (e : Eng) (t : State) : Bool := t.e.result p == 0 && t.e.sansResults == e.sansResults && t.mem == s.mem

theorem wit_dictionary : base.settled ∧ base.e.opens .window ∧ base.e.opens .ring := by
  unfold State.settled Eng.opens; decide +kernel

theorem wit_access_rights :
    after (exec (.objectWrite .window 0x7777 1 [0]) base) (refusedWith base .window 1) = true ∧
    after (exec (.objectWrite .window 0x1000 3 [0, 0]) base) (refusedWith base .window 2) = true ∧
    after (exec (.objectWrite .window 0x5000 1 [0]) base) (refusedWith base .window 6) = true ∧
    after (exec (.objectWrite .window 0x8030 1 [1]) base) (fun t => t.e.result .window == 4 && t.e.dict.presenceRefusals == 1) = true ∧
    after (exec (.objectWrite .ring 0x5000 1 [33, 0]) base) (refusedWith base .ring 5) = true := by decide +kernel

theorem wit_plain_min : plainReg 0x5000 1 32 := by unfold plainReg; decide +kernel

theorem wit_plain_64 : plainReg 0x5000 1 64 := by unfold plainReg; decide +kernel

theorem wit_plain_bias : plainReg 0x2310 2 (2 ^ 32 - 2048) ∧ plainReg 0x2310 2 2047 := by
  constructor <;> (unfold plainReg; decide +kernel)

theorem wit_plain_limits : plainReg 0x7010 2 15 ∧ plainReg 0x7010 1 1 := by constructor <;> (unfold plainReg; decide +kernel)

theorem wit_plain_write : after (exec (.objectWrite .window 0x2310 2 (leBytes 4 (2 ^ 32 - 2048))) base) (fun t =>
      t.e.result .window == 0 && t.e.objNat 0x2310 2 == 2 ^ 32 - 2048) = true ∧
    after (exec (.objectWrite .ring 0x2310 2 (leBytes 4 2048)) base) (refusedWith base .ring 5) = true := by decide +kernel

theorem wit_win_write : let s := st fun e => { e with dict := { e.dict with winData := 0xFF40 } }
    s.e.dict.winData.toNat % 256 ^ regBytes 0x5000 1 = 65344 ∧
    after (exec (.winWrite 0x5000 1) (st fun e => { e with dict := { e.dict with winData := 0xABC0040 } })) (fun t =>
      t.e.result .window == 0 && t.e.objNat 0x5000 1 == 64 && t.e.dict.winBusy && t.e.dict.winStatus.extractLsb' 8 8 == 0) = true := by
  decide +kernel

theorem wit_win_read : after (exec (.winRead 0x5000 1) base) (fun t => t.e.result .window == 0 && t.e.dict.winData == 0x800 &&
    t.e.dict.winBusy && t.e.dict.winStatus.extractLsb' 8 8 == 0) = true := by decide +kernel

theorem wit_win_segments : let o : ObjHead := ⟨0x2620, 1, 8, 8, 1, 3, 1056⟩
    (base.e.winOff = 0 ∧ findObj 0x2620 8 = some o ∧ 7 ≤ o.typ ∧ o.acc ≠ 2 ∧ o.acc ≠ 0 ∧ o.acc ≠ 4 ∧ base.e.dict.winBuf.length = 256) ∧
    after (exec (.winReadSeg 0x2620 8 256) base) (fun t => t.e.result .window == 0 && (t.e.pathBuf .window).snapObj == some (0x2620, 8) &&
      (t.e.pathBuf .window).snap == base.e.objBytes o 8) = true ∧
    after (exec (.winWriteSeg 0x2620 8 4 false) (st fun e => { e with dict := { e.dict with winBuf := lset e.dict.winBuf 1 fun _ => 9 } }))
      (fun t => t.e.result .window == 0 && (t.e.pathBuf .window).buf == [0, 9, 0, 0] && (t.e.pathBuf .window).bufObj == some (0x2620, 8)) =
        true := by decide +kernel

theorem wit_db : base.settled ∧ (base.e.inService = true ∧ base.e.power.after = 0 ∧ base.e.dict.winReads = false ∧ (0x0F : BitVec 8) ≠ 0xFF) ∧
    after (exec (.dbRequest true 258 0x0F 5) base) (fun t => t.e.count 72 == 1 && t.e.dict == base.e.dict) = true ∧
    after (exec (.dbRequest false 258 0x0F 5) base) (fun t => t.e.count 72 == 1 && t.e.dict.rsp == [(0, true)]) = true ∧
    after (exec (.dbRequest true 258 0xFF 5) base) (fun t => t.e.dict == { base.e.dict with winData := 5 }) = true ∧
    after (exec (.dbRequest true 257 0xFF (2 ^ 32 + 5)) base) (fun t => t.e.dict == { base.e.dict with winOffset := 5 }) = true ∧
    after (exec (.dbRequest false 258 0xFF 0) base) (fun t => t.e.dict.rsp == [(0, false)] && t.e.count 71 == 1) = true := ⟨⟨rfl, rfl, rfl⟩, by decide +kernel⟩

/-- A request frame: CTRL, OP, TAG, object, LEN, payload. -/
def reqFrame (ctrl op index sub len : Nat) (payload : List Byte) : List Byte :=
  frameWith ([BitVec.ofNat 8 ctrl, BitVec.ofNat 8 op, 0x5A, 0] ++ leBytes 2 index ++ [BitVec.ofNat 8 sub, BitVec.ofNat 8 len, 0, 0, 0, 0] ++ payload)

/-- A request that waits for its access. -/
def waiting (f : List Byte) : State := st fun e => { e with ring := { e.ring with queue := [(f, false)], position := 6 } }

/-- The bytes between SOF and the last two characters sent, with the character that ends the frame. -/
def sentFrame (t : State) : List Byte × BitVec 9 :=
  let l := t.e.ring.sent.drop 1
  ((l.take (l.length - 2)).map (BitVec.setWidth 8), l.getD (l.length - 2) 0)

theorem wit_frame_on : let f := reqFrame 5 1 0x5000 1 0 []
    (frameOk f false = true ∧ fb f 0 < 64 ∧ frameOp f ≠ 5 ∧ fb f 0 ≠ 1) ∧
    after (exec (.huasetFrameArrival f false) base) (fun t => t.e.ring.queue == [] && match sentFrame t with
      | (g, 0x102) => frameOk g false && fb g 0 == 4 && (frameBody g).drop 1 == (frameBody f).drop 1
      | _ => false) = true := by decide +kernel

theorem wit_frame_on_wraps : let f := reqFrame 0 1 0x5000 1 0 []
    (frameOk f false = true ∧ fb f 0 < 64 ∧ frameOp f ≠ 5 ∧ fb f 0 ≠ 1) ∧
    after (exec (.huasetFrameArrival f false) base) (fun t => match sentFrame t with
      | (g, 0x102) => frameOk g false && fb g 0 == 63
      | _ => false) = true := by decide +kernel

theorem wit_frame_for_me : let f := reqFrame 1 4 0x5000 1 0 []
    (frameOk f false = true ∧ fb f 0 = 1 ∧ base.e.ring.known f = none ∧ 1 ≤ frameOp f ∧ frameOp f ≤ 4) ∧
    after (exec (.huasetFrameArrival f false) base) (fun t => t.e.ring == { base.e.ring with queue := [(f, false)] }) = true := by decide +kernel

theorem wit_frame_response : let f := reqFrame 0x86 1 0x5000 1 2 [1, 2]
    (frameOk f false = true ∧ 128 ≤ fb f 0) ∧
    after (exec (.huasetFrameArrival f false) base) (fun t => t.e.ring.sent == frameChars f false) = true ∧
    after (exec (.huasetFrameArrival f true) base) (fun t => t.e.ring.sent == frameChars f true && t.e.count 78 == 1) = true := by decide +kernel

theorem wit_enum : let f := reqFrame 63 5 0 0 1 [9]
    (frameOk f false = true ∧ fb f 0 < 128 ∧ frameOp f = 5 ∧ 15 ≤ f.length) ∧
    after (exec (.enum f) base) (fun t => t.e.ring.position == 10 && match sentFrame t with
      | (g, 0x102) => frameOk g false && g.getD 12 0 == 10
      | _ => false) = true := by decide +kernel

theorem wit_ring_sending : let s := st fun e => { e with ring := { e.ring with sending := true, queue := [([1], false)] } }
    (s.settled ∧ s.e.opens .ring) ∧ (s.e.ring.sending = true ∧ s.e.ring.elastic.length < 4) ∧
    after (exec (.huasetFrameArrival [5] true) s) (fun t => t.e.ring.elastic == [([5], true)] && t.e.ring.sent == []) = true ∧
    after (exec .huasetRead s) (fun t => t == s) = true := by unfold State.settled Eng.opens; decide +kernel

theorem test_strobe : strobeChars (false, false) [0x101] = (true, false) ∧ strobeChars (false, false) [0x100] = (true, false) := by
  decide +kernel

theorem wit_ring_read : let f := reqFrame 1 1 0x5000 1 0 []
    let s := waiting f
    s.settled ∧ s.e.opens .ring ∧ s.e.ring.queue = [(f, false)] ∧ s.e.ring.known f = none ∧ frameOp f = 1 ∧ frameObj f = (0x5000, 1) ∧
    after (exec .huasetRead s) (fun t => t.e.ring.queue == [] && t.e.ring.sent == frameChars (frameResponse 6 0 (leBytes 2 0x800) f) false && t.e.ring.sending) = true := by
  unfold State.settled Eng.opens; decide +kernel

theorem wit_ring_write : let f := reqFrame 1 2 0x5000 1 2 [64, 0]
    let s := waiting f
    frameOp f = 2 ∧ frameObj f = (0x5000, 1) ∧ framePayload f = leBytes (regBytes (frameObj f).1 (frameObj f).2) 64 ∧
      fb f 7 = regBytes (frameObj f).1 (frameObj f).2 ∧
    after (exec .huasetWrite s) (fun t => t.e.objNat 0x5000 1 == 64 && t.e.ring.sent == frameChars (frameResponse 6 0 [] f) false &&
      t.e.ring.known f == some (frameResponse 6 0 [] f)) = true := by decide +kernel

theorem wit_ring_read_seg : let f := reqFrame 1 3 0x2620 8 64 []
    let o : ObjHead := ⟨0x2620, 1, 8, 8, 1, 3, 1056⟩
    (findObj (frameObj f).1 (frameObj f).2 = some o ∧ 7 ≤ o.typ ∧ leNat ((f.drop 8).take 4) = 0 ∧ 1 ≤ fb f 7 ∧ fb f 7 ≤ 64 ∧
      frameOp f = 3 ∧ o.acc ≠ 2 ∧ o.index ≠ 0x2F00) ∧
    after (exec .huasetReadSeg (waiting f)) (fun t =>
      t.e.ring.sent == frameChars (frameResponse 6 0 ((base.e.objBytes o 8).take 64) f) false) = true := by decide +kernel

theorem wit_ring_write_seg : let f := reqFrame 1 4 0x2620 8 3 [1, 2, 3]
    (frameOp f = 4 ∧ (framePayload f).length = fb f 7 ∧ bit (fb f 1) 4 = false ∧ leNat ((f.drop 8).take 4) = 0) ∧
    after (exec .huasetWriteSeg (waiting f)) (fun t => (t.e.pathBuf .ring).buf == [1, 2, 3] &&
      (t.e.pathBuf .ring).bufObj == some (0x2620, 8) && t.e.ring.sent == frameChars (frameResponse 6 0 [] f) false) = true := by decide +kernel

/-- A tunnelled request that has arrived at fabric port 1. -/
def tunnelled (f : List Byte) (on : Bool) : State := boxed (.fabric 1) { hdr0 with cls := 3, src := 9 } f fun e =>
  { e with dict := { e.dict with tunnelEnable := on } }

theorem wit_tunnel : let f := reqFrame 1 2 0x5000 1 2 [64, 0]
    let s := tunnelled f true
    s.settled ∧ s.e.opens .tunnel ∧ s.e.power.after = 0 ∧ s.e.portsFree ∧
      s.e.inFirst (.fabric 1) (fun x => x.hdr.cls == 3) = some ⟨{ hdr0 with cls := 3, src := 9 }, f, []⟩ ∧ frameOk f false = true ∧
      fb f 0 < 128 ∧ s.e.ring.known f = none ∧ frameOp f = 2 ∧ frameObj f = (0x5000, 1) ∧
      framePayload f = leBytes (regBytes (frameObj f).1 (frameObj f).2) 64 ∧ fb f 7 = regBytes (frameObj f).1 (frameObj f).2 ∧
    after (exec (.tunnel (.fabric 1)) s) (fun t => t.e.objNat 0x5000 1 == 64 && t.e.count 80 == 1 && t.e.link.inbox == [] &&
      t.e.ring.known f == some (frameResponse 0 0 [] f) &&
      t.e.link == ((s.e.inDrop (.fabric 1) ⟨{ hdr0 with cls := 3, src := 9 }, f, []⟩).sendPacket (.fabric 1)
        (s.e.tunnelPacket 9 (frameResponse 0 0 [] f))).link) = true := by unfold State.settled Eng.opens Eng.portsFree; decide +kernel

theorem wit_tunnel_known : let f := reqFrame 1 2 0x5000 1 2 [64, 0]
    let s := tunnelled f true
    let s2 : State := { s with e := { s.e with ring := s.e.ring.remember f [1] } }
    (s2.e.ring.known f = some [1]) ∧
    after (exec (.tunnel (.fabric 1)) s2) (fun t => t.e.count 79 == 1 && t.e.dict == s2.e.dict) = true := by decide +kernel

theorem wit_tunnel_performs : let f := reqFrame 1 2 0x5000 1 2 [64, 0]
    let s := tunnelled f true
    (1 ≤ frameOp f ∧ frameOp f ≤ 4) ∧
    (((s.e.inDrop (.fabric 1) ⟨{ hdr0 with cls := 3, src := 9 }, f, []⟩).bump 80 1).frameRun s.rd .tunnel f).2.power.after = 0 := by
  decide +kernel

theorem wit_tunnel_dropped : let s := tunnelled [1, 2] true
    (frameOk [1, 2] false = false) ∧ after (exec (.tunnel (.fabric 1)) s) (fun t => t.e.link.inbox == [] && t.e.ring == s.e.ring) = true := by
  decide +kernel

theorem wit_tunnel_off : let f := reqFrame 1 2 0x5000 1 2 [64, 0]
    let s := tunnelled f false
    (s.e.runs = true ∧ s.e.dict.tunnelEnable = false) ∧
    after (exec (.tunnel (.fabric 1)) s) (fun t => t.e.dict == s.e.dict && t.e.link.inbox == []) = true := by decide +kernel

/-! ### Dictionary writes that are events of their own -/

theorem wit_staging : let v : BitVec 32 := 6291456
    (v.toNat % 131072 == 0 && decide (6291456 ≤ v.toNat ∧ v.toNat ≤ 100663296) && (base.e.chan.cmds.all fun m => !m.underWay) &&
      base.e.remote.wins.isEmpty && base.e.coll.colls.isEmpty && base.e.coll.waiting.isEmpty) = true ∧
    after (exec (.stagingBytesWrite .ring v) base) (wroteE base .ring { base.e with stage := { base.e.stage with stagingBytes := v } }) = true ∧
    after (exec (.stagingBytesWrite .ring (v - 131072)) base) (refusedWith base .ring 5) = true ∧
    after (exec (.stagingBytesWrite .ring (v + 1)) base) (refusedWith base .ring 5) = true := by decide +kernel

theorem wit_irq : let s := st fun e => { e with chan := { e.chan with irq := [1, 2, 4, 0xFF] } }
    (1 ≤ 4 ∧ 4 ≤ 4) ∧ after (exec (.irqPendingWrite .window 4 0x0F) s) (wroteE s .window { s.e with chan := { s.e.chan with irq := [1, 2, 4, 0xF0] } }) =
      true ∧ after (exec (.irqPendingWrite .window 1 1) s) (fun t => t.e.chan.irq == [0, 2, 4, 0xFF]) = true := by decide +kernel

theorem wit_group_base : after (exec (.groupTableBaseWrite .window 0x1000) base)
      (wroteE base .window { base.e with coll := { base.e.coll with groupBase := 0x1000, cache := [] } }) = true ∧
    after (exec (.groupTableBaseWrite .window 0x1010) base) (refusedWith base .window 5) = true := by decide +kernel

theorem wit_pos_mask : base.e.place.slates = [] ∧ after (exec (.placePosMaskWrite .window 0xFFFFFFFE) base)
    (wroteE base .window { base.e with place := { base.e.place with posMask := 0xFFFFFFFE } }) = true := by decide +kernel

theorem wit_engine_id : let s := st (sl 2 fun _ => { SLink.reset with st := 3, enabled := true })
    (∀ c ∈ s.e.chan.chans, c.2.state = .disabled) ∧
    after (exec (.engineIdWrite .window 0xFFFF0007) s) (fun t => t.e.result .window == 0 && t.e.link.engineId == 0x10007 &&
      (t.e.link.slinks.map SLink.st) == [0, 0, 3, 0] && (t.e.link.slinks.map fun l => l.sent.length) == [0, 0, 1, 0]) = true := by decide +kernel

/-- A state in which channel 4 is ACTIVE. -/
def active4 : State := st fun e => e.updCh 4 fun c => { c with state := .active }

theorem wit_engine_id_refused : (∃ c ∈ active4.e.chan.chans, c.2.state ≠ .disabled) ∧
    after (exec (.engineIdWrite .window 7) active4) (refusedWith active4 .window 5) = true := by decide +kernel

theorem wit_retrain : let s := st (sl 2 fun _ => upLink)
    (2 < 4 ∧ s.e.link.slinks[2]? = some upLink ∧ upLink.enabled = true ∧ (0 : BitVec 8) ≠ 1) ∧
    after (exec (.slRetrain .ring 2 1) s) (fun t => t.e.result .ring == 0 && t.e.count 66 == 1 &&
      (t.e.link.slinks[2]?).map (fun l => (l.st, l.seq, l.exp, l.sent)) == some (4, 5, 9, [])) = true ∧
    after (exec (.slRetrain .ring 2 0) s) (refusedWith s .ring 5) = true ∧
    after (exec (.slRetrain .ring 3 1) (st (sl 3 fun l => { l with enabled := true, st := 6 }))) (fun t =>
      (t.e.link.slinks[3]?).map SLink.st == some 1) = true := by decide +kernel

theorem wit_engine_reset : after (exec (.engineReset .window 0xE5) active4) (fun t => !t.e.ready && !t.e.power.t0 && t.e.power.resetCause == 3 &&
      t.e.power.resetCount == 2 && t.e.chan == ChanSt.reset && t.e.stage == Stage.reset && t.e.place == Place.reset) = true ∧
    after (exec (.engineReset .window 0xE4) active4) (refusedWith active4 .window 5) = true := by decide +kernel

theorem wit_e3 : (base.e.chan.cmds = [] ∧ base.e.coll.colls = [] ∧ base.e.coll.waiting = [] ∧ base.e.health.burning = [] ∧
      base.e.health.updBusy = false) ∧
    after (exec (.e3Enter .window 0xE3) base) (fun t => !t.e.ready && t.e.power.estate == 3 && t.e.power.resetCount == 1) = true := by
  decide +kernel

theorem wit_resets_owed : let s := st fun e => mp 0 (fun p => { p with rd := [⟨3, 0, 0b110, 0, 1, 0, .a, 4, 5⟩] }) e
    (s.e.owesReply = true) ∧
    after (exec (.engineReset .window 0xE5) s) (fun t => !t.e.ready && t.e.power.entry == some (.reset 3) && t.e.power.resetCount == 1) = true ∧
    after (exec (.e3Enter .window 0xE3) s) (fun t => !t.e.ready && t.e.power.entry == some .e3 && t.e.power.estate == 0) = true := by
  decide +kernel

theorem wit_e3_busy : let s := hl fun h => { h with burning := [3] }
    s.e.health.burning ≠ [] ∧ after (exec (.e3Enter .window 0xE3) s) (refusedWith s .window 5) = true := by decide +kernel

theorem wit_e3_exit : let s : State := { base with e := { base.e with ready := false, power := { base.e.power with estate := 3 } } }
    (s.e.power.estate = 3 ∧ s.e.power.after = 0 ∧ s.e.ready = false ∧ s.e.dict.results.length = 3) ∧
    after (exec (.e3Exit .ring 0xE0) s) (fun t => t.e.result .ring == 0 && t.e.power.fromE3 && t.e.power.estate == 0) = true ∧
    after (exec (.e3Exit .ring 1) s) (refusedWith s .ring 5) = true := by decide +kernel

/-- Presence asserted. -/
def present (f : HealthSt → HealthSt) : State := st fun e => { e with power := { e.power with presence := true }, health := f e.health }

theorem wit_spares_ack : let s := present fun h => { h with exPods := true }
    (s.e.power.presence = true ∧ (s.e.health.exPods = true ∨ s.e.health.exBanks = true)) ∧
    after (exec (.sparesExhaustedAck .window 1) s) (wroteE s .window { s.e with health := { s.e.health with acked := true } }) = true ∧
    after (exec (.sparesExhaustedAck .window 1) (present id)) (refusedWith (present id) .window 5) = true := by decide +kernel

theorem wit_commit : let s : State := { present id with e := { (present id).e with
      pods := (present id).e.pods.modify 2 fun d => { d with spares := [(0, 9)] } } }
    (s.e.health.burning = [] ∧ s.e.health.fusesUsed + s.e.unburnt.length ≤ 96 ∧ s.e.unburnt ≠ []) ∧
    after (exec (.repairCommit .ring 1 true) s)
      (wroteE s .ring { s.e with health := { s.e.health with vfuse := true, burning := s.e.unburnt } }) = true := by decide +kernel

theorem wit_commit_refused : let s := present fun h => { h with fusesUsed := 97 }
    96 < s.e.health.fusesUsed + s.e.unburnt.length ∧
    after (exec (.repairCommit .ring 1 true) s) (fun t => t.e.result .ring == 5 && t.e.health == { s.e.health with vfuse := true }) = true := by
  decide +kernel

/-- An image of 256 zero bytes at 0. -/
def image0 (crc : BitVec 32) : State := hl fun h => { h with imgLen := 256, imgCrc := crc }

theorem wit_update : let s := image0 (BitVec.ofNat 32 (crc32c (List.replicate 256 0)))
    s.e.portsFree ∧ (s.e.health.updBusy = false ∧ s.e.health.imgLen.toNat % 256 = 0 ∧ 0 < s.e.health.imgLen.toNat ∧ s.e.health.imgLen.toNat ≤ 2 ^ 20 ∧
      crc32c (rdBytes s.rd s.e.health.imgBase.toNat s.e.health.imgLen.toNat) = s.e.health.imgCrc.toNat) ∧
    after (exec (.builtinUpdate .window 1) s) (fun t => t.e.result .window == 0 && t.e.health.setVersion == 0 && t.e.health.updQueue.length == 34 &&
      !t.e.health.crcFail) = true := by unfold Eng.portsFree; decide +kernel

theorem wit_update_crc : let s := image0 5
    crc32c (rdBytes s.rd s.e.health.imgBase.toNat s.e.health.imgLen.toNat) ≠ s.e.health.imgCrc.toNat ∧
    after (exec (.builtinUpdate .window 1) s) (fun t => t.e.result .window == 5 && t.e.health == { s.e.health with crcFail := true }) = true := by
  decide +kernel

theorem wit_screen_now : ((33 : BitVec 8).toNat ≤ 33 ∧ (base.e.pod 33).svc = .out ∧ (base.e.pod 33).task = .idle ∧
      (∀ x ∈ base.e.place.trans, x.pod ≠ 33) ∧ base.e.screening = false ∧ base.e.droop = false) ∧
    after (exec (.screenNow .window 33) base) (fun t => t.e.result .window == 0 && t.e.health.screenArmed == some (33, 32)) = true ∧
    after (exec (.screenNow .window 34) base) (refusedWith base .window 5) = true ∧
    after (exec (.podReset .window 34) base) (refusedWith base .window 5) = true := by decide +kernel

theorem wit_screen_now_waits : ((testing.e.pod 3).svc = .inService ∧ testing.e.screening = true) ∧
    after (exec (.screenNow .window 3) testing) (fun t => t.e.result .window == 0 && t.e.health == { testing.e.health with screenNow := some 3 }) =
      true := by decide +kernel

theorem wit_pod_reset : (base.e.pod 3).svc ≠ .retired ∧
    after (exec (.podReset .window 3) base) (fun t => t.e.result .window == 0 && (t.e.pod 3).svc == .out && (t.e.pod 3).task == .bist &&
      (t.e.pod 3).lpos == none && (t.e.pod 3).store == [] && (t.e.pod 3).version == 0) = true := by decide +kernel

theorem wit_act_table : let v : List Byte := leBytes 4 0xBF800000 ++ [0] ++ List.replicate 1051 3
    (v.length = 1056 ∧ actImageOk v = true ∧ base.e.actInUse base.rd 7 = false ∧ (∀ b ∈ base.e.dict.paths, b.bufObj = none ∧ b.buf = [])) ∧
    after (exec (.actTableWrite .window 7 0 v) base) (wroteE base .window { base.e with drain := { base.e.drain with
      act := base.e.drain.act.modify 7 fun _ => .image (v.take 5 ++ [0, 0, 0] ++ v.drop 8) } }) = true := by decide +kernel

theorem wit_act_table_bad : let v : List Byte := leBytes 4 0x7F800000 ++ List.replicate 1052 0
    (v.length = 1056 ∧ actImageOk v = false) ∧
    after (exec (.actTableWrite .window 7 0 v) base) (refusedWith base .window 5) = true := by decide +kernel

/-- An image of given entries. -/
def imageOf (n : Nat) (body : List Byte) : List Byte :=
  leBytes 16 (4 + n * 2 ^ 32 + (16 + body.length) * 2 ^ 64 + crc32c body * 2 ^ 96) ++ body

theorem wit_image : let v := imageOf 0 []
    (imageCheck v = some [] ∧ imageCheck [1, 2, 3] = none) ∧
    after (exec (.dictImageWrite .window 0 v) base) (wroteE base .window { base.e with dict := { base.e.dict with imageState := 0 } }) = true ∧
    after (exec (.dictImageWrite .window 0 [1, 2, 3]) base) (fun t => t.e.result .window == 5 && t.e.dict.imageState == 2 ^ 56) = true := by
  decide +kernel

theorem wit_image_entry : let v := imageOf 1 (imageEntry 0x5000 1 2 (leBytes 2 32768))
    (imageCheck v = some [(0x5000, 1, leBytes 2 32768)] ∧ 32 ≤ 32768 ∧ 32768 ≤ 32768) ∧
    after (exec (.dictImageWrite .window 0 v) base)
      (wroteE base .window { base.e with segMax := 0x8000, dict := { base.e.dict with imageState := 1 } }) = true := by decide +kernel

/-! ### Channels and their commands -/

/-- The Channel Table entry of channel 4. -/
def entry4 : ChanEntry where
  gen := 4
  enable := true
  chainEn := true
  prio := 1
  irqEn := false
  irqSel := 0
  rsize := 4
  csize := 4
  reelSet := 0
  ringBase := 0x8000
  headLoc := 0x9000
  tailLoc := 0x9008
  cqBase := 0xA000
  cqHeadLoc := 0x9010
  cqTailLoc := 0x9018

/-- Bytes in memory: address, length and little-endian value, in the order of addresses. -/
def memOf (l : List (Nat × Nat × Nat)) : Mem := (l.flatMap fun x => placeBytes x.1 (leBytes x.2.1 x.2.2)).filter fun c => c.2 != 0

/-- Channel 4 ACTIVE with records `raws` read as ring counts 5 onward. -/
def chan4 (raws : List Nat) (f : Eng → Eng) : State := st fun e => f { e with chan := { e.chan with
  table := 0x7000
  chans := [(4, { Chan.reset with state := .active, entry := some entry4, head := 5 + raws.length, tail := 5 + raws.length, cqTail := 5, cqHead := 5 })]
  cmds := raws.zipIdx.map fun r => Cmd.fetched 4 (5 + r.2) r.1 entry4 } }

/-- The command of channel 4 with ring count `seq`. -/
def theCmd (s : State) (seq : Nat) : Cmd := (s.e.cmd? 4 seq).getD (Cmd.fetched 0 0 0 entry4)

/-- `State.recorded` as a check. -/
def recordedB (s : State) (m : Cmd) (r : Result) (t : State) : Bool :=
  t.e.chan.cmds == s.e.chan.cmds.filter (fun x => !(x.ch == m.ch && x.seq == m.seq)) && (t.e.ch 4).cqTail == 6 &&
    t.mem == Memory.apply s.mem (wrapWrites (placeBytes (s.e.recordAt 4 entry4)
      (leBytes 32 (completionRecord 4 m.opcode (m.fld 32 32) 4 5 m.seq r)) ++ placeBytes 0x9018 (leBytes 8 6)))

/-- `Eng.startable` and `Eng.ringFree` of the first record of channel 4. -/
def ready4 (op : Nat) (s : State) : Bool :=
  (s.e.cmd? 4 5).any (fun m => m.opcode == op && s.e.mayStart m) && (s.e.ch 4).entry == some entry4 && (s.e.ch 4).rst == 0 &&
    (s.e.ch 4).room entry4 && s.e.chan.cmds.all fun x => x.phase != .held

theorem wit_doorbell_no_table : base.settled ∧ (base.e.chan.table = 0 ∧ 255 < 256) ∧
    after (exec (.doorbell 255 []) base) (fun t => t.e.chan == base.e.chan && t.e.count 1 == 1) = true := ⟨⟨rfl, rfl, rfl⟩, by decide +kernel⟩

/-- Channel 4 with tail count 21 in memory: 16 records ahead of its head count. -/
def tail21 : State := { chan4 [] id with mem := memOf [(0x9008, 8, 21)] }

theorem wit_doorbell : (tail21.e.chan.table ≠ 0 ∧ (tail21.e.ch 4).state = .active ∧ (tail21.e.ch 4).entry = some entry4 ∧
      (rdCount tail21.rd entry4.tailLoc + 2 ^ 32 - (tail21.e.ch 4).head) % 2 ^ 32 ≤ 2 ^ entry4.rsize) ∧
    after (exec (.doorbell 4 []) tail21) (fun t => (t.e.ch 4).tail == 21 && (t.e.ch 4).head == 5 && (t.e.ch 4).state == .active &&
      t.mem == tail21.mem) = true := by decide +kernel

theorem wit_ports_free : tail21.e.portsFree := by unfold Eng.portsFree; decide +kernel

theorem wit_doorbell_holds_back : let s : State := { tail21 with e := { tail21.e with mports := tail21.e.mports.map fun p => { p with rdCred := 0 } } }
    s.e.holdsBack [(entry4.tailLoc, 8)] = true ∧ after (exec (.doorbell 4 []) s) (fun t => t == s) = true := by decide +kernel

theorem wit_doorbell_held : let s : State := { tail21 with e := tail21.e.updCh 4 fun c => { c with held := true } }
    ((s.e.ch 4).held = true ∧ s.e.makeRoom.isSome = true) ∧
    after (exec (.heldDoorbellServed 4 []) s) (fun t => (t.e.ch 4).tail == 21 && !(t.e.ch 4).held && (t.e.ch 4).state == .active) = true := by
  decide +kernel

theorem wit_doorbell_beyond : let s : State := { tail21 with mem := memOf [(0x9008, 8, 22)] }
    2 ^ entry4.rsize < (rdCount s.rd entry4.tailLoc + 2 ^ 32 - (s.e.ch 4).head) % 2 ^ 32 ∧
    after (exec (.doorbell 4 []) s) (fun t => (t.e.ch 4).state == .error && (t.e.ch 4).errDetail == 4 && (t.e.ch 4).tail == 5) = true := by
  decide +kernel

/-- Channel 4's entry in the table, with its counts in memory. -/
def enabling : State := { st (fun e => { e with chan := { e.chan with table := 0x7000 } }) with
  mem := memOf [(0x7200, 1, 4), (0x7201, 1, 7), (0x7202, 1, 0x44), (0x7208, 8, 0x8000), (0x7210, 8, 0x9000), (0x7218, 8, 0x9008), (0x7220, 8, 0xA000),
   (0x7228, 8, 0x9010), (0x7230, 8, 0x9018), (0x9000, 8, 3), (0x9008, 8, 4), (0x9018, 8, 2)] }

theorem wit_doorbell_enables : (enabling.e.chan.table ≠ 0 ∧ (enabling.e.ch 4).state = .disabled ∧ enabling.e.cached.length < 32 ∧
      entry4 = ChanEntry.ofNat (rdRec enabling.rd (enabling.e.chan.table.toNat + 128 * 4) 128) ∧ entry4.enable = true ∧
      enabling.e.entryCheck 4 entry4 = none ∧
      (rdCount enabling.rd entry4.tailLoc + 2 ^ 32 - rdCount enabling.rd entry4.headLoc) % 2 ^ 32 ≤ 2 ^ entry4.rsize) ∧
    after (exec (.doorbell 4 []) enabling) (fun t => (t.e.ch 4).state == .active && (t.e.ch 4).entry == some entry4 && (t.e.ch 4).head == 3 &&
      (t.e.ch 4).tail == 4 && (t.e.ch 4).cqTail == 2 && (t.e.ch 4).chain && t.mem == enabling.mem) = true := by decide +kernel

/-- Two records, a NOP and a FENCE, that wait in the ring at counts 15 and 16. -/
def fetching : State := { (chan4 [] fun e => e.updCh 4 fun c => { c with head := 15, tail := 17 }) with mem := memOf [(0x8000, 1, 0x30), (0x83C0, 1, 0x3F)] }

theorem wit_fetch : fetching.settled ∧ (fetching.e.runs = true ∧ (fetching.e.ch 4).entry = some entry4 ∧ fetching.e.mayFetch 4 = true ∧
      ∀ c ∈ fetching.e.cached, c ≠ 4 → fetching.e.mayFetch c = true → fetching.e.fetchesFirst c 4 = false) ∧
    after (exec (.commandFetch 4 []) fetching) (fun t => t.e.chan.cmds == [Cmd.fetched 4 15 0x3F entry4, Cmd.fetched 4 16 0x30 entry4] &&
      (t.e.ch 4).head == 17 && t.mem == Memory.apply fetching.mem (wrapWrites (placeBytes 0x9000 (leBytes 8 17)))) = true := ⟨⟨rfl, rfl, rfl⟩, by decide +kernel⟩

/-- A NOP. -/
def nop4 : State := chan4 [0x3F + 77 * 2 ^ 32] id

theorem wit_ring_free : nop4.e.ringFree 4 entry4 ∧ nop4.e.startable 0x3F 4 5 (theCmd nop4 5) entry4 := by
  unfold Eng.ringFree Eng.startable; decide +kernel

theorem wit_tileless : nop4.e.tileless 4 5 := by unfold Eng.tileless; decide +kernel

theorem wit_nop : (nop4.e.runs = true ∧ ready4 0x3F nop4 = true) ∧
    after (exec (.nop 4 ⟨5, []⟩) nop4) (recordedB nop4 (theCmd nop4 5) (Result.ofStatus 0 0)) = true := by decide +kernel

theorem wit_fence : let s := chan4 [0x30] id
    (ready4 0x30 s = true ∧ bit (theCmd s 5).raw 128 = false ∧ s.e.earlier (theCmd s 5) = []) ∧
    after (exec (.fence 4 ⟨5, []⟩) s) (recordedB s (theCmd s 5) (Result.ofStatus 0 0)) = true := by decide +kernel

theorem wit_fence_all : let s := chan4 [0x30 + 2 ^ 128] id
    (ready4 0x30 s = true ∧ bit (theCmd s 5).raw 128 = true ∧ s.e.chan.cmds.head? = some (theCmd s 5)) ∧
    after (exec (.fence 4 ⟨5, []⟩) s) (recordedB s (theCmd s 5) (Result.ofStatus 0 0)) = true := by decide +kernel

/-- A FENCE behind a command that runs. -/
def fenced : State := chan4 [0x01, 0x30] fun e => { e with chan := { e.chan with
  cmds := e.chan.cmds.modify 0 fun c => { c with phase := .running } } }

theorem wit_fence_waits : (fenced.e.mayStart (theCmd fenced 6) = true ∧ bit (theCmd fenced 6).raw 128 = false ∧
      fenced.e.earlier (theCmd fenced 6) ≠ []) ∧ after (exec (.fence 4 ⟨6, []⟩) fenced) (fun t => t == fenced) = true := by decide +kernel

/-- A WAIT for value 9 of entry 3, which holds `t`. -/
def wait9 (t : Trig) : State := chan4 [0x31 + 3 * 2 ^ 128 + 9 * 2 ^ 192] fun e => e.updTrig 3 fun _ => t

theorem wit_wait : let s := wait9 { Trig.zero with count := 9 }
    (ready4 0x31 s = true ∧ (s.e.trig 3).status = 0 ∧ (theCmd s 5).fld 128 12 = 3 ∧ (theCmd s 5).fld 192 64 ≤ (s.e.trig 3).count.toNat) ∧
    after (exec (.wait 4 ⟨5, []⟩) s) (recordedB s (theCmd s 5) (Result.ofStatus 0 0)) = true := by decide +kernel

theorem wit_wait_status : let s := wait9 { Trig.zero with status := 0x33, detail := 2, member := 8 }
    ((s.e.trig 3).status ≠ 0 ∧ statusRank (s.e.trig 3).status < 14) ∧
    after (exec (.wait 4 ⟨5, []⟩) s) (recordedB s (theCmd s 5) { Result.ofStatus 0x33 2 with member := 8 }) = true := by decide +kernel

theorem wit_wait_waits : let s := wait9 { Trig.zero with count := 8 }
    ((s.e.trig 3).status = 0 ∧ (s.e.trig 3).count.toNat < (theCmd s 5).fld 192 64) ∧ after (exec (.wait 4 ⟨5, []⟩) s) (fun t => t == s) = true := by
  decide +kernel

theorem wit_recorded : nop4.Inv ∧ (bit (theCmd nop4 5).raw 9 = false ∧ entry4.cqTailLoc + 8 ≤ 2 ^ 64 ∧ nop4.e.recordAt 4 entry4 + 32 ≤ 2 ^ 64 ∧
      entry4.cqTailLoc + 8 ≤ nop4.e.recordAt 4 entry4) ∧
    after (exec (.nop 4 ⟨5, []⟩) nop4) (fun t => rdNat (Memory.get t.mem) 0x9018 8 == 6 &&
      rdNat (Memory.get t.mem) 0xA0A0 32 == completionRecord 4 0x3F 77 4 5 5 (Result.ofStatus 0 0)) = true :=
  ⟨⟨by decide +kernel, by decide +kernel, rfl, rfl⟩, by decide +kernel⟩

theorem wit_recorded_complete : let s := chan4 [0x3F + 77 * 2 ^ 32] fun e => { e with chan := { e.chan with
      cmds := e.chan.cmds.map fun c => { c with phase := .final } } }
    (s.e.mayComplete (theCmd s 5) = true ∧ (s.e.ch 4).rst = 0) ∧
    after (exec (.commandComplete 4 5 []) s) (fun t => rdNat (Memory.get t.mem) 0x9018 8 == 6 &&
      rdNat (Memory.get t.mem) 0xA0A0 32 == completionRecord 4 0x3F 77 4 5 5 (Result.ofStatus 0 0)) = true := by decide +kernel

theorem wit_fence_all_waits : let s := chan4 [0x30 + 2 ^ 128] fun e => { e with chan := { e.chan with
      cmds := { Cmd.fetched 9 0 0x01 entry4 with phase := .running } :: e.chan.cmds } }
    (s.e.mayStart (theCmd s 5) = true ∧ bit (theCmd s 5).raw 128 = true ∧ s.e.chan.cmds.head? ≠ some (theCmd s 5)) ∧
    after (exec (.fence 4 ⟨5, []⟩) s) (fun t => t == s) = true := by decide +kernel

theorem wit_reel_mark : let s := chan4 [0x32 + 0xABCD * 2 ^ 128] id
    (ready4 0x32 s = true ∧ s.e.earlier (theCmd s 5) = [] ∧ s.e.health.reelDue ≠ some s.e.cue ∧ s.e.health.reelLast = none) ∧
    after (exec (.reelMark 4 ⟨5, []⟩) s) (fun t => recordedB s (theCmd s 5) (Result.ofStatus 0 0) t && t.e.health.reelNumber == 1 && t.e.cnt == [] &&
      fld (leNat t.e.health.header) 192 32 == 0xABCD && fld (leNat t.e.health.header) 224 8 == 1) = true := by decide +kernel

/-- A TRIGGER_LOAD of two entries from 0x6000 to entry `i`. -/
def trigLoad (i n src : Nat) : State := { chan4 [0x20 + src * 2 ^ 128 + i * 2 ^ 192 + n * 2 ^ 208] id with mem := memOf [(0x6000, 8, 5), (0x6040, 8, 6)] }

theorem wit_trigger_load : let s := trigLoad 4094 2 0x6000
    let m := theCmd s 5
    (ready4 0x20 s = true ∧ m.fld 128 64 ≠ 0 ∧ m.fld 128 64 % 32 = 0 ∧ m.fld 208 13 ≠ 0 ∧ m.fld 192 12 + m.fld 208 13 ≤ 4096) ∧
    after (exec (.triggerLoad 4 5 []) s) (fun t => recordedB s m (Result.ofStatus 0 0) t &&
      t.e.trig 4095 == Trig.ofNat (rdRec s.rd 0x6040 64) && t.e.trig 4094 == Trig.ofNat (rdRec s.rd 0x6000 64) && t.e.trig 4093 == Trig.zero) =
        true := by decide +kernel

/-- Whether command 5 of channel 4 has final result `r` and memory is as before. -/
def finalIs (s : State) (r : Result) (t : State) : Bool :=
  (t.e.cmd? 4 5).map (fun m => (m.phase, m.res)) == some (.final, r) && t.mem == s.mem && t.e.chan.cmds.length == s.e.chan.cmds.length

theorem wit_trigger_load_bad : let s := trigLoad 4095 2 0x6000
    4096 < (theCmd s 5).fld 192 12 + (theCmd s 5).fld 208 13 ∧
    after (exec (.triggerLoad 4 5 []) s) (finalIs s (Result.ofStatus 0x10 0x84)) = true ∧
    after (exec (.triggerLoad 4 5 []) (trigLoad 1 0 0x6000)) (finalIs (trigLoad 1 0 0x6000) (Result.ofStatus 0x10 0x84)) = true ∧
    after (exec (.triggerLoad 4 5 []) (trigLoad 1 1 0x6010)) (finalIs (trigLoad 1 1 0x6010) (Result.ofStatus 0x10 0x84)) = true := by decide +kernel

/-- Channel 4 with a command whose result is final. -/
def finished (r : Result) : State := chan4 [0x05] fun e => { e with chan := { e.chan with
  cmds := e.chan.cmds.map fun c => { c with phase := .final, res := r } } }

theorem wit_complete : let s := finished { Result.ofStatus 0 3 with nonfinite := 2 }
    let m := theCmd s 5
    (m.panels = [] ∧ s.e.owes (.cmd 4 5) = false ∧ m.phase = .final ∧ (s.e.ch 4).room entry4 = true ∧
      ∀ x ∈ s.e.chan.cmds, x.ch = 4 → x.phase = .held → m.phase = .held ∧ m.doneAt ≤ x.doneAt) ∧
    after (exec (.commandComplete 4 5 []) s) (recordedB s m { m.res with status := 9, detail := 0 }) = true := by decide +kernel

theorem wit_complete_waits : let s := chan4 [0x01] fun e => { e with chan := { e.chan with
      cmds := e.chan.cmds.map fun c => { c with phase := .running } } }
    s.e.mayComplete (theCmd s 5) = false ∧ after (exec (.commandComplete 4 5 []) s) (fun t => t == s) = true := by decide +kernel

theorem wit_complete_held : let s : State := { finished (Result.ofStatus 0 0) with e := (finished (Result.ofStatus 0 0)).e.updCh 4 fun c => { c with cqTail := 16, cqHead := 0 } }
    ((s.e.ch 4).room entry4 = false ∧ 2 ^ entry4.csize ≤ ((s.e.ch 4).cqTail + 2 ^ 32 - rdCount s.rd entry4.cqHeadLoc) % 2 ^ 32) ∧
    after (exec (.commandComplete 4 5 []) s) (fun t => t.mem == s.mem && (t.e.cmd? 4 5).map (·.phase) == some .held) = true := by decide +kernel

theorem wit_channel_reset : ((255 : BitVec 16).toNat ≤ 255 ∧ (base.e.ch 255).rst = 0 ∧ (base.e.ch 255).entry = none ∧ base.e.chan.cmds = [] ∧
      base.e.place.ctxs = [] ∧ (∀ u ∈ base.e.drain.units, u.out = []) ∧ base.e.owes (.channel 255) = false) ∧
    after (exec (.channelReset .window 255) base) (fun t => t.e.result .window == 0 && (t.e.ch 255).state == .disabled && t.mem == base.mem) = true ∧
    after (exec (.channelReset .window 4) nop4) (fun t => t.e.result .window == 0 && ((t.e.ch 4).state == .resetting || (t.e.ch 4).state == .disabled)) =
      true ∧
    after (exec (.channelReset .window 256) base) (fun t => t.e.result .window == 5 && t.e.sansResults == base.e.sansResults) = true := by
  decide +kernel

theorem wit_reset_records : let s := chan4 [0x3F + 77 * 2 ^ 32, 0x30 + 78 * 2 ^ 32] fun e => e.updCh 4 fun c => { c with cqKnown := true }
    let ms := s.e.chan.cmds.filter fun x => x.ch == 4
    ((s.e.ch 4).entry = some entry4 ∧ entry4.cqValid = true ∧ (s.e.ch 4).cqKnown = true ∧ (s.e.ch 4).cqTail < 2 ^ 32 ∧
      (s.e.ch 4).cqHead < 2 ^ 32 ∧ s.e.mports.length = 32 ∧ (∀ x ∈ ms, x.phase ≠ .held ∧ s.e.owes (.cmd 4 x.seq) = false) ∧
      s.e.place.ctxs = [] ∧ (∀ u ∈ s.e.drain.units, u.out = []) ∧
      ((s.e.ch 4).cqTail + 2 ^ 32 - (s.e.ch 4).cqHead) % 2 ^ 32 + ms.length ≤ 2 ^ entry4.csize) ∧
    after (exec (.channelReset .window 4) s) (fun t => t.e.chan.cmds == [] && (t.e.ch 4).state == .resetting && (t.e.ch 4).cqTail == 7 &&
      rdNat (Memory.get t.mem) 0xA0A0 32 == completionRecord 4 0x3F 77 4 5 5 (Result.ofStatus 0x40 1) &&
      rdNat (Memory.get t.mem) 0xA0C0 32 == completionRecord 4 0x30 78 4 6 6 (Result.ofStatus 0x40 1) &&
      rdNat (Memory.get t.mem) 0x9018 8 == 7 && rdNat (Memory.get t.mem) 0x9000 8 == 7) = true := by decide +kernel

/-! ### Commands that start work -/

/-- A loop level of counts 1 in the order M, N, K, B. -/
def loop1 (m n k : Nat) : Nat := m + n * 2 ^ 16 + k * 2 ^ 32 + 2 ^ 48 + 0xE4 * 2 ^ 64

/-- An operand of 1 MiB at `base` in format `f`, lines of 4,096 bytes. -/
def opd1 (base f inner : Nat) : Nat := base + 0x100000 * 2 ^ 64 + f * 2 ^ 112 + inner * 2 ^ 117 + 4096 * 2 ^ 128

/-- A call sheet at 0x1000 with its records: accumulator code, formats of A, B and C, address of a sparse record, SLICES, INNER of B. -/
def sheetMem (acc fa fb fc sparse slices inner : Nat) : List (Nat × Nat × Nat) :=
  [(0x1000, 8, 4 + acc * 2 ^ 8 + slices * 2 ^ 32 + 1 * 2 ^ 36), (0x1020, 8, 0x1080), (0x1028, 8, 0x10C0), (0x1030, 8, 0x1100), (0x1040, 8, 0x1140),
   (0x1048, 8, 0x12C0), (0x1050, 8, 0x14C0), (0x1060, 8, sparse), (0x1080, 64, opd1 0x100000 fa 0), (0x10C0, 64, opd1 0x200000 fb inner),
   (0x1100, 64, opd1 0x300000 fc 0), (0x1140, 64, loop1 32 128 128), (0x1180, 64, loop1 1 1 1), (0x11C0, 64, loop1 1 1 1), (0x1200, 64, loop1 1 1 1),
   (0x1240, 64, loop1 1 1 1), (0x1280, 64, loop1 1 1 1), (0x12C0, 16, 0x2000 + 2 ^ 64 + 2 ^ 80), (0x14C0, 32, 1 + 2 ^ 32 + 2 ^ 64 + 2 ^ 96)]

/-- Channel 4 with a sheet command of opcode `op`, its sheet at `a`. -/
def sheet4 (op a : Nat) (mem : List (Nat × Nat × Nat)) : State := { chan4 [op + a * 2 ^ 128] id with mem := memOf mem }

/-- Whether a sheet command runs, with its kind. -/
def runs4 (k : GemmKind) (s t : State) : Bool :=
  t.mem == s.mem && t.e.place == s.e.place && (t.e.cmd? 4 5).any fun q =>
    q.phase == .running && q.kind == some k && q.prob == some ((readProblem s.rd 0x1000).withVectors s.rd) && q.chainWait == false

/-- The first check of the sheet at 0x1000 that fails. -/
def check4 (k : GemmKind) (s : State) : Option Nat := s.e.loaderCheck s.rd k (readProblem s.rd 0x1000) 0x1000 true

/-- A GEMM of one element. -/
def gemm1 : State := sheet4 1 0x1000 (sheetMem 0 1 1 6 0 0 0)

theorem wit_gemm : (ready4 1 gemm1 = true ∧ entry4.gen = 4 ∧ (theCmd gemm1 5).fld 128 64 ≠ 0 ∧ check4 .gemm gemm1 = none) := by decide +kernel

theorem wit_gemm_sparse : let s := sheet4 2 0x1000 (sheetMem 0 1 1 6 0x1500 0 1 ++
      [(0x1500, 40, 4 + 2 ^ 10 + 0x400000 * 2 ^ 128 + 32 * 2 ^ 192 + 4096 * 2 ^ 256)])
    (ready4 2 s = true ∧ check4 .sparse s = none) := by decide +kernel

theorem wit_take : let s := sheet4 3 0x1000 (sheetMem 1 6 6 6 0 0 0)
    (ready4 3 s = true ∧ check4 .take s = none) := by decide +kernel

/-- A take whose operand A carries panel checks that its bytes do not pass. -/
def takeBad : State := sheet4 3 0x1000 ((sheetMem 1 6 6 6 0 0 0).map fun x =>
  if x.1 = 0x1080 then (x.1, x.2.1, x.2.2 - 0xFF000 * 2 ^ 64 + 0x500000 * 2 ^ 384)
  else if x.1 = 0x10C0 then (x.1, x.2.1, x.2.2 - 0xFF000 * 2 ^ 64) else x)

/-- The panels that the pre-pass of `takeBad` reads. -/
def takePanels : List (Opd × List Nat) :=
  let q := readProblem takeBad.rd 0x1000
  q.passPanels (q.passLines takeBad.rd .take)

theorem wit_take_panel : (ready4 3 takeBad = true ∧ check4 .take takeBad = none ∧
      takePanels = [({ Opd.ofNat (opd1 0x100000 6 0) with size := 4096, checkBase := 0x500000 }, [0])]) := by decide +kernel

-- Beyond the last cell of a state's memory every byte is 0.
theorem rdBytes_beyond (s : State) : ∀ (n a : Nat), (∀ c ∈ s.mem, c.1 < a) → a + n ≤ 2 ^ 64 → rdBytes s.rd a n = List.replicate n 0
  | 0, _, _, _ => rfl
  | n + 1, a, h, ha => by
    have hn : ∀ m : Mem, (∀ c ∈ m, c.1 < a) → nget? m a = none := by
      intro m
      induction m with
      | nil => intro; rfl
      | cons x r ih =>
        intro h
        have hx : x.1 ≠ a := by have := h x (by simp); omega
        simp only [nget?, if_neg hx]
        exact ih fun c hc => h c (by simp [hc])
    rw [rdBytes, rdBytes_beyond s n (a + 1) (fun c hc => by have := h c hc; omega) (by omega)]
    have e : s.rd a = 0 := by
      unfold State.rd Memory.get nget
      rw [Nat.mod_eq_of_lt (by omega), hn s.mem h]
      rfl
    rw [e]
    rfl

theorem wit_take_panel_fails : (checkPanels takeBad.rd (fun _ => false) 0x100000 0x500000 [0]).2 = some 0 := by
  have hm : ∀ c ∈ takeBad.mem, c.1 < 0x10000 := by decide +kernel
  have h : ∀ n a, 0x10000 ≤ a → a + n ≤ 2 ^ 64 → rdBytes takeBad.rd a n = List.replicate n 0 := fun n a ha =>
    rdBytes_beyond takeBad n a fun c hc => Nat.lt_of_lt_of_le (hm c hc) ha
  have hc : crc32c (List.replicate 4096 0) ≠ leNat (List.replicate 4 0) := by decide +kernel
  have e : ∀ rd : Nat → Byte, crc32c (rdBytes rd 0x100000 4096) ≠ rdNat rd 0x500000 4 →
      (checkPanels rd (fun _ => false) 0x100000 0x500000 [0]).2 = some 0 := fun rd h => by simp [checkPanels, h]
  exact e _ (by rw [rdNat, h _ _ (by decide) (by decide), h _ _ (by decide) (by decide)]; exact hc)

theorem wit_take_passes : let s := sheet4 3 0x1000 (sheetMem 1 6 6 6 0 0 0)
    let q := readProblem s.rd 0x1000
    q.passPanels (q.passLines s.rd .take) = [] := by decide +kernel

theorem wit_sheet_rejected : let s := sheet4 1 0x1000 ((0x1000, 1, 3) :: (sheetMem 0 1 1 6 0 0 0).drop 1)
    check4 .gemm s = some 1 ∧ after (exec (.gemm 4 5 []) s) (finalIs s (Result.ofStatus 0x10 1)) = true := by decide +kernel

theorem wit_sheet_none : let s := sheet4 2 0 []
    (ready4 2 s = true ∧ (theCmd s 5).fld 128 64 = 0) ∧ after (exec (.gemmSparse 4 5 []) s) (finalIs s (Result.ofStatus 0x10 0x82)) = true ∧
    after (exec (.takeGemm 4 5 []) (sheet4 3 0 [])) (finalIs (sheet4 3 0 []) (Result.ofStatus 0x10 0x82)) = true := by decide +kernel

/-- A GEMM of a generation 2 channel with the legacy call sheet of `version` and accumulator code `acc` at 0x1000. -/
def legacy4 (version acc lda : Nat) : State :=
  let s := sheet4 1 0x1000 [(0x1000, 64, version + 2 ^ 8 + 2 ^ 12 + 6 * 2 ^ 16 + acc * 2 ^ 20 + 32 * 2 ^ 32 + 128 * 2 ^ 64 + 128 * 2 ^ 96 +
    0x100000 * 2 ^ 128 + 0x200000 * 2 ^ 192 + 0x300000 * 2 ^ 256 + lda * 2 ^ 384 + 128 * 2 ^ 416 + 512 * 2 ^ 448)]
  let e2 := { entry4 with gen := 2 }
  { s with e := { s.e with chan := { s.e.chan with
      chans := s.e.chan.chans.map fun x => (x.1, { x.2 with entry := some e2 })
      cmds := s.e.chan.cmds.map fun m => Cmd.fetched 4 5 m.raw e2 } } }

/-- The legacy sheet that a state holds, and what it is translated to. -/
def legacyOf (s : State) : Legacy × Problem :=
  let l := Legacy.ofNat (rdRec s.rd 0x1000 128)
  (l, l.translate (s.e.legacyAnchor l) ((theCmd s 5).fld 32 32))

theorem wit_legacy : let s := legacy4 2 0 128
    (s.settled ∧ s.e.runs = true ∧ (legacyOf s).1.check 2 = none ∧
      s.e.loaderCheck s.rd .gemm (legacyOf s).2 0x1000 true = none) ∧
    after (exec (.gemm 4 5 []) s) (fun t => (t.e.cmd? 4 5).any fun q => q.phase == .running && q.kind == some .gemm &&
      q.prob == some ((legacyOf s).2.withVectors s.rd) && q.anchor0 == -18) = true := by unfold State.settled; decide +kernel

theorem wit_legacy_rejected : ((legacyOf (legacy4 3 0 128)).1.check 2 = some 0xA0 ∧ (legacyOf (legacy4 2 3 128)).1.check 2 = some 0xA2 ∧
      (legacyOf (legacy4 2 0 8)).1.check 2 = none) ∧
    after (exec (.gemm 4 5 []) (legacy4 3 0 128)) (finalIs (legacy4 3 0 128) (Result.ofStatus 0x10 0xA0)) = true ∧
    after (exec (.gemm 4 5 []) (legacy4 2 3 128)) (finalIs (legacy4 2 3 128) (Result.ofStatus 0x10 0xA2)) = true ∧
    after (exec (.gemm 4 5 []) (legacy4 2 0 8)) (finalIs (legacy4 2 0 8) (Result.ofStatus 0x10 20)) = true := by decide +kernel

/-- A COPY of `len` bytes from 0x100 to `dst`. -/
def copy4 (dst len : Nat) : State := { chan4 [5 + 0x100 * 2 ^ 128 + dst * 2 ^ 192 + len * 2 ^ 384] id with mem := memOf [(0x100, 8, 0x1122), (0x11F, 1, 9)] }

theorem wit_copy : let s := copy4 0x200 32
    let m := theCmd s 5
    s.Inv ∧ (ready4 5 s = true ∧ copyBad (m.fld 128 64) (m.fld 192 64) (m.fld 256 64) (m.fld 320 64) (m.fld 384 48) = false ∧
      m.fld 256 64 = 0 ∧ s.e.remote.wins = [] ∧ m.fld 192 64 + m.fld 384 48 ≤ 2 ^ 64 ∧ m.fld 128 64 + m.fld 384 48 ≤ 2 ^ 64) ∧
    after (exec (.copy 4 5 ⟨[], []⟩) s) (fun t => (t.e.cmd? 4 5).map (·.res) == some (Result.ofStatus 0 0) &&
      t.mem == memOf [(0x100, 8, 0x1122), (0x11F, 1, 9), (0x200, 8, 0x1122), (0x21F, 1, 9)]) = true :=
  ⟨⟨by decide +kernel, by decide +kernel, rfl, rfl⟩, by decide +kernel⟩

theorem wit_copy_bad : let s := copy4 0x210 32
    copyBad 0x100 0x210 0 0 32 = true ∧ after (exec (.copy 4 5 ⟨[], []⟩) s) (finalIs s (Result.ofStatus 0x10 0x83)) = true ∧
    after (exec (.copy 4 5 ⟨[], []⟩) (copy4 0x200 0)) (finalIs (copy4 0x200 0) (Result.ofStatus 0x10 0x83)) = true := by decide +kernel

/-- A compress sheet at 0x1000 with its descriptors. -/
def compress4 (version k : Nat) : State := { chan4 [4 + 0x1000 * 2 ^ 128] id with
  mem := memOf [(0x1000, 80, version + k * 2 ^ 32 + 128 * 2 ^ 64 + 0x1080 * 2 ^ 128 + 0x10C0 * 2 ^ 192 + 0x400000 * 2 ^ 256 + 32 * 2 ^ 320 + 0x100000 * 2 ^ 512),
     (0x1080, 64, opd1 0x100000 1 1), (0x10C0, 64, opd1 0x200000 1 0)] }

/-- The sheet and descriptors of a COMPRESS at 0x1000. -/
def compressOf (s : State) : CompressSheet × Opd × Opd :=
  let c := CompressSheet.ofNat (rdRec s.rd 0x1000 128)
  (c, rdOpd s.rd c.src, rdOpd s.rd c.dst)

theorem wit_compress : let s := compress4 4 128
    let x := compressOf s
    s.Inv ∧ (ready4 4 s = true ∧ (theCmd s 5).fld 128 64 = 0x1000 ∧ compressCheck x.1 x.2.1 x.2.2 0x1000 = none ∧
      (checkPanels s.rd (fun _ => false) x.2.1.base x.2.1.checkBase (compressPanels x.1 x.2.1)).2 = none) :=
  ⟨⟨by decide +kernel, by decide +kernel, rfl, rfl⟩, by decide +kernel⟩

theorem wit_compress_rejected : let s := compress4 3 128
    let x := compressOf s
    compressCheck x.1 x.2.1 x.2.2 0x1000 = some 0x50 ∧ after (exec (.compress 4 5 []) s) (finalIs s (Result.ofStatus 0x10 0x50)) = true ∧
    after (exec (.compress 4 5 []) (compress4 4 100)) (finalIs (compress4 4 100) (Result.ofStatus 0x10 0x53)) = true ∧
    after (exec (.compress 4 5 []) (chan4 [4] id)) (finalIs (chan4 [4] id) (Result.ofStatus 0x10 0x82)) = true := by decide +kernel

/-- Identity 9 with VALID: this engine reaches itself by loopback. -/
def selfId (e : Eng) : Eng := { e with link := { e.link with engineId := 0x10009 } }

/-- A remote command to engine 9: opcode, window, LOCAL, OFFSET, LENGTH, OPERAND. -/
def remote4 (op w loc offset length operand : Nat) : State := { chan4
  [op + 9 * 2 ^ 128 + w * 2 ^ 144 + loc * 2 ^ 192 + offset * 2 ^ 256 + length * 2 ^ 320 + operand * 2 ^ 384] selfId with
  mem := memOf [(0x400, 2, 0x1234)] }

/-- Whether the only operation in flight is that of command 5, with its packets in the inbox. -/
def issued4 (s t : State) : Bool :=
  let a := RemoteArgs.ofCommand (theCmd s 5).raw
  let ps := opPieces s.rd [] a
  t.e.remote == { s.e.remote with ops := [⟨0, .cmd 4 5, a, .loopback, Result.ofStatus 0 0, false, false, []⟩], tag := 1 } &&
    t.e.link.inbox == ps.zipIdx.map (fun y =>
      ⟨.loopback, ⟨opHeader 9 0 a (y.2 == 0) (y.2 + 1 == ps.length) y.1.1 y.1.2.length, y.1.2, []⟩⟩) && t.e.count 26 == 1 && t.mem == s.mem

theorem wit_put : let s := remote4 0x10 2 0x400 64 64 0
    (ready4 0x10 s = true ∧ s.e.originCheck (RemoteArgs.ofCommand (theCmd s 5).raw) false = none ∧
      s.e.remote.ops.length + s.e.remote.fired.length < 256) ∧ after (exec (.put 4 5 []) s) (issued4 s) = true := by decide +kernel

/-- A unit that its first read and the repeated read both fail to give. -/
def twice (u : Nat) : List UnitRead := [⟨u, true, []⟩, ⟨u, true, []⟩]

/-- A PUT of 64 bytes whose local bytes cannot be read. -/
def unread : State := remote4 0x10 2 0x400 64 64 0

theorem wit_put_unread : (unread.e.originCheck (RemoteArgs.ofCommand (theCmd unread 5).raw) false = none ∧
      opPieces unread.rd (fates false (twice 32 ++ twice 33)) (RemoteArgs.ofCommand (theCmd unread 5).raw) = [] ∧ (theCmd unread 5).res = Result.ofStatus 0 0) ∧
    after (exec (.put 4 5 (twice 32 ++ twice 33)) unread) (fun t => finalIs unread (Result.ofStatus 0x21 0) t && t.e.remote.ops == []) = true := by
  decide +kernel

theorem wit_put_part : let a := RemoteArgs.ofCommand (theCmd unread 5).raw
    (opPieces unread.rd (fates false (twice 33)) a ≠ [] ∧
      a.localReads.any (fun r => (hits (fates false (twice 33)) r.1 r.2).isSome) = true) ∧
    after (exec (.put 4 5 (twice 33)) unread) (fun t => t.e.remote.ops.map (·.res) == [Result.ofStatus 0x21 0] &&
      t.e.link.inbox.map (fun x => x.pkt.data.length) == [32]) = true := by decide +kernel

/-- A GET behind an operation of its channel whose first flit waits at fabric port 1. -/
def behind : State :=
  let s := remote4 0x11 2 0x400 64 64 0
  let waits := fabricFlits 0 (Packet.units ⟨{ hdr0 with first := true, last := true, ptag := 3 }, [], []⟩)
  { s with e := { fp 1 (fun p => { p with st := 2, txq := lset p.txq 0 fun _ => waits }) s.e with
      remote := { s.e.remote with ops := [⟨3, .cmd 4 4, RemoteArgs.ofCommand 0, .fabric 1, Result.ofStatus 0 0, false, false, []⟩] } } }

theorem wit_get_behind : (ready4 0x11 behind = true ∧ behind.e.originCheck (RemoteArgs.ofCommand (theCmd behind 5).raw) false = none ∧
      (behind.e.remote.ops.any fun o => o.by_.same (.cmd 4 5) && behind.e.unsentOp o) = true ∧
      ∀ o ∈ behind.e.remote.ops, o.held ≠ [] → behind.e.opWaits o = true) ∧
    after (exec (.get 4 5) behind) (fun t => t.e.link == behind.e.link && t.e.remote.ops.map (fun o => o.held.length) == [0, 1]) = true := by
  decide +kernel

theorem wit_get : let s := remote4 0x11 2 0x400 64 64 0
    (ready4 0x11 s = true ∧ s.e.originCheck (RemoteArgs.ofCommand (theCmd s 5).raw) false = none) ∧
    after (exec (.get 4 5) s) (issued4 s) = true := by decide +kernel

theorem wit_addx : let s := remote4 0x12 2 0x400 64 3 0
    (ready4 0x12 s = true ∧ s.e.originCheck (RemoteArgs.ofCommand (theCmd s 5).raw) false = none) ∧
    after (exec (.addx 4 5 []) s) (issued4 s) = true := by decide +kernel

theorem wit_fadd : let s := remote4 0x13 2 0x400 8 0 7
    (ready4 0x13 s = true ∧ s.e.originCheck (RemoteArgs.ofCommand (theCmd s 5).raw) false = none) ∧
    after (exec (.fadd 4 5) s) (issued4 s) = true := by decide +kernel

theorem wit_signal : let s := remote4 0x14 4095 0 0 0 7
    (ready4 0x14 s = true ∧ s.e.originCheck (RemoteArgs.ofCommand (theCmd s 5).raw) false = none) ∧
    after (exec (.signal 4 5) s) (issued4 s) = true := by decide +kernel

theorem wit_signal_refused : let s := remote4 0x14 4096 0 0 0 7
    (ready4 0x14 s = true ∧ s.e.originCheck (RemoteArgs.ofCommand (theCmd s 5).raw) false = some 0xC3 ∧ bit (theCmd s 5).raw 172 = false) ∧
    after (exec (.signal 4 5) s) (fun t => finalIs s (Result.ofStatus 0x10 0xC3) t && t.e.remote == s.e.remote) = true := by decide +kernel

theorem wit_put_refused_trig : let s := chan4 [0x10 + 9 * 2 ^ 128 + 3 * 2 ^ 160 + 2 ^ 172] selfId
    (s.e.originCheck (RemoteArgs.ofCommand (theCmd s 5).raw) false = some 0xC2 ∧ bit (theCmd s 5).raw 172 = true) ∧
    after (exec (.put 4 5 []) s) (fun t => finalIs s (Result.ofStatus 0x10 0xC2) t && (t.e.trig 3).status == 0x10 &&
      t.e.remote == (s.e.trigFail 3 0x10 0xC2 0).remote) = true := by decide +kernel

theorem wit_get_waits : let s : State := { remote4 0x11 2 0x400 64 64 0 with e := { (remote4 0x11 2 0x400 64 64 0).e with remote := { RemoteSt.reset with
      fired := List.replicate 256 (1, RemoteArgs.ofCommand 0) } } }
    256 ≤ s.e.remote.ops.length + s.e.remote.fired.length ∧ after (exec (.get 4 5) s) (fun t => t == s) = true := by decide +kernel

/-- A problem of `n` slate items along N, one tile each, with a drain record of `chain`. -/
def prob (n : Nat) (chain : Bool) : Problem where
  sheet := { CallSheet.ofNat 0 with version := 4, buckets := 1 }
  a := { Opd.ofNat 0 with fmt := 1 }
  b := { Opd.ofNat 0 with fmt := 1 }
  c := { Opd.ofNat 0 with fmt := 6 }
  d := none
  loops := [{ Loop.unit with cntM := 32, cntN := 128, cntK := 128 }, { Loop.unit with cntN := n }, Loop.unit, Loop.unit, Loop.unit, Loop.unit]
  progs := List.replicate 32 ⟨0x2000, 1, true⟩
  lens := ⟨1, 128 * n, 8, 1⟩
  drain := { DrainRec.ofNat 0 with version := 4, chainEn := chain, chain := 0x1000 }
  sparse := none
  scaleVec := []
  biasVec := []

/-- Channel 4 with a running GEMM of problem `p`. -/
def running4 (p : Problem) (f : Cmd → Cmd) : State := chan4 [1] fun e => { e with chan := { e.chan with
  cmds := e.chan.cmds.map fun m => f { m with phase := .running, kind := some .gemm, prob := some p } } }

theorem wit_complete_running : let s := running4 (prob 1 false) fun m => { m with ending := true, res := Result.ofStatus 0x21 7 }
    let m := theCmd s 5
    (m.panels = [] ∧ s.e.owes (.cmd 4 5) = false ∧ m.phase = .running ∧ m.prob.isSome = true ∧ m.ending = true ∧
      s.e.cmdDrained 4 5 = true ∧ (s.e.ch 4).room entry4 = true) ∧
    after (exec (.commandComplete 4 5 []) s) (recordedB s m m.res) = true := by decide +kernel

theorem wit_chain_load : let s : State := { running4 (prob 1 true) (fun m => { m with chainWait := true }) with mem := memOf [(0x1000, 2, 0x104), (0x1040, 4, 1)] }
    (s.e.runs = true ∧ (s.e.cmd? 4 5).bind (·.prob) = some (prob 1 true) ∧ (theCmd s 5).chainWait = true ∧ s.e.chainBusy 4 5 = false) ∧
    after (exec (.chainContextLoad 4 5 []) s) (fun t => t.e.cmd? 4 5 == some { theCmd s 5 with chainWait := false } &&
      (nget? t.e.drain.chains 4).any (fun x => x.1.rcd == rdChain s.rd 0x1000 && x.2 == 5) && t.e.drain.units == s.e.drain.units) = true := by
  decide +kernel

theorem wit_chain_none : let s := running4 (prob 1 false) id
    (theCmd s 5).chainWait = false ∧ after (exec (.chainContextLoad 4 5 []) s) (fun t => t == s) = true := by decide +kernel

theorem wit_slate_open : let s := running4 (prob 3 false) id
    ((theCmd s 5).phase = .running ∧ (theCmd s 5).opened = false ∧ (theCmd s 5).chainWait = false ∧ (theCmd s 5).ending = false) ∧
    after (exec (.slateOpen 4 5) s) (fun t => t.e.place.slates == [⟨4, 5, 0, (prob 3 false).items.length, 0, [], [], false⟩] &&
      (prob 3 false).items.length == 3 && t.e.cmd? 4 5 == some { theCmd s 5 with opened := true }) = true := by decide +kernel

theorem wit_slate_once : let s := running4 (prob 3 false) fun m => { m with opened := true }
    (theCmd s 5).opened = true ∧ after (exec (.slateOpen 4 5) s) (fun t => t == s) = true := by decide +kernel

/-! ### Placement and what feeds the array -/

/-- The context of the only tile of a problem, at position 0 in P1. -/
def ctx0 : TileCtx where
  id := 7
  ch := 4
  seq := 5
  run := 3
  item := 0
  org := ⟨0, 0, 0⟩
  acc := 0
  shape := 0
  pos := 0
  half := 0
  rows := 32
  inRows := 1
  path := .dense
  segs := []
  parts := [⟨0, 0, 32, 0, 128, 0, false⟩]
  gen := 0
  count := 0
  expect := some 1
  steps := 1
  low := 0
  dropped := 0
  drained64 := []
  marks := []
  progress := []
  freezes := []
  floors := 0
  streamed := []
  dLoaded := false
  readyAt := none
  started := false
  sweeping := false
  wrote := false
  needReplay := none
  tally := ⟨0, 0, 0, 0, 0, 0⟩

/-- A running problem with its slate drawn, one run without further items at position 0, and the contexts `cs`. -/
def placed (p : Problem) (cs : List TileCtx) (f : Eng → Eng) : State :=
  let s := running4 p fun m => { m with opened := true }
  { s with e := f { s.e with place := { s.e.place with
      slates := [⟨4, 5, 1, 1, 0, [], [], false⟩], runs := [⟨3, .pos 0, 4, 5, 0, []⟩], ctxs := cs, nextId := 9 } } }

/-- A whole buffer line with 8-bit elements `b` everywhere. -/
def lineOf (b : Byte) (token : Bool) : BufLine :=
  ⟨0, 3, .b, 0, 0xFF, (List.range 8).map fun u => (u, List.replicate 32 b), token, 0, []⟩

/-- `placed` with the program in pod 0 and the buffered line of twos (0x38 is 1.0 in FP8 E4M3). -/
def fed (f : Eng → Eng) : State := placed (prob 1 false) [ctx0] fun e => f (({ e with place := { e.place with
  bufs := [lineOf 0x38 true] } } : Eng).updPod 0 fun d => { d with store := [(0x2000, 1)] })

theorem wit_draw : let s : State := { running4 (prob 2 false) (fun m => { m with opened := true }) with e := { (running4 (prob 2 false) id).e with
      place := { (running4 (prob 2 false) id).e.place with slates := [⟨4, 5, 0, 2, 0, [], [], false⟩], nextId := 9 } } }
    (s.e.runs = true ∧ s.e.unitFree (.pos 0) = true ∧ (s.e.leading [.pos 0]).isSome = true ∧ (s.e.slate? 4 5).any (fun sl => sl.counter < sl.items)) ∧
    after (exec (.runDraw (.pos 0)) s) (fun t => (t.e.slate? 4 5).any (fun x => x.counter == 1) && t.e.place.ctxs.length == 1 &&
      t.e.place.runs == [⟨9, .pos 0, 4, 5, 0, []⟩]) = true := by decide +kernel

theorem wit_next_item : let s := placed (prob 2 false) [ctx0] fun e => { e with place := { e.place with
      runs := [⟨3, .pos 0, 4, 5, 0, [⟨1, [], 0, none⟩]⟩] } }
    ((s.e.place.runs.find? fun x => x.taker == .pos 0 && !x.items.isEmpty).isSome = true) ∧
    after (exec (.runDraw (.pos 0)) s) (fun t => t.e.place.runs == [⟨3, .pos 0, 4, 5, 0, []⟩] &&
      (t.e.place.ctxs.map fun c => (c.id, c.item, c.org.n, c.parts.map (·.base))) == [(7, 0, 0, [0]), (9, 1, 128, [16])]) = true := by decide +kernel

/-- Quad 0 stands as a gang for which nothing is left to draw. -/
def voidGang : State :=
  let s := running4 (prob 1 false) id
  { s with e := s.e.updGang 0 fun _ => ⟨true, none, none, [], []⟩ }

theorem wit_draw_void : (voidGang.e.gangVoid (2 / 4) = true ∧ voidGang.e.runs = true) ∧
    after (exec (.runDraw (.pos 2)) voidGang) (fun t => !(t.e.gang 0).formed) = true := by decide +kernel

/-- A slate that leads for quad 0 in shape 2, the runs there are, and the gang. -/
def quadSlate (runs : List Run) (g : Gang) : State :=
  let s := running4 (prob 1 false) fun m => { m with opened := true }
  { s with e := Eng.updGang 0 (fun _ => g) { s.e with place := { s.e.place with
      slates := [⟨4, 5, 0, 1, 2, [], [], false⟩], runs := runs, nextId := 9 } } }

theorem wit_gang_form : let s := quadSlate [] ⟨false, none, none, [], []⟩
    (s.e.runs = true ∧ (s.e.leading (quadTakers 0)).isSome = true ∧ (s.e.leading (quadTakers 0)).all (s.e.canDraw (.quad 0)) = true ∧
      (takerPositions (.quad 0)).all s.e.posOpen = true) ∧
    after (exec (.gangForm 0) s) (fun t => (t.e.gang 0).formed) = true := by decide +kernel

theorem wit_gang_forming : let s := quadSlate [⟨3, .pos 1, 4, 5, 0, []⟩] ⟨false, none, none, [], []⟩
    ((s.e.leading (quadTakers 0)).isSome = true ∧ ∃ r ∈ s.e.place.runs, r.taker ∈ quadTakers 0) ∧
    after (exec (.gangForm 0) s) (fun t => (t.e.gang 0).forming == some (4, 5) && !(t.e.gang 0).formed) = true := by decide +kernel

theorem wit_gang_hold : let s := quadSlate [] ⟨true, none, some 0, [1], []⟩
    ((s.e.gang 0).formed = true ∧ 0 < s.e.place.gangs.length ∧ s.e.memberStuck 0 2 = true ∧ s.e.memberStuck 0 1 = true) ∧
    after (exec (.gangHold 0 2) s) (fun t => (t.e.gang 0).holds.contains 2 && (t.e.gang 0).holds.contains 1) = true ∧
    after (exec (.gangForm 0) s) (fun t => t == s) = true ∧ after (exec (.gangHold 0 4) s) (fun t => t == s) = true ∧
    after (exec (.gangResume 0) s) (fun t => t == s) = true := by decide +kernel

theorem wit_gang_resume : let s := quadSlate [] ⟨true, none, none, [1], []⟩
    (s.e.memberStuck 0 1 = false ∧ s.e.memberStuck 0 2 = false) ∧
    after (exec (.gangResume 0) s) (fun t => (t.e.gang 0).holds == []) = true ∧
    after (exec (.gangHold 0 2) s) (fun t => t == s) = true := by decide +kernel

theorem wit_program : let s := placed (prob 1 false) [ctx0] id
    (s.e.runAt 0 4 5 = some ⟨3, .pos 0, 4, 5, 0, []⟩ ∧ (s.e.pod 0).lpos = some 0 ∧ s.e.serves 0 = true ∧ (prob 1 false).sheet.buckets.testBit 0 = true ∧
      (s.e.pod 0).store.contains (0x2000, 1) = false ∧ s.e.portsFree) ∧
    after (exec (.programFetch 0 4 5 0 []) s) (fun t => (t.e.pod 0).store == [(0x2000, 1)] && (t.e.pod 0).fetches == 1 && t.mem == s.mem) = true := by
  unfold Eng.portsFree; decide +kernel

theorem wit_program_held : let s := fed id
    (s.e.pod 0).store.contains (0x2000, 1) = true ∧ after (exec (.programFetch 0 4 5 0 []) s) (fun t => t == s) = true := by decide +kernel

/-- `prob 1` whose operands A and B hold `size` bytes, A with panel checks at `chk`. -/
def sized (size chk : Nat) : Problem := { prob 1 false with
  a := { (prob 1 false).a with size := size, checkBase := chk }, b := { (prob 1 false).b with size := size } }

/-- `placed` with nothing in the operand buffer. -/
def unfilled : State := placed (sized 8 0) [ctx0] id

theorem wit_fill_asks : ((sized 8 0).mayFill unfilled.rd .b 0 = true ∧ unfilled.e.served 0 = true ∧ (sized 8 0).checked .b = none ∧
      unfilled.e.buf? 0 3 .b 0 = none ∧ unfilled.e.mports.length = 32) ∧
    (8 ≤ (unfilled.e.lineRoom 0).length ∧ unfilled.e.streamRoom unfilled.rd ⟨3, .pos 0, 4, 5, 0, []⟩ 0 .b 0 = true) := by decide +kernel

theorem test_fill_asks : after (exec (.operandFill 0 3 .b 0 [] ⟨[], []⟩) unfilled) (fun t =>
      (t.e.buf? 0 3 .b 0).any (fun b => b.mask == 15 && b.units == [] && !b.token && b.cells.length == 8) &&
      ((t.e.port (portOf 0)).rq ++ (t.e.port (portOf 0)).rd).any (fun q => q.line == 0 && q.mask == 15 && q.run == 3)) = true := by
  decide +kernel

theorem wit_fill_full : let s := placed (sized 8 0) [ctx0] fun e => { e with stage := { e.stage with stagingBytes := 201326592 } }
    ((s.e.lineRoom 0).length < 8 ∧ ((s.e.releaseLines s.rd 0).lineRoom 0).length < 8) ∧
    after (exec (.operandFill 0 3 .b 0 [] ⟨[], []⟩) s) (fun t => t.e == s.e.releaseLines s.rd 0) = true := by decide +kernel

theorem wit_fill_grants : let s := placed (sized 8 0) [ctx0] fun e => { e with place := { e.place with bufs := [lineOf 1 false] } }
    ((s.e.buf? 0 3 .b 0) = some (lineOf 1 false) ∧ (lineOf 1 false).complete = true) ∧
    after (exec (.operandFill 0 3 .b 0 [] ⟨[], []⟩) s) (fun t => t.e.buf? 0 3 .b 0 == some (lineOf 1 true)) = true := by decide +kernel

/-- An upset of three bytes, more than a codeword corrects. -/
def badly : Upset := [(0, 1), (1, 2), (2, 3)]

theorem wit_fill_again : let s := placed (sized 8 0) [ctx0] fun e => { e with place := { e.place with bufs := [lineOf 1 true] } }
    ((s.e.buf? 0 3 .b 0).any (·.token) = true ∧ (lineOf 1 true).mask.testBit 0 = true ∧ upsetOutcome badly = none) ∧
    after (exec (.operandFill 0 3 .b 0 [] ⟨[], []⟩) s) (fun t => t == s) = true ∧
    after (exec (.operandFill 0 3 .b 0 [0] ⟨[badly], []⟩) s) (fun t =>
      t.e.buf? 0 3 .b 0 == some { lineOf 1 false with units := [] } && t.e.count 40 == 1) = true := by
  decide +kernel

/-- A panel of 4096 bytes of zero, whose CRC-32C (R23) is 0x98F94189, buffered whole. -/
def panelled : State := { (placed (sized 8 0x6000) [ctx0] fun e => { e with place := { e.place with
  bufs := (List.range 16).map fun l => { lineOf 0 false with tensor := .a, line := l } } }) with mem := memOf [(0x6000, 4, 0x98F94189)] }

theorem wit_fill_panel : (((sized 8 0x6000).checked .a).isSome = true ∧ (panelled.e.buf? 0 3 .a 0).any (fun b => !b.token) = true ∧ panelled.e.portsFree) ∧
    after (exec (.operandFill 0 3 .a 0 [] ⟨[], []⟩) panelled) (fun t => (List.range 16).all (fun l => (t.e.buf? 0 3 .a l).any (·.token)) &&
      t.e.count 42 == 1) = true := by unfold Eng.portsFree; decide +kernel

/-- The same panel over a check entry that does not match, read again `n` times already. -/
def unmatched (n : Nat) : State := { panelled with
  e := { panelled.e with place := { panelled.e.place with bufs := panelled.e.place.bufs.map fun b => { b with tries := n } } },
  mem := memOf [(0x6000, 4, 0x98F94188)] }

theorem wit_fill_panel_again : ((panelLines { (sized 8 0x6000).a with size := 8 } 0).all fun l =>
      ((unmatched 0).e.buf? 0 3 .a l).any BufLine.complete) = true ∧ (unmatched 0).e.portsFree ∧
    after (exec (.operandFill 0 3 .a 0 [] ⟨[], []⟩) (unmatched 0)) (fun t => t.e.chan == (unmatched 0).e.chan &&
      (List.range 16).all fun l => (t.e.buf? 0 3 .a l).any fun b => b.units == [] && !b.token && b.tries == 1) = true := by unfold Eng.portsFree; decide +kernel

theorem wit_fill_panel_fails : ((theCmd (unmatched 1) 5).ending = false ∧ ((unmatched 1).e.buf? 0 3 .a 0).any (fun b => b.tries != 0) = true) ∧
    after (exec (.operandFill 0 3 .a 0 [] ⟨[], []⟩) (unmatched 1)) (fun t => (t.e.cmd? 4 5).any (fun m => m.ending && m.res.status == 0x20) &&
      t.e.count 44 == 1) = true := by decide +kernel

/-- The B tile of `ctx0`, as member `m` of a gang holds it in shape `sh`. -/
def key0 (sh m : Nat) : BKey := ⟨4, 5, 0, 0, .dense, sh, 0, m⟩

theorem wit_load : let s := fed id
    (((s.e.site 0 7 0).any fun x => s.e.hasProgram 0 x && s.e.mayLoad x.pos (s.e.pod 0) x.ctx.lane (x.key 0) 0) = true ∧ s.e.slotOpen = true) ∧
    after (exec (.bLoadRow 0 7 0 0) s) (fun t => ((t.e.pod 0).feeder 0).load == some (key0 0 0, 1) &&
      (t.e.pod 0).cols.all (fun c => c.2.shadow == [(0, ⟨0x38383838, 127, 15, false, 0⟩)] && c.2.active == []) && (t.e.pod 0).cols.length == 128) = true := by
  decide +kernel

theorem wit_load_closed : let s := fed fun e => { e with throttle := 7, cue := 1 }
    s.e.slotOpen = false ∧ after (exec (.bLoadRow 0 7 0 0) s) (fun t => t == s) = true ∧
    after (exec (.aRowIssue 0 7 0) s) (fun t => t == s) = true := by decide +kernel

/-- `fed` with the B tile loaded whole. -/
def loaded (step : Option Streaming) : State := fed fun e => e.updPod 0 fun d => d.setFeeder 0 { d.feeder 0 with
  load := some (key0 0 0, 128), cur := step.map fun _ => key0 0 0, step := step }

theorem wit_row0 : let s := loaded none
    (((s.e.site 0 7 0).any fun x => s.e.rowReady 0 0 0 x && ((s.e.pod 0).feeder x.ctx.lane).step.isNone && decide (x.ctx.shape ≤ 1)) = true ∧
      s.e.slotOpen = true) ∧
    after (exec (.aRowIssue 0 7 0) s) (fun t => ((t.e.pod 0).rows.map fun (r : ARow) => (r.idx, r.att, r.marker, r.last)) == [(0, 9, true, false)] &&
      (t.e.place.atts.map fun (a : Attempt) => (a.id, a.rows, a.cols)) == [(9, 32, 128)] &&
      ((t.e.pod 0).rows.all fun (r : ARow) => r.elems.take 8 == List.replicate 8 (some (Elem.fin 8 (-3))) && r.elems.drop 8 == List.replicate 504 none)) =
        true := by decide +kernel

theorem wit_row1 : let s := loaded (some ⟨7, 0, 1, 9⟩)
    (((s.e.site 0 7 0).any fun x => s.e.rowReady 0 0 1 x) = true ∧ ((s.e.pod 0).feeder 0).step = some ⟨7, 0, 1, 9⟩) ∧
    after (exec (.aRowIssue 0 7 0) s) (fun t => ((t.e.pod 0).rows.map fun (r : ARow) => (r.idx, r.att, r.marker, r.last)) == [(1, 9, false, false)] &&
      ((t.e.pod 0).feeder 0).step == some ⟨7, 0, 2, 9⟩) = true := by decide +kernel

/-- Quad 0 as a gang in shape 2 whose members may read row 0 from cycle `c0`, or stand in the step `step`. -/
def ganged (c0 : Option Nat) (holds : List Nat) (step : Option Streaming) : State :=
  let bufs := [0, 1, 2, 3].map fun m => { lineOf 0x38 true with pos := m }
  let s := placed (prob 1 false) [{ ctx0 with shape := 2 }] fun e => { e with
    place := { e.place with runs := [⟨3, .quad 0, 4, 5, 2, []⟩], bufs := bufs } }
  let start := s.e.updGang 0 fun _ => ⟨true, none, c0, holds, []⟩
  let member := fun (m : Nat) (d : Pod) => { d with store := [(0x2000, 1)], feeders := [⟨some (key0 2 m), none, step⟩] }
  { s with e := [0, 1, 2, 3].foldl (fun e n => e.updPod n (member n)) start }

theorem wit_align : let s := ganged (some 0) [] none
    ((s.e.gang 0).formed = true ∧ (s.e.gang 0).c0 = some 0 ∧ 0 ≤ s.e.cue ∧ s.e.slotOpen = true ∧ 0 < s.e.place.gangs.length ∧
      s.e.gangFed 0 7 0 0 = true ∧ ∀ m < 4, s.e.podAt m = some m) ∧
    after (exec (.gangRowAlignment 0 7 0) s) (fun t => (t.e.gang 0).c0 == none && t.e.gangStreams 0 && [0, 1, 2, 3].all fun n =>
      ((t.e.pod n).rows.map fun (r : ARow) => (r.idx, r.ctx, r.kstep)) == [(0, 7, 0)]) = true := by decide +kernel

theorem wit_align_waits : let s := ganged (some 1) [] none
    let s2 := ganged (some 0) [3] none
    (s.e.cue < 1 ∧ (s2.e.gang 0).holds ≠ []) ∧ after (exec (.gangRowAlignment 0 7 0) s) (fun t => t == s) = true ∧
    after (exec (.gangRowAlignment 0 7 0) s2) (fun t => t == s2) = true := by decide +kernel

theorem wit_gang_rows : let s := ganged none [] (some ⟨7, 0, 1, 9⟩)
    let s2 := ganged none [3] (some ⟨7, 0, 1, 9⟩)
    (((s.e.pod 2).feeder 0).step = some ⟨7, 0, 1, 9⟩ ∧ (s.e.gang 0).holds = [] ∧ s.e.gangFed 0 7 0 1 = true ∧ (s2.e.gang 0).holds ≠ []) ∧
    after (exec (.aRowIssue 2 7 0) s) (fun t => [0, 1, 2, 3].all fun n =>
      ((t.e.pod n).rows.map fun (r : ARow) => (r.idx, r.ctx, r.kstep, r.marker)) == [(1, 7, 0, false)]) = true ∧
    after (exec (.aRowIssue 2 7 0) s2) (fun t => t == s2) = true := by decide +kernel

theorem wit_gang_row0_alone : let s := ganged (some 0) [] none
    ((s.e.pod 2).feeder 0).step = none ∧ after (exec (.aRowIssue 2 7 0) s) (fun t => t == s) = true := by decide +kernel

/-! ### The array -/

/-- An attempt of `ctx0` on pod 0's link. -/
def att0 : Attempt := ⟨9, 7, 0, 0, 0, .pod 0, .fresh, [], 32, 128⟩

/-- A row of eight ones for `att0`: sequence number, row, marker, last. -/
def rowOf (n i : Nat) (mk last : Bool) : ARow :=
  ⟨n, 9, 7, 0, 2, i, mk, last, List.replicate 8 (some (.fin 1 0)) ++ List.replicate 504 none, [], [], [], []⟩

/-- Column registers that hold the code `c` eight times. -/
def regsOf (c : Nat) : WRegs := [(0, ⟨c * 0x1010101, 127, 15, false, 0⟩), (1, ⟨c * 0x1010101, 127, 15, false, 0⟩)]

/-- A cell that a load has written behind a marker. -/
def lateCell : CellW := ⟨1, 2, 15, false, 0⟩

/-- Pod 0 with the rows `rs` in flight and column 5. -/
def inPod (rs : List ARow) (x : Column) : State := fed fun e => Eng.updPod 0 (fun d =>
  Pod.setCol { d with rows := rs, nextSeq := 2 } 5 x) { e with place := { e.place with atts := [att0] } }

/-- A partial of `att0` for column 5: row, word, low misses, token. -/
def part (row : Nat) (z : ZWord) (low : Nat) (token : Bool) : PartialW := ⟨9, 5, 5, row, z, 0, low, 0, token⟩

/-- The word of an integer. -/
def zi (n : Int) : ZWord := ZWord.ofInt 128 n 0 false

theorem wit_swap : let s := inPod [rowOf 0 1 false false, rowOf 1 0 true false] ⟨regsOf 0x38, regsOf 0x40, [(0, lateCell)], 0, 0, []⟩
    (((s.e.pod 0).pendingMarkers 5).map (·.seq) = [1]) ∧
    after (exec (.columnSwap 0 5) s) (fun t => (t.e.pod 0).col 5 ==
      ⟨regsOf 0x40, [(0, lateCell), (1, ⟨0x38383838, 127, 15, false, 0⟩)], [], 1, 2, [part 1 ZWord.zero 0 false]⟩ && t.mem == s.mem && t.e.stage == s.e.stage) = true := by
  decide +kernel

theorem wit_no_swap : let s := inPod [rowOf 0 0 false false] ⟨regsOf 0x38, regsOf 0x40, [], 0, 0, []⟩
    (s.e.pod 0).pendingMarkers 5 = [] ∧ after (exec (.columnSwap 0 5) s) (fun t => t == s) = true := by decide +kernel

theorem wit_emit_tree : let s := inPod [] ⟨[], [], [], 2, 0, [part 0 (zi 3) 0 false, part 0 ZWord.zero 0 true, part 1 (zi 4) 0 false]⟩
    (s.e.att? 9 = some att0) ∧ after (exec (.partialEmit 0 5 false) s) (fun t =>
      t.e.stage.link (.pod 0) == [part 0 (zi 3) 0 false, part 0 ZWord.zero 0 true] && ((t.e.pod 0).col 5).tree == [part 1 (zi 4) 0 false]) = true := by
  decide +kernel

theorem wit_emit_row : let s := inPod [rowOf 0 0 false true] ⟨regsOf 0x40, [], [], 0, 0, []⟩
    ((((s.e.pod 0).rowsFor 5).map (·.seq) = [0]) ∧ (s.e.site 0 7 0).any (fun x => decide (x.kind ≠ .take ∧ x.p.fast = false) &&
      !x.equalCodes (regsOf 0x40)) = true) ∧
    after (exec (.partialEmit 0 5 false) s) (fun t => t.e.stage.link (.pod 0) == [part 0 (zi 16) 0 false, part 0 ZWord.zero 0 true] &&
      ((t.e.pod 0).col 5).next == 1) = true := by decide +kernel

theorem wit_emit_outside : let s := inPod [rowOf 0 1 false false] ⟨regsOf 0x40, [], [], 0, 0, []⟩
    after (exec (.partialEmit 0 5 false) s) (fun t => t.e.stage.link (.pod 0) == [part 1 ZWord.zero 0 false]) = true := by decide +kernel

theorem wit_emit_waits : let s := inPod [rowOf 0 0 true false] ⟨regsOf 0x40, [], [], 0, 0, []⟩
    (((s.e.pod 0).rowsFor 5).head?.any (fun r => r.marker && decide (((s.e.pod 0).col 5).swapped ≤ r.seq)) = true) ∧
    after (exec (.partialEmit 0 5 false) s) (fun t => t == s) = true := by decide +kernel

/-- `prob 1` in a fast mode. -/
def fprob : Problem := { prob 1 false with sheet := { (prob 1 false).sheet with acc := 2 } }

theorem wit_emit_fast : let s0 := inPod [rowOf 0 0 false false] ⟨regsOf 0x40, [], [], 0, 0, []⟩
    let s : State := { s0 with e := { s0.e with chan := { s0.e.chan with cmds := s0.e.chan.cmds.map fun m => { m with prob := some fprob } } } }
    (fprob.fast = true ∧ ((s.e.pod 0).rowsFor 5).length = 1 ∧ (s.e.site 0 7 0).any (fun x => x.p.fast) = true) ∧
    after (exec (.partialEmit 0 5 false) s) (fun t => (t.e.stage.link (.pod 0)).map (fun q => (q.att, q.row, q.tc, q.token)) ==
      [(9, 0, 5, false)]) = true := by decide +kernel

theorem wit_emit_fault : let s := inPod [] ⟨[], [], [], 2, 0, [part 0 (zi 3) 0 false]⟩
    (s.e.serves 0 = true ∧ ((s.e.pod 0).col 5).tree ≠ []) ∧ after (exec (.partialEmit 0 5 true) s) (fun t =>
      (t.e.pod 0).lpos == none && (t.e.pod 0).faulted && t.e.count 45 == 1 && t.e.stage.link (.pod 0) == []) = true := by decide +kernel

theorem wit_emit_none : let s := inPod [] ⟨[], [], [], 2, 0, []⟩
    (((s.e.pod 0).col 5).tree = [] ∧ (s.e.pod 0).rowsFor 5 = []) ∧ after (exec (.partialEmit 0 5 true) s) (fun t => t == s) = true := by
  decide +kernel

/-- Pod 0 as member 0 of a gang of shape 2, with row 0 in flight. -/
def inGang (c : TileCtx) (r : ARow) : State :=
  let s := ganged none [] (some ⟨7, 0, 1, 9⟩)
  let e : Eng := { s.e with place := { s.e.place with atts := [{ att0 with src := .gang 0 }], ctxs := [c] } }
  { s with e := e.updPod 0 fun d => Pod.setCol { d with rows := [r], nextSeq := 1 } 5 ⟨regsOf 0x40, [], [], 0, 0, []⟩ }

theorem wit_emit_gang : let s := inGang { ctx0 with shape := 2 } (rowOf 0 0 false false)
    ((s.e.att? 9).map (·.src) = some (.gang 0) ∧ 0 < s.e.place.gangs.length ∧ ((s.e.pod 0).rowsFor 5).length = 1) ∧
    after (exec (.partialEmit 0 5 false) s) (fun t => (s.e.sentTo 0 5 (.gang 0) == [] && (t.e.sentTo 0 5 (.gang 0)).length == 1)) = true := by
  decide +kernel

/-- A context of shape 2 whose rows lie in two bands. -/
def banded : TileCtx := { ctx0 with shape := 2, parts := [⟨0, 0, 16, 0, 128, 0, false⟩, ⟨1, 16, 32, 0, 128, 0, false⟩] }

theorem wit_emit_band : let s := inGang banded (rowOf 0 15 false false)
    (banded.bandEnd 15 5 = true ∧ banded.bandEnd 14 5 = false) ∧
    after (exec (.partialEmit 0 5 false) s) (fun t => (t.e.sentTo 0 5 (.gang 0)).map (·.token) == [false, true]) = true ∧
    after (exec (.partialEmit 0 5 false) (inGang banded (rowOf 0 14 false false))) (fun t =>
      (t.e.sentTo 0 5 (.gang 0)).map (·.token) == [false]) = true := by decide +kernel

/-- A gang of shape `sh` whose members' partials for column 5 wait in the combiner, of problem `p`. -/
def combiningIn (p : Problem) (sh : Nat) (qs : List PartialW) : State := placed p [{ ctx0 with shape := sh }] fun e => Eng.updGang 0 (fun _ =>
  ⟨true, none, none, [], qs.zipIdx.map fun z => (combKey z.2 5, [z.1])⟩) { e with place := { e.place with
    atts := [{ att0 with src := .gang 0 }] } }

/-- A gang of shape 2 whose members' partials for column 5 wait in the combiner. -/
def combining (zs : List ZWord) : State := combiningIn (prob 1 false) 2 (zs.map fun z => part 0 z 1 false)

theorem wit_combine : let s := combining [zi 1, zi 2, zi (-5), zi 7]
    ((s.e.combHeads 0 5).any (fun x => !x.2.1.fast && x.2.2.length == 4) = true) ∧
    after (exec (.gangCombine 0 5 ⟨false, []⟩) s) (fun t => t.e.stage.link (.gang 0) == [part 0 (zi 5) 4 false] &&
      [0, 1, 2, 3].all fun m => nget (t.e.gang 0).comb (combKey m 5) [] == []) = true := by decide +kernel

/-- `combining` with K-step 0 of the tile frozen `n` times before. -/
def combFrozen (n : Nat) : State :=
  let s := combining [zi 1, zi 2, zi (-5), zi 7]
  { s with e := { s.e with place := { s.e.place with ctxs := s.e.place.ctxs.map fun c => { c with freezes := nput c.freezes 0 n } } } }

theorem wit_combine_fault : let s := combFrozen 1
    (1 + 1 < s.e.health.reexec.toNat ∧ (s.e.att? 9).isSome = true) ∧ after (exec (.gangCombine 0 5 ⟨true, []⟩) s) (fun t =>
      t.e.att? 9 == none && t.e.count 45 == 1 && t.e.stage.link (.gang 0) == [] &&
      (t.e.ctx? 7).any (fun c => nget c.freezes 0 0 == 2) && (t.e.cmd? 4 5).any (fun m => !m.ending)) = true := by decide +kernel

theorem wit_combine_limit : let s := combFrozen 2
    s.e.health.reexec.toNat = 3 ∧ after (exec (.gangCombine 0 5 ⟨true, []⟩) s) (fun t =>
      (t.e.cmd? 4 5).any (fun m => m.ending && m.res.status == 0x22)) = true := by decide +kernel

theorem wit_combine_upset : let s := combining [zi 1, zi 2, zi (-5), zi 7]
    upsetOutcome badly = none ∧ after (exec (.gangCombine 0 5 ⟨false, badly⟩) s) (fun t => t.e.att? 9 == none && t.e.count 40 == 1 &&
      t.e.stage.link (.gang 0) == []) = true := by decide +kernel

theorem wit_combine_waits : let s := combining [zi 1, zi 2, zi (-5)]
    s.e.combHeads 0 5 = none ∧ after (exec (.gangCombine 0 5 ⟨false, []⟩) s) (fun t => t == s) = true := by decide +kernel

/-- Fast partials of one and of two. -/
def fastPart (v : Nat) : PartialW := { part 0 ZWord.zero 0 false with fv := v }

theorem wit_combine_fast : let s := combiningIn fprob 2 ([0x3F800000, 0x40000000, 0x3F800000, 0x40000000].map fastPart)
    ((s.e.combHeads 0 5).any (fun x => x.2.1.fast && x.2.2.length == 4) = true) ∧
    after (exec (.gangCombine 0 5 ⟨false, []⟩) s) (fun t => (t.e.stage.link (.gang 0)).map (·.fv) == [0x40C00000]) = true := by decide +kernel

theorem wit_combine_two : (combMembers 4 5).length = 2 ∧
    (let s := combiningIn (prob 1 false) 4 [part 0 (zi 1) 1 false, part 0 (zi 2) 2 false]
     (s.e.combHeads 0 5).any (fun x => !x.2.1.fast && x.2.2.length == 2) = true ∧
      after (exec (.gangCombine 0 5 ⟨false, []⟩) s) (fun t => t.e.stage.link (.gang 0) == [part 0 (zi 3) 3 false]) = true) ∧
    (let s := combiningIn fprob 4 ([0x3F800000, 0x40000000].map fastPart)
     (s.e.combHeads 0 5).any (fun x => x.2.1.fast && x.2.2.length == 2) = true ∧
      after (exec (.gangCombine 0 5 ⟨false, []⟩) s) (fun t => (t.e.stage.link (.gang 0)).map (·.fv) == [0x40400000]) = true) := by decide +kernel

/-- `prob 1` as a sparse problem with records of form 1 and one row of one segment (R241, R244, R249). -/
def sprob : Problem := { prob 1 false with lens := ⟨1, 2, 8, 1⟩, sparse := some { SparseRec.ofNat 0 with form := 1, metaBase := 0x100, metaSize := 16 } }

/-- A tile on the compacted path with one segment for weight row 1. -/
def cctx (segs : List Segment) : TileCtx := { ctx0 with path := .compacted, segs := segs, expect := none, steps := 1 }

/-- A compacted tile at position 0, with lane batches in pod 0 and its operand lines filled. -/
def compacted (bs : List LaneBatch) : State :=
  let s := placed sprob [cctx [⟨1, 0, 1⟩]] fun e => { e with place := { e.place with
    atts := if bs.isEmpty then [] else [{ att0 with rows := 1 }], bufs := [lineOf 0x38 true, { lineOf 0 true with line := 1 }] } }
  { s with e := s.e.updPod 0 fun d => { d with store := [(0x2000, 1)], batches := bs } }

/-- A lane of tile column 1 with `ps` pairs left for one token. -/
def lane1 (ps : List (Elem × List (Option Elem))) (z : ZWord) (emitted : Nat) : Lane := ⟨ps, false, [(z, 0)], emitted, some 1, 3, false⟩

/-- One pair: a weight 2 and an activation 3. -/
def pair6 : Elem × List (Option Elem) := (.fin 2 0, [some (.fin 3 0)])

theorem wit_batch : let s := compacted []
    (sprob.sparse.isSome = true ∧ (s.e.pod 0).batches = [] ∧ s.e.mayStream (cctx [⟨1, 0, 1⟩]) 0 0 true false = true ∧ s.e.linkHeld (.pod 0) = false ∧
      (s.e.ctxCmd (cctx [⟨1, 0, 1⟩])).any (fun x =>
        let st : Site := ⟨0, cctx [⟨1, 0, 1⟩], x.1, x.2.1, x.2.2, ⟨0, 0, x.2.1.lens.k⟩⟩
        s.e.hasProgram 0 st && x.2.1.sparse.any (fun sp => s.e.bufHas [0] 3 (st.streamNeeds s.rd sp [⟨1, 0, 1⟩]).1 &&
          (st.streamNeeds s.rd sp [⟨1, 0, 1⟩]).2 == [] &&
            x.2.1.b.checkBase == 0 && (checkPanels s.rd (fun _ => false) 0 0 []).2 == none) &&
          s.e.bufHas [0] 3 st.gatherNeeds) = true ∧ s.e.portsFree) ∧
    after (exec (.laneBatchIssue 0 7 ⟨0, []⟩) s) (fun t => ((t.e.pod 0).batches.map fun (b : LaneBatch) => (b.att, b.tokens, b.lanes.length)) == [(9, 1, 128)] &&
      (t.e.place.atts.map fun (a : Attempt) => (a.id, a.rows)) == [(9, 1)]) = true := by unfold Eng.portsFree; decide +kernel

/-- Lane 0 of the batch in pod 0. -/
def laneNow (t : State) : Option Lane := (t.e.pod 0).batches.head?.bind fun b => b.lanes.head?

/-- The compacted tile with one lane. -/
def oneLane (l : Lane) : State := compacted [⟨9, 7, 0, 1, [l]⟩]

theorem wit_pairs : let s := oneLane (lane1 (List.replicate 5 pair6) ZWord.zero 0)
    s.e.slotOpen = true ∧ after (exec (.lanePairStep 0 0 false) s) (fun t => laneNow t == some (lane1 [pair6] (zi 24) 0) &&
      t.e.stage == s.e.stage) = true := by decide +kernel

theorem wit_pairs_closed : let s : State := { oneLane (lane1 [pair6] ZWord.zero 0) with e :=
      { (oneLane (lane1 [pair6] ZWord.zero 0)).e with throttle := 7, cue := 1 } }
    s.e.slotOpen = false ∧ after (exec (.lanePairStep 0 0 false) s) (fun t => t == s) = true := by decide +kernel

theorem wit_lane_emits : let s := oneLane (lane1 [] (zi 24) 0)
    after (exec (.lanePairStep 0 0 false) s) (fun t => laneNow t == some (lane1 [] (zi 24) 1) &&
      t.e.stage.link (.pod 0) == [⟨9, 0, 1, 0, zi 24, 0, 0, 0, false⟩]) = true := by decide +kernel

theorem wit_lane_ends : let s := oneLane (lane1 [] (zi 24) 1)
    after (exec (.lanePairStep 0 0 false) s) (fun t => (t.e.pod 0).batches == [] &&
      t.e.stage.link (.pod 0) == [⟨9, 0, 1, 0, ZWord.zero, 0, 0, 3, true⟩]) = true := by decide +kernel

theorem wit_lane_fault : let s := oneLane (lane1 [pair6] ZWord.zero 0)
    s.e.serves 0 = true ∧ after (exec (.lanePairStep 0 0 true) s) (fun t => (t.e.pod 0).faulted && (t.e.pod 0).lpos == none &&
      t.e.count 45 == 1) = true := by decide +kernel

/-! ### The Stage -/

/-- `ctx0` and one attempt, with the link of pod 0. -/
def staged (c : TileCtx) (a : Attempt) (link : List PartialW) (f : Stage → Stage) : State := placed (prob 1 false) [c] fun e =>
  { e with place := { e.place with atts := [a] }, stage := f (e.stage.setLink (.pod 0) link) }

/-- Bank `b` of slice 0 set. -/
def setBank (b : Nat) (q : Bank) (g : Stage) : Stage := { g with banks := nput g.banks (bankKey 0 b) q }

/-- Slice, bank and sector of row 0, column 5 of `ctx0`. -/
def cell5 : Nat × Nat × Nat := (ctx0.place 0 0 5).getD (0, 0, 0)

/-- A progress record of K-step 0 with `n` rows of column 5 added, held by attempt 9. -/
def prog (n : Nat) : Progress := ⟨0, 0, if n = 0 then [] else [(5, n)], some 9⟩

theorem wit_arrival : let s := staged ctx0 att0 [part 0 (zi 3) 0 false, part 1 (zi 4) 0 false] id
    (s.e.held att0 = false ∧ ctx0.place 0 0 5 = some cell5 ∧ (s.e.stage.bank cell5.1 (s.e.stage.physBank cell5.1 cell5.2.1)).link = 24) ∧
    after (exec (.updateArrival ⟨.pod 0, []⟩) s) (fun t => t.e.stage.link (.pod 0) == [part 1 (zi 4) 0 false] &&
      t.e.stage.bank 0 cell5.2.1 == { s.e.stage.bank 0 cell5.2.1 with q := [⟨false, cell5.2.2, [(part 0 (zi 3) 0 false, accColOf ctx0 0 5)], none⟩], link := 23 }) = true := by
  decide +kernel

theorem wit_no_credit : let s := staged ctx0 att0 [part 0 (zi 3) 0 false] fun g => setBank cell5.2.1 { g.bank 0 cell5.2.1 with link := 0 } g
    (s.e.stage.bank 0 cell5.2.1).link = 0 ∧ after (exec (.updateArrival ⟨.pod 0, []⟩) s) (fun t => t == s) = true := by decide +kernel

theorem wit_token : let s := staged ctx0 att0 [part 0 ZWord.zero 0 true] id
    after (exec (.updateArrival ⟨.pod 0, []⟩) s) (fun t => t.e.att? 9 == some { att0 with tokens := [(5, 0)] } && t.e.stage.link (.pod 0) == []) = true := by
  decide +kernel

theorem wit_no_attempt : let s := staged ctx0 { att0 with id := 8 } [part 0 (zi 3) 0 false] id
    s.e.att? 9 = none ∧ after (exec (.updateArrival ⟨.pod 0, []⟩) s) (fun t => t.e.stage.link (.pod 0) == []) = true ∧
    after (exec (.updateArrival ⟨.pod 1, []⟩) s) (fun t => t == s) = true := by decide +kernel

theorem wit_held : let s := staged { ctx0 with progress := [prog 1] } att0 [part 0 (zi 3) 0 false] id
    let s2 : State := { s with e := { s.e with place := { s.e.place with atts := [att0, { att0 with id := 10, st := .admitted }] } } }
    s2.e.held att0 = true ∧ after (exec (.updateArrival ⟨.pod 0, []⟩) s2) (fun t => t == s2) = true := by decide +kernel

theorem wit_arrival_lost : let s := staged ctx0 att0 [part 0 (zi 3) 0 false] id
    (upsetOutcome badly = none ∧ (s.e.ctx? 7).isSome = true) ∧ after (exec (.updateArrival ⟨.pod 0, badly⟩) s) (fun t =>
      t.e.att? 9 == none && t.e.stage.sectors == [] && t.e.stage.banks == s.e.stage.banks && t.e.count 40 == 1 &&
      (t.e.cmd? 4 5).any (fun m => m.ending && m.res.status == 0x21)) = true := by decide +kernel

/-- An update of words 0 and 1 of accumulate window 1 in staging sector 3 of slice 0, bank 2. -/
def addx1 : StageUpd := ⟨.addx 1 9 3, (0, 2, 3), [(0, zi 3), (1, zi 4)]⟩

theorem wit_arrival_staging : let s := staged ctx0 att0 [] fun g => g.setXlink (.xbar .loopback) [addx1]
    ((s.e.stage.bank 0 (s.e.stage.physBank 0 2)).xbar = 8) ∧ after (exec (.updateArrival ⟨.xbar .loopback, []⟩) s) (fun t =>
      t.e.stage.xlink (.xbar .loopback) == [] && t.e.stage.bank 0 2 == { s.e.stage.bank 0 2 with
        xbar := 7, q := [⟨true, sectorKey 0 2 3, [], some addx1⟩] }) = true := by decide +kernel

/-- `addx1` waits on its stream, and its bank has no crossbar credit left. -/
def addxWaits : State := staged ctx0 att0 [] fun g => setBank 2 { g.bank 0 2 with xbar := 0 } (g.setXlink (.xbar .loopback) [addx1])

theorem wit_arrival_staging_waits : let s := addxWaits
    (s.e.stage.bank 0 (s.e.stage.physBank 0 2)).xbar = 0 ∧
    after (exec (.updateArrival ⟨.xbar .loopback, []⟩) s) (fun t => t == s) = true := by decide +kernel

theorem wit_credit : let s := staged ctx0 att0 [] fun g => setBank 3 { g.bank 0 3 with owedLink := 1, link := 7 } g
    ((s.e.stage.bank 0 3).owedLink ≠ 0 ∧ (s.e.stage.bank 0 3).owedXbar = 0) ∧
    after (exec (.creditReturn 0 3 false) s) (fun t => (t.e.stage.bank 0 3).link == 8 && (t.e.stage.bank 0 3).owedLink == 0) = true ∧
    after (exec (.creditReturn 0 3 true) s) (fun t => t == s) = true := by decide +kernel

/-- An update of some words at the head of the queue of the bank of row 0, column 5. -/
def queued (c : TileCtx) (a : Attempt) (adds : List (PartialW × Nat)) : State := staged c a [] fun g =>
  setBank cell5.2.1 { g.bank 0 cell5.2.1 with q := [⟨false, cell5.2.2, adds, none⟩], link := 7 } g

/-- The update of row `row` and column 5 at the head of the queue of its bank. -/
def queuedAt (c : TileCtx) (a : Attempt) (row : Nat) : State := queued c a [(part row (zi 3) 2 false, accColOf ctx0 0 5)]

theorem wit_rmw : let s := queuedAt { ctx0 with progress := [prog 0] } { att0 with st := .admitted } 0
    ((s.e.stage.readSector cell5.2.2 []).any (fun r => !r.dataFixed && !(zAdd 128 (sectorWord 0 (accColOf ctx0 0 5) r) (zi 3)).residueFault) = true) ∧
    after (exec (.readModifyWrite 0 cell5.2.1 ⟨[], []⟩ false) s) (fun t => t.e.ctx? 7 == some { ctx0 with low := 2, progress := [prog 1] } &&
      (t.e.stage.bank 0 cell5.2.1).q == [] && (t.e.stage.bank 0 cell5.2.1).owedLink == 1 &&
      (t.e.stage.readSector cell5.2.2 []).any (fun r => sectorWord 0 (accColOf ctx0 0 5) r == zi 3)) = true := by decide +kernel

/-- Column 5 and the other column of its sector. -/
def pair5 : List (PartialW × Nat) :=
  [(part 0 (zi 3) 0 false, accColOf ctx0 0 5), ({ part 0 (zi 4) 0 false with col := 4, tc := 4 }, accColOf ctx0 0 4)]

theorem wit_rmw_two : let s := queued { ctx0 with progress := [prog 0] } { att0 with st := .admitted } pair5
    ctx0.place 0 0 4 = some cell5 ∧
    after (exec (.readModifyWrite 0 cell5.2.1 ⟨[], []⟩ false) s) (fun t =>
      (t.e.stage.readSector cell5.2.2 []).any (fun r => sectorWord 0 (accColOf ctx0 0 5) r == zi 3 && sectorWord 0 (accColOf ctx0 0 4) r == zi 4) &&
      (t.e.ctx? 7).any (fun c => c.progress.map (·.rows) == [[(4, 1), (5, 1)]])) = true := by decide +kernel

theorem wit_rmw_fresh : let s := queuedAt ctx0 att0 0
    (s.e.judge ctx0 att0 = .admitted ∧ ctx0.progress = []) ∧
    after (exec (.readModifyWrite 0 cell5.2.1 ⟨[], []⟩ false) s) (fun t => (t.e.att? 9).map (·.st) == some .admitted &&
      (t.e.ctx? 7).map (·.progress) == some [⟨0, 0, [(5, 1)], some 9⟩] &&
      (t.e.stage.readSector cell5.2.2 []).any (fun r => sectorWord 0 (accColOf ctx0 0 5) r == zi 3)) = true := by decide +kernel

theorem wit_rmw_becomes_duplicate : let s := queuedAt { ctx0 with marks := [(0, 0)] } att0 0
    s.e.judge { ctx0 with marks := [(0, 0)] } att0 = .duplicate ∧
    after (exec (.readModifyWrite 0 cell5.2.1 ⟨[], []⟩ false) s) (fun t => t.e.att? 9 == some { att0 with st := .duplicate } &&
      t.e.stage.sectors == []) = true := by decide +kernel

theorem wit_rmw_held : let s0 := queuedAt { ctx0 with progress := [prog 1] } att0 0
    let two : List Attempt := [att0, { att0 with id := 10, st := .admitted }]
    let s : State := { s0 with e := { s0.e with place := { s0.e.place with atts := two } } }
    s.e.judge { ctx0 with progress := [prog 1] } att0 = .held ∧
    after (exec (.readModifyWrite 0 cell5.2.1 ⟨[], []⟩ false) s) (fun t => t == s) = true := by decide +kernel

theorem wit_rmw_early : let s := queuedAt { ctx0 with progress := [prog 1] } { att0 with st := .admitted } 0
    (((s.e.stage.bank 0 cell5.2.1).q.map fun u => u.adds.map fun x => x.1.row) = [[0]]) ∧
    after (exec (.readModifyWrite 0 cell5.2.1 ⟨[], []⟩ false) s) (fun t => t.e.place == s.e.place && t.e.count 14 == 1 && t.e.stage.sectors == []) = true := by
  decide +kernel

theorem wit_rmw_duplicate : let s := queuedAt ctx0 { att0 with st := .duplicate } 0
    after (exec (.readModifyWrite 0 cell5.2.1 ⟨[], []⟩ false) s) (fun t => t.e.place == s.e.place && t.e.stage.sectors == [] &&
      (t.e.stage.bank 0 cell5.2.1).q == []) = true := by decide +kernel

theorem wit_rmw_stale : let s := queuedAt { ctx0 with gen := 1 } att0 0
    s.e.judge { ctx0 with gen := 1 } att0 = .stale ∧
    after (exec (.readModifyWrite 0 cell5.2.1 ⟨[], []⟩ false) s) (fun t => t.e.place.atts == [] && t.e.stage.sectors == [] && t.e.count 13 == 1) = true := by
  decide +kernel

theorem wit_rmw_fault : let s := queuedAt { ctx0 with progress := [prog 0], freezes := [(0, 1)] } { att0 with st := .admitted } 0
    s.e.health.reexec.toNat = 3 ∧ after (exec (.readModifyWrite 0 cell5.2.1 ⟨[], []⟩ true) s) (fun t => t.e.stage.sectors == [] &&
      t.e.att? 9 == none && t.e.count 45 == 1 && (t.e.ctx? 7).any (fun c => nget c.freezes 0 0 == 2 && c.low == 0) &&
      (t.e.cmd? 4 5).any (fun m => !m.ending)) = true := by decide +kernel

theorem wit_rmw_limit : let s := queuedAt { ctx0 with progress := [prog 0], freezes := [(0, 2)] } { att0 with st := .admitted } 0
    s.e.health.reexec.toNat ≤ 2 + 1 ∧ after (exec (.readModifyWrite 0 cell5.2.1 ⟨[], []⟩ true) s) (fun t =>
      (t.e.cmd? 4 5).any (fun m => m.ending && m.res.status == 0x22)) = true := by decide +kernel

theorem wit_rmw_bad_sum : let bad : List (PartialW × Nat) := [(part 0 { zi 3 with res := 1 } 2 false, accColOf ctx0 0 5)]
    let s := queued { ctx0 with progress := [prog 0] } { att0 with st := .admitted } bad
    ((s.e.stage.readSector cell5.2.2 []).any (fun r => (bad.foldl (addWord 0) (r, false, 0)).2.1) = true) ∧
    after (exec (.readModifyWrite 0 cell5.2.1 ⟨[], []⟩ false) s) (fun t => t.e.stage.sectors == [] && t.e.count 45 == 1 &&
      t.e.att? 9 == none) = true := by decide +kernel

/-- Window 1 of two words, open, with `addx1` at the head of a bank's queue. -/
def addxQueued : State :=
  let s := staged ctx0 att0 [] fun g => setBank 2 { g.bank 0 2 with q := [⟨true, sectorKey 0 2 3, [], some addx1⟩], xbar := 7 } g
  { s with e := { s.e with remote := { s.e.remote with
      wins := [⟨1, WinEntry.ofNat (0x3000 + 2 * 2 ^ 64 + 2 ^ 112), [zi 5, zi 6], true, false, none, []⟩] } } }

theorem wit_rmw_window : (addxQueued.e.nothingHeld ∧ (addxQueued.e.win? 1).any (fun a => a.lost == [] && a.faulted == none) = true) ∧
    after (exec (.readModifyWrite 0 2 ⟨[], []⟩ false) addxQueued) (fun t => (t.e.win? 1).any (fun a => a.words == [zi 8, zi 10]) &&
      t.e.count 28 == 2 && t.e.count 45 == 0) = true ∧
    after (exec (.readModifyWrite 0 2 ⟨[], []⟩ true) addxQueued) (fun t => t.e.win? 1 == addxQueued.e.win? 1 && t.e.count 28 == 0 &&
      t.e.count 45 == 1) = true := by unfold Eng.nothingHeld; decide +kernel

theorem wit_rmw_empty : let s := staged ctx0 att0 [] id
    (s.e.stage.bank 0 3).q = [] ∧ after (exec (.readModifyWrite 0 3 ⟨[(1, 1)], []⟩ true) s) (fun t => t == s) = true := by decide +kernel

/-- An attempt whose 128 tokens have come. -/
def fullAtt (st : AttState) : Attempt := { att0 with st := st, tokens := (List.range 128).map fun c => (c, 1) }

theorem wit_kstep_commit : let s := staged { ctx0 with progress := [prog 1] } (fullAtt .admitted) [] id
    (s.e.allTokens (fullAtt .admitted) = true ∧ (s.e.ctxCmd ctx0).isSome = true) ∧
    after (exec (.commit 9) s) (fun t => t.e.place.atts == [] && t.e.ctx? 7 == some { ctx0 with
      marks := [(0, 0)], count := 1, dropped := 128, readyAt := some 1 }) = true := by decide +kernel

theorem wit_commit_fresh : let s := staged ctx0 (fullAtt .fresh) [] id
    s.e.judge ctx0 (fullAtt .fresh) = .admitted ∧
    after (exec (.commit 9) s) (fun t => (t.e.ctx? 7).any (fun c => c.marks == [(0, 0)] && c.readyAt.isSome)) = true := by decide +kernel

theorem wit_commit_stale : let s := staged { ctx0 with gen := 1 } (fullAtt .fresh) [] id
    s.e.judge { ctx0 with gen := 1 } (fullAtt .fresh) = .stale ∧
    after (exec (.commit 9) s) (fun t => t.e.place.atts == [] && t.e.place.ctxs == s.e.place.ctxs && t.e.count 13 == 1) = true := by
  decide +kernel

theorem wit_commit_fresh_duplicate : let s := staged { ctx0 with marks := [(0, 0)] } (fullAtt .fresh) [] id
    s.e.judge { ctx0 with marks := [(0, 0)] } (fullAtt .fresh) = .duplicate ∧
    after (exec (.duplicateCommit 9) s) (fun t => t.e.place.atts == [] && t.e.place.ctxs == s.e.place.ctxs && t.e.count 12 == 1) = true := by
  decide +kernel

theorem wit_commit_waits : let s := staged ctx0 { att0 with st := .admitted } [] id
    s.e.allTokens att0 = false ∧ after (exec (.commit 9) s) (fun t => t == s) = true ∧
    after (exec (.duplicateCommit 9) s) (fun t => t == s) = true := by decide +kernel

theorem wit_commit_duplicate : let s := staged { ctx0 with marks := [(0, 0)] } (fullAtt .duplicate) [] id
    s.e.allTokens (fullAtt .duplicate) = true ∧ after (exec (.commit 9) s) (fun t => t == s) = true ∧
    after (exec (.duplicateCommit 9) s) (fun t => t.e.place.atts == [] && t.e.place.ctxs == s.e.place.ctxs && t.e.count 12 == 1) = true := by
  decide +kernel

/-- `prob 1` with D of 128-bit words at 0x400 and their side bytes at 0x500, two columns wide. -/
def dprob : Problem := { prob 1 false with lens := ⟨1, 2, 8, 1⟩, d := some { Opd.ofNat 0 with fmt := 9, base := 0x400, sideBase := 0x500, size := 32 } }

/-- D words 3 and 4 in memory, the residue of the second `r` (R23). -/
def dState (r : Nat) : State :=
  let s := placed dprob [{ ctx0 with inRows := 1, rows := 32 }] id
  { s with mem := memOf [(0x400, 1, 3), (0x410, 1, 4), (0x500, 1, 3), (0x502, 1, r)] }

theorem wit_load_d : let s := dState 4
    ((dprob.dWord s.rd (dprob.d.getD dprob.c) 0 0 0).residueFault = false ∧ (dprob.dWord s.rd (dprob.d.getD dprob.c) 0 0 1).residueFault = false ∧
      (s.e.ctxCmd ctx0).any (fun m => !m.1.ending) = true) ∧
    after (exec (.initialAccumulatorLoad 7 ⟨[], false⟩) s) (fun t => (t.e.ctx? 7).any (·.dLoaded) && t.e.chan == s.e.chan &&
      [(0, 3), (1, 4)].all fun x => (ctx0.place 0 0 x.1).any fun y => (t.e.stage.readSector y.2.2 []).any fun r =>
        sectorWord 0 (accColOf ctx0 0 x.1) r == zi x.2) = true := by decide +kernel

theorem wit_load_d_fault : let s := dState 4
    (s.e.portsFree ∧ s.e.canReplay { ctx0 with inRows := 1, rows := 32 } = true) ∧
    after (exec (.initialAccumulatorLoad 7 ⟨[], true⟩) s) (fun t => (t.e.ctx? 7).any (fun c => c.needReplay == some 0x22 && !c.dLoaded) &&
      t.e.stage == s.e.stage && t.e.count 45 == 1) = true := by unfold Eng.portsFree; decide +kernel

theorem wit_load_d_bad : let s := dState 5
    (dprob.dWord s.rd (dprob.d.getD dprob.c) 0 0 1).residueFault = true ∧
    after (exec (.initialAccumulatorLoad 7 ⟨[], false⟩) s) (fun t => t.e.stage == s.e.stage && (t.e.cmd? 4 5).any (fun m => m.ending && m.res.status == 0x22) &&
      t.e.count 45 == 1) = true := by decide +kernel

/-- `dState` with panel checks of D at 0x600, which its panel of 4,096 bytes does not pass. -/
def dChecked : State :=
  let p : Problem := { dprob with d := dprob.d.map fun d => { d with checkBase := 0x600 } }
  { placed p [{ ctx0 with inRows := 1, rows := 32 }] id with mem := memOf [(0x400, 1, 3), (0x410, 1, 4), (0x500, 1, 3), (0x502, 1, 4)] }

theorem wit_load_d_panel : crc32c (rdBytes dChecked.rd 0x400 4096) ≠ rdNat dChecked.rd 0x600 4 ∧
    after (exec (.initialAccumulatorLoad 7 ⟨[], false⟩) dChecked) (fun t => t.e.stage == dChecked.e.stage && t.e.count 44 == 1 &&
      (t.e.cmd? 4 5).any (fun m => m.ending && m.res.status == 0x20)) = true := by decide +kernel

/-- `ctx0` with one row. -/
def ctxRow : TileCtx := { ctx0 with rows := 1, parts := [⟨0, 0, 1, 0, 128, 0, false⟩] }

/-- A sector of `ctx0` and one of another tile that are not zero. -/
def filled (g : Stage) : Stage := { g with sectors := [(cell5.2.2, List.replicate 41 1), (cell5.2.2 + 3000000, List.replicate 41 2)] }

theorem wit_sweep : let s := staged { ctxRow with sweeping := true } att0 [] filled
    (cell5.2.2 ∈ ctxRow.keys ∧ cell5.2.2 + 3000000 ∉ ctxRow.keys ∧ ∀ x ∈ s.e.chan.chans, x.2.rst = 0) ∧
    after (exec (.zeroSweep 7) s) (fun t => t.e.place.ctxs == [] && t.e.place.atts == [] &&
      t.e.stage.sectors == [(cell5.2.2 + 3000000, List.replicate 41 2)]) = true := by decide +kernel

theorem wit_sweep_ended : let s0 := staged ctxRow att0 [] filled
    let s : State := { s0 with e := { s0.e with place := { s0.e.place with atts := [] }, chan := { s0.e.chan with
      cmds := s0.e.chan.cmds.map fun m => { m with ending := true } } } }
    ((s.e.cmd? 4 5).all (·.ending) = true ∧ ctxRow.started = false ∧ s.e.place.atts = []) ∧
    after (exec (.zeroSweep 7) s) (fun t => t.e.place.ctxs == [] && t.e.stage.sectors == [(cell5.2.2 + 3000000, List.replicate 41 2)]) = true := by
  decide +kernel

theorem wit_tile_replay : let s := staged { ctxRow with needReplay := some 0x21, marks := [(0, 0)], count := 1 } att0 [] filled
    s.e.canReplay { ctxRow with needReplay := some 0x21, marks := [(0, 0)], count := 1 } = true ∧
    after (exec (.tileReplay 7 false) s) (fun t => (t.e.ctx? 7).any (fun d => d.gen == 1 && d.marks == [] && d.count == 0 && d.needReplay == none) &&
      (t.e.cmd? 4 5).any (fun m => m.res.replayed && m.replays == [(⟨0, 0, 0⟩, 128)]) && t.e.count 47 == 1 &&
      t.e.stage.sectors == [(cell5.2.2 + 3000000, List.replicate 41 2)]) = true := by decide +kernel

theorem wit_no_replay : let c := { ctx0 with needReplay := some 0x21, wrote := true }
    let s : State := { staged c att0 [] filled with e := { (staged c att0 [] filled).e with health := { base.e.health with replay := 0 } } }
    s.e.canReplay c = false ∧ after (exec (.tileReplay 7 false) s) (fun t => t.e.ctx? 7 == some { ctx0 with wrote := true } &&
      (t.e.cmd? 4 5).any (fun m => m.ending && m.res.status == 0x21)) = true := by decide +kernel

theorem wit_replay_unasked : let s := staged ctx0 att0 [] id
    ctx0.needReplay = none ∧ after (exec (.tileReplay 7 false) s) (fun t => t == s) = true := by decide +kernel

theorem wit_read_back : let s := staged ctx0 att0 [] fun g => { g with readBack := [sectorKey 0 2 0, sectorKey 0 3 0] }
    (sectorKey 0 2 0 ∈ s.e.stage.readBack ∧ (upsetOutcome []).any (fun r => !r.dataFixed) = true ∧ sectorKey 0 4 0 ∉ s.e.stage.readBack) ∧
    after (exec (.slotReadBack 0 2 0 ⟨[], []⟩) s) (fun t => t.e.stage == { s.e.stage with readBack := [sectorKey 0 3 0] }) = true ∧
    after (exec (.slotReadBack 0 4 0 ⟨[], []⟩) s) (fun t => t == s) = true := by decide +kernel

theorem wit_read_back_corrected : let s := staged ctx0 att0 [] fun g => { g with readBack := [sectorKey 0 2 0] }
    ((upsetOutcome [(0, 1)]).any (·.dataFixed) = true ∧ (s.e.stage.bank 0 2).corrected < s.e.health.ceLimit.toNat) ∧
    after (exec (.slotReadBack 0 2 0 ⟨[(0, 1)], []⟩) s) (fun t => t.e.count 39 == 1 && (t.e.stage.bank 0 2).corrected == 1 &&
      t.e.stage.copies == []) = true := by decide +kernel

theorem wit_read_back_fails : let s := staged ctx0 att0 [] fun g => { g with readBack := [sectorKey 0 2 0] }
    (upsetOutcome badly = none ∧ s.e.stage.withdrawn.contains 0 = false ∧ s.e.stage.copies = [] ∧ s.e.stage.spareOf 0 2 = none ∧
      s.e.stage.freeSpare 0 = some 0) ∧
    after (exec (.slotReadBack 0 2 0 ⟨badly, []⟩) s) (fun t => t.e.stage.copies == [⟨0, 2, 128, 0⟩] && t.e.health.logCount == 1) = true := by
  decide +kernel

theorem wit_bank_copy : let s := staged ctx0 att0 [] fun g => { g with copies := [⟨0, 5, 130, 0⟩] }
    let s2 : State := { s with e := { s.e with cue := 2048 } }
    (s.e.cue < 0 + 2048 ∧ 0 + 2048 ≤ s2.e.cue) ∧ after (exec (.bankCopyComplete 0 5 []) s) (fun t => t == s) = true ∧
    after (exec (.bankCopyComplete 0 5 []) s2) (fun t => t.e.stage.copies == [] && t.e.stage.spareMap == [(2, 5)]) = true := by decide +kernel

theorem wit_bank_copy_of_spare : let s0 := staged ctx0 att0 [] fun g => { g with copies := [⟨0, 5, 130, 0⟩], spareMap := [(1, 5)] }
    let s : State := { s0 with e := { s0.e with cue := 2048 } }
    s.e.stage.spareOf 0 5 = some 1 ∧
    after (exec (.bankCopyComplete 0 5 []) s) (fun t => t.e.stage.copies == [] && t.e.stage.spareMap == [(2, 5)]) = true := by decide +kernel

/-! ### The drains -/

/-- `prob 1` with two columns of FP32 output at 0x3000, rows 0x100 bytes apart. -/
def oprob : Problem := { prob 1 false with lens := ⟨1, 2, 8, 1⟩, c := { Opd.ofNat 0 with fmt := 6, base := 0x3000, size := 0x100, ostride := 0x100 } }

/-- A tile whose drain is due, with the words 3 and 4 in its first two columns. -/
def ready0 : TileCtx := { ctx0 with count := 1, marks := [(0, 0)], readyAt := some 0 }

/-- Two accumulators of row 0: column `j` holds `j + 3`. -/
def words34 (g : Stage) : Stage := [0, 1].foldl (fun g j =>
  match ctx0.place 0 0 j with
  | some (_, _, key) => match g.readSector key [] with
    | some r => let r := putWord 0 (accColOf ctx0 0 j) (zi (j + 3)) r
                g.putSector key r.data r.side
    | none => g
  | none => g) g

/-- Drain 0 at work on `c` with job `j`. -/
def draining (c : TileCtx) (j : Option DrainJob) (f : Eng → Eng) : State := placed oprob [c] fun e => f (Eng.updDrain 0 (fun u => { u with job := j })
  { e with stage := words34 e.stage })

/-- The job of a drain on part 0 that has read `n` rows and is to clear `ks`. -/
def job (n : Nat) (ks : List Nat) : DrainJob := ⟨7, 0, n, ks, [], false, false, false⟩

theorem wit_drain_start : let s := draining ready0 none id
    ((s.e.drainUnit 0).job = none ∧ s.e.readyParts 0 ≠ []) ∧ after (exec (.drainStart 0) s) (fun t => (t.e.drainUnit 0).job == some (job 0 []) &&
      t.e.ctx? 7 == some { ready0 with started := true }) = true ∧ after (exec (.drainStart 1) s) (fun t => t == s) = true ∧
    after (exec (.drainStart 32) s) (fun t => t == s) = true := by decide +kernel

theorem wit_drain_order : let a := { ready0 with readyAt := some 1 }
    let s := placed oprob [a, { ready0 with id := 8 }] id
    (s.e.readyParts 0).length = 2 ∧ after (exec (.drainStart 0) s) (fun t => (t.e.drainUnit 0).job.map (·.ctx) == some 8) = true := by decide +kernel

theorem wit_drain_row : let s := draining { ready0 with started := true } (some (job 0 [])) id
    ((job 0 []).stopped = false ∧ ((ctx0.rowSectors 0 0 ⟨0, 0, 32, 0, 128, 0, false⟩).all fun x => (s.e.stage.readSector x.2 []).any fun r => !r.dataFixed) = true) ∧
    after (exec (.drainRow 0 ⟨[], [], []⟩) s) (fun t => (t.e.drainUnit 0).out == [⟨4, 5, [(0x3000, 0xFF, 0), (0x3001, 0xFF, 0), (0x3002, 0xFF, 0x40), (0x3003, 0xFF, 0x40),
        (0x3004, 0xFF, 0), (0x3005, 0xFF, 0), (0x3006, 0xFF, 0x80), (0x3007, 0xFF, 0x40)]⟩] && t.e.count 5 == 2 && t.e.stage == s.e.stage &&
      (t.e.drainUnit 0).job.any (fun (u : DrainJob) => u.next == 1 && u.clear.length == (ctx0.rowSectors 0 0 ⟨0, 0, 32, 0, 128, 0, false⟩).length)) = true := by
  decide +kernel

theorem wit_drain_row_outside : let s := draining { ready0 with started := true } (some (job 1 [])) id
    after (exec (.drainRow 0 ⟨[], [], []⟩) s) (fun t => (t.e.drainUnit 0).out == [] && t.e.count 5 == 0 && (t.e.drainUnit 0).job.any (fun (u : DrainJob) => u.next == 2)) =
      true := by decide +kernel

theorem wit_drain_row_end : let s := draining { ready0 with started := true } (some (job 32 [1])) id
    32 ≤ 0 + (job 32 [1]).next ∧ after (exec (.drainRow 0 ⟨[], [], []⟩) s) (fun t => t == s) = true := by decide +kernel

theorem wit_drain_row_upset : let s := draining { ready0 with started := true } (some (job 0 [])) id
    (((ctx0.rowSectors 0 0 ⟨0, 0, 32, 0, 128, 0, false⟩).map (·.1)).take 2 = [0, 1] ∧ upsetOutcome badly = none ∧
      s.e.canReplay { ready0 with started := true } = true ∧ 0 < s.e.drain.units.length) ∧
    after (exec (.drainRow 0 ⟨[(0, badly), (1, badly)], [], []⟩) s) (fun t => t.e.count 40 == 2 && t.e.stage.suspect.length == 2 &&
      (t.e.drainUnit 0).out == [] && (t.e.drainUnit 0).job == some { job 0 [] with stopped := true } &&
      (t.e.ctx? 7).any (fun c => c.needReplay == some 0x21)) = true := by decide +kernel

/-- `draining` with a word in column 0 whose residue does not match, and `n` tile replays allowed. -/
def mismatched (n : BitVec 8) (wrote : Bool) : State :=
  let s := draining { ready0 with started := true, wrote := wrote } (some (job 0 [])) id
  { s with e := { s.e with health := { s.e.health with replay := n }, stage :=
      match s.e.stage.readSector cell0 [] with
      | some r => let r := putWord 0 (accColOf ctx0 0 0) { zi 3 with res := 1 } r
                  s.e.stage.putSector cell0 r.data r.side
      | none => s.e.stage } }
where cell0 : Nat := ((ctx0.place 0 0 0).getD (0, 0, 0)).2.2

theorem wit_drain_row_mismatch : let s := mismatched 2 false
    (s.e.canReplay { ready0 with started := true } = true ∧ ({ zi 3 with res := 1 } : ZWord).residueFault = true) ∧
    after (exec (.drainRow 0 ⟨[], [], []⟩) s) (fun t => t.e.count 45 == 1 && (t.e.drainUnit 0).out == [] &&
      (t.e.ctx? 7).any (fun c => c.needReplay == some 0x22) && (t.e.cmd? 4 5).any (fun m => !m.ending)) = true := by decide +kernel

theorem wit_drain_row_unrecovered : let s := mismatched 0 true
    s.e.canReplay { ready0 with started := true, wrote := true } = false ∧
    after (exec (.drainRow 0 ⟨[], [], []⟩) s) (fun t => t.e.count 45 == 1 && (t.e.drainUnit 0).job == none &&
      (t.e.cmd? 4 5).any (fun m => m.ending && m.res.status == 0x22)) = true := by decide +kernel

theorem wit_clear : let s := draining { ready0 with started := true } (some (job 1 [cell5.2.2, cell5.2.2 + 1])) fun e => { e with stage := filled e.stage }
    ([cell5.2.2 + 1] ≠ []) ∧ after (exec (.drainClear 0) s) (fun t => (t.e.drainUnit 0).job == some (job 1 [cell5.2.2 + 1]) &&
      t.e.stage.sectors == [(cell5.2.2 + 3000000, List.replicate 41 2)] && t.e.place == s.e.place) = true := by decide +kernel

theorem wit_clear_nothing : let s := draining { ready0 with started := true } (some (job 1 [])) id
    (job 1 []).clear = [] ∧ after (exec (.drainClear 0) s) (fun t => t == s) = true := by decide +kernel

theorem wit_clear_part : let p2 : Part := ⟨1, 0, 32, 128, 128, 0, false⟩
    let s := draining { ready0 with started := true, parts := ctx0.parts ++ [p2] } (some (job 32 [cell5.2.2])) id
    ((lset (ctx0.parts ++ [p2]) 0 fun p => { p with drained := true }).all (·.drained) = false) ∧
    after (exec (.drainClear 0) s) (fun t => (t.e.drainUnit 0).job == none && (t.e.ctx? 7).any (fun c => c.parts.map (·.drained) == [true, false])) = true := by
  decide +kernel

/-- The last sector of the last part. -/
def lastClear (as : List Attempt) : State := draining { ready0 with started := true, low := 5, dropped := 6, tally := ⟨1, 2, 0, 0, 0, 0⟩ }
  (some (job 32 [cell5.2.2])) fun e => { e with place := { e.place with atts := as } }

theorem wit_tile_done : let s := lastClear []
    (∀ a ∈ s.e.place.atts, a.ctx ≠ 7) ∧ after (exec (.drainClear 0) s) (fun t => t.e.ctx? 7 == none && (t.e.drainUnit 0).job == none && t.e.count 4 == 1 &&
      t.e.cmd? 4 5 == some { theCmd s 5 with res := { (theCmd s 5).res with count := 5, rangeCount := 1, nonfinite := 2, dropped := 6 } }) = true := by
  decide +kernel

theorem wit_tile_waits : let s := lastClear [att0]
    (∃ a ∈ s.e.place.atts, a.ctx = 7) ∧ after (exec (.drainClear 0) s) (fun t => t == s) = true := by decide +kernel

/-- Drain 0 with output and hand-offs, in a state that meets the invariant. -/
def sending (out : List OutLine) (h : List HandOff) (f : Eng → Eng) : State := { st (fun e => f (e.updDrain 0 fun u => { u with out := out, hand := h })) with
  mem := memOf [(0x3000, 2, 0xABCD)] }

theorem wit_output_inv : (sending [] [] id).Inv ∧ (sending [] [] id).e.lost = false :=
  ⟨⟨by decide +kernel, by decide +kernel, rfl, rfl⟩, rfl⟩

theorem wit_output : let s := sending [⟨4, 5, [(0x3000, 0x0F, 0x35), (0x3002, 0xFF, 7)]⟩] [] id
    ((s.e.port (portOf 0x3000)).unsent.length < 64) ∧ after (exec (.outputWrite ⟨0, []⟩) s) (fun t => (t.e.drainUnit 0).out == [] &&
      (List.range 4).map (fun i => Memory.get t.mem (0x3000 + i)) == [0xC5, 0xAB, 7, 0]) = true := by decide +kernel

/-- A command with a check to write at 0x6000 for the panel at 0x3000. -/
def checking (f : Eng → Eng) : State := { chan4 [1] fun e => f { e with chan := { e.chan with
  cmds := e.chan.cmds.map fun m => { m with phase := .running, kind := some .gemm, panels := [⟨0x3000, 0x6000, 0⟩] } } } with mem := memOf [(0x3000, 2, 0xABCD)] }

theorem wit_output_lost : let s := { checking id with e := ((checking id).e.updDrain 0 fun u => { u with out := [⟨4, 5, [(0x3000, 0x0F, 0x35)]⟩] }) }
    (upsetOutcome badly = none ∧ (s.e.cmd? 4 5).isSome = true ∧ (s.e.port (portOf 0x3000)).unsent.length < 64) ∧
    after (exec (.outputWrite ⟨0, badly⟩) s) (fun t => (t.e.drainUnit 0).out == [] && t.mem == s.mem && t.e.count 40 == 1 &&
      (t.e.cmd? 4 5).any (fun m => m.ending && m.res.status == 0x21)) = true := by decide +kernel

theorem wit_output_full : let s := sending [⟨4, 5, [(0x3000, 0x0F, 0x35)]⟩] [] fun e => e.updPort (portOf 0x3000) fun p => { p with
      wq := List.replicate 64 (.none, []) }
    64 ≤ (s.e.port (portOf 0x3000)).unsent.length ∧ after (exec (.outputWrite ⟨0, []⟩) s) (fun t => t == s) = true ∧
    after (exec (.outputWrite ⟨1, []⟩) s) (fun t => t == s) = true ∧ after (exec (.handoff 0) s) (fun t => t == s) = true := by decide +kernel

/-- A vector port 0 with credits. -/
def vp (n : Nat) (e : Eng) : Eng := { e with drain := { e.drain with ports := e.drain.ports.modify 0 fun p => { p with credits := n } } }

theorem wit_handoff : let s := sending [] [⟨4, 5, 7, [[1], [2]], 0, false⟩] (vp 2)
    (s.e.drain.ports.length = 8 ∧ 0 < (s.e.vport 0).credits ∧ s.e.vpTurn 0 = some 0) ∧
    after (exec (.handoff 0) s) (fun t => (t.e.vport 0).sent == [([1], false, false)] && (t.e.vport 0).credits == 1 && (t.e.vport 0).active == some 0 &&
      (t.e.drainUnit 0).hand == [⟨4, 5, 7, [[2]], 1, false⟩] && t.e.count 69 == 1 && t.e.count 6 == 0) = true := by decide +kernel

theorem wit_handoff_last : let s := sending [] [⟨4, 5, 7, [[2]], 1, false⟩] (vp 2)
    after (exec (.handoff 0) s) (fun t => (t.e.vport 0).sent == [([2], true, false)] && (t.e.vport 0).active == none && (t.e.drainUnit 0).hand == [] &&
      t.e.count 6 == 1) = true := by decide +kernel

theorem wit_handoff_waits : let s := sending [] [⟨4, 5, 7, [[1], [2]], 0, false⟩] (vp 0)
    (s.e.vport 0).credits = 0 ∧ after (exec (.handoff 0) s) (fun t => t == s) = true := by decide +kernel

theorem wit_panel : let s := checking id
    (s.e.portsFree ∧ s.e.cmdDrained 4 5 = true ∧ (theCmd s 5).panels.find? (fun y => y.addr == 0x3000) = some ⟨0x3000, 0x6000, 0⟩) ∧
    after (exec (.panelCheckWrite 4 5 0x3000 []) s) (fun t => t.e.cmd? 4 5 == some { theCmd s 5 with panels := [] } && t.e.count 43 == 1 &&
      Memory.get t.mem 0x3000 == 0xCD) = true := by unfold Eng.portsFree; decide +kernel

theorem wit_panel_waits : let s := checking fun e => e.updDrain 2 fun u => { u with out := [⟨4, 5, []⟩] }
    s.e.cmdDrained 4 5 = false ∧ after (exec (.panelCheckWrite 4 5 0x3000 []) s) (fun t => t == s) = true := by decide +kernel

/-! ### Remote operations, triggers and windows -/

/-- A Window Table at 0x7000: window 0 plain at 0x2000 with every right, window 1 of 128-bit words at 0x4000. -/
def winMem : List (Nat × Nat × Nat) := [(0x2000, 8, 40), (0x2010, 1, 9), (0x4000, 1, 5), (0x4100, 1, 5),
  (0x7000, 8, 0x2000), (0x7008, 6, 0x100), (0x700E, 1, 0x71), (0x7020, 8, 0x4000), (0x7028, 6, 32), (0x702E, 1, 0x12), (0x7038, 8, 0x4100)]

/-- Window 1 as its entry holds it. -/
def win1 (opened closing : Bool) (ws : List ZWord) : AccWin :=
  ⟨1, { base := 0x4000, size := 32, type := 2, rd := true, wr := false, atom := false, sideBase := 0x4100 }, ws, opened, closing, none, []⟩

/-- Engine 9 with the window table, changed by `f`. -/
def target9 (f : Eng → Eng) : State := { st (fun e => f { selfId e with remote := { e.remote with winBase := 0x7000, winCount := 2 } }) with mem := memOf winMem }

/-- One OP packet from engine 9 by loopback: opcode, window, offset, length, data. -/
def opIn (op w off total : Nat) (d : List Byte) (f : Eng → Eng) : State :=
  let h := { hdr0 with dest := 9, src := 9, opcode := op, first := true, last := true, ptag := 3, window := w, offset := off, total := total, pbytes := d.length }
  target9 fun e => f { e with link := { e.link with inbox := [inPkt .loopback h d] } }

/-- The data and status bits of the responses that stand in the inbox: KIND, first window byte, data, last. -/
def answers (t : State) : List (Nat × Nat × List Byte × Bool) := t.e.link.inbox.map fun x => (x.pkt.hdr.kind, x.pkt.hdr.offset, x.pkt.data, x.pkt.hdr.last)

/-- An earlier PUT of engine 9 that has not sent its last packet. -/
def early : TgtOp := ⟨9, 2, .loopback, 0x10, 0, false, false, 0, 0, WinEntry.ofNat 0, true, []⟩

theorem wit_target_inv : (target9 id).Inv ∧ (target9 id).e.lost = false ∧ (target9 id).e.tgtNext .loopback = none :=
  ⟨⟨by decide +kernel, by decide +kernel, rfl, rfl⟩, by decide +kernel⟩

theorem wit_no_op : (target9 id).e.inFirst .loopback (fun q => q.hdr.cls == 0) = none ∧
    after (exec (.remoteOpArrival .loopback [] ⟨[], false⟩) (target9 id)) (fun t => t == target9 id) = true := by decide +kernel

theorem wit_put_refused : let s := opIn 0x10 5 0 32 (List.replicate 32 1) id
    ((s.e.inFirst .loopback fun q => q.hdr.cls == 0).any (fun p => s.e.targetCheck s.rd p.hdr == some 0xC8) = true ∧ s.e.remote.tgts = []) ∧
    after (exec (.remoteOpArrival .loopback [] ⟨[], false⟩) s) (fun t => answers t == [(0x10, 0, [], true)] && t.mem == s.mem && t.e.remote == s.e.remote) = true := by
  decide +kernel

theorem wit_put_in : let s := opIn 0x10 0 32 32 (List.replicate 32 1) id
    ((s.e.inFirst .loopback fun q => q.hdr.cls == 0).any (fun p => s.e.targetCheck s.rd p.hdr == none) = true ∧ s.e.owes (.remote 9 3) = false ∧
      s.e.mports.length = 32) ∧
    after (exec (.remoteOpArrival .loopback [] ⟨[], false⟩) s) (fun t => answers t == [] && t.e.remote.tgts.length == 1 &&
      (List.range 34).map (fun i => Memory.get t.mem (0x201F + i)) == [0] ++ List.replicate 32 1 ++ [0]) = true := by decide +kernel

theorem wit_signal_in : let s := opIn 0x14 17 0 0 (leBytes 8 7) id
    after (exec (.remoteOpArrival .loopback [] ⟨[], false⟩) s) (fun t => (t.e.trig 17).count == 7 && answers t == [(0, 0, [], true)] && t.e.count 27 == 1) = true := by
  decide +kernel

theorem wit_fadd_in : let s := opIn 0x13 0 0 0 (leBytes 8 2) id
    after (exec (.remoteOpArrival .loopback [] ⟨[], false⟩) s) (fun t => answers t == [(0, 0, leBytes 8 40, false)] && Memory.get t.mem 0x2000 == 42 &&
      t.e.remote.tgts.length == 1) = true := by decide +kernel

theorem wit_get_in : let s := opIn 0x11 0 0 32 [] id
    after (exec (.remoteOpArrival .loopback [] ⟨[], false⟩) s) (fun t => answers t == [(0, 0, leBytes 16 40 ++ leBytes 16 9, false), (0, 0, [], true)] &&
      t.e.count 27 == 1) = true := by decide +kernel

theorem wit_get_words : let s := opIn 0x11 1 0 32 [] fun e => { e with remote := { e.remote with wins := [win1 true false [zi 5, zi 6]] } }
    ((s.e.win? 1).any (fun a => a.faulted.isNone) = true ∧ (s.e.windowOf s.rd 1).type = 2 ∧
      (s.e.inFirst .loopback fun q => q.hdr.cls == 0).any (fun p => s.e.targetCheck s.rd p.hdr == none) = true) ∧
    after (exec (.remoteOpArrival .loopback [] ⟨[], false⟩) s) (fun t =>
      answers t == [(0, 0, packWord 16 (zi 5) ++ packWord 16 (zi 6), false), (0, 0, [], true)]) = true := by decide +kernel

/-- An ADDX of -3 to word 1 of window 1, in a state changed by `f`. -/
def addxIn (f : Eng → Eng) : State := opIn 0x12 1 16 1 [1, 0xFD, 1, 0] fun e =>
  f { e with remote := { e.remote with wins := [win1 true false [zi 5, zi 6]], uses := [⟨.window 1, [(some 0, 1)]⟩] } }

/-- The update that `addxIn` makes. -/
def addxUpd : StageUpd := ⟨.addx 1 9 3, (0, 0, 512), [(1, zi (-3))]⟩

/-- Bank 0 of slice 0 changed. -/
def bank0 (f : Bank → Bank) (e : Eng) : Eng := e.updBank 0 0 f

theorem wit_addx_in : let s := addxIn id
    ((s.e.win? 1) = some (win1 true false [zi 5, zi 6]) ∧ unpack 16 4 [1, 0xFD, 1, 0] = ([zi (-3)], true) ∧ (zi (-3)).residueFault = false ∧
      (s.e.inFirst .loopback fun q => q.hdr.cls == 0).map s.e.packetUpds = some [addxUpd] ∧ s.e.stage.xlink (.xbar .loopback) = [] ∧
      (s.e.stage.bank 0 (s.e.stage.physBank 0 0)).q = [] ∧ 1 ≤ (s.e.stage.bank 0 (s.e.stage.physBank 0 0)).xbar ∧
      s.e.adding 9 3 = false ∧ s.e.stageSlots (.window 1) [1 * 16 / 32] ≠ []) ∧
    after (exec (.remoteOpArrival .loopback [] ⟨[], false⟩) s) (fun t => answers t == [(0, 0, [], true)] && t.e.win? 1 == some (win1 true false [zi 5, zi 3]) &&
      t.e.count 27 == 1) = true := by decide +kernel

theorem wit_addx_fault : (∃ z ∈ addxUpd.words, (win1 true false [zi 5, zi 6]).lost.contains z.1 = false) ∧
    after (exec (.remoteOpArrival .loopback [] ⟨[], true⟩) (addxIn id)) (fun t => answers t == [(0x22, 0, [], true)] &&
      t.e.win? 1 == some (win1 true false [zi 5, zi 6]) && t.e.health.logCount == 1) = true := by decide +kernel

theorem wit_addx_waits : let s := addxIn (bank0 fun q => { q with xbar := 0 })
    (s.e.tgtNext .loopback = none ∧ (s.e.stage.bank 0 (s.e.stage.physBank 0 0)).xbar = 0) ∧
    after (exec (.remoteOpArrival .loopback [] ⟨[], false⟩) s) (fun t => answers t == [] && t.e.win? 1 == s.e.win? 1 &&
      t.e.stage.xlink (.xbar .loopback) == [addxUpd]) = true := by decide +kernel

theorem wit_addx_queues : let s := addxIn (bank0 fun q => { q with q := [⟨false, 7, [], none⟩] })
    (s.e.stage.bank 0 (s.e.stage.physBank 0 0)).q ≠ [] ∧
    after (exec (.remoteOpArrival .loopback [] ⟨[], false⟩) s) (fun t => answers t == [] && t.e.win? 1 == s.e.win? 1 &&
      (t.e.stage.bank 0 0).q == [⟨false, 7, [], none⟩, ⟨true, sectorKey 0 0 512, [], some addxUpd⟩] && (t.e.stage.bank 0 0).xbar == 7) = true := by
  decide +kernel

theorem wit_addx_behind : let s := addxIn fun e => { e with stage := e.stage.setXlink (.xbar .loopback) [addx1] }
    s.e.stage.xlink (.xbar .loopback) ≠ [] ∧
    after (exec (.remoteOpArrival .loopback [] ⟨[], false⟩) s) (fun t => t.e.stage.xlink (.xbar .loopback) == [addx1, addxUpd]) = true := by
  decide +kernel

theorem wit_ops_wait : let s := opIn 0x13 0 0 0 (leBytes 8 2) fun e => { e with remote := { e.remote with tgts := [early] } }
    ((∃ y ∈ s.e.remote.tgts, y.origin = 9) ∧ s.e.tgtNext .loopback = none ∧ (∀ y ∈ s.e.remote.tgts, y.ptag ≠ 3 ∧ y.last = false)) ∧
    after (exec (.remoteOpArrival .loopback [] ⟨[], false⟩) s) (fun t => t.mem == s.mem && answers t == [] &&
      t.e.remote.tgts.map (fun y => (y.ptag, y.started, y.waits.length)) == [(2, true, 0), (3, false, 1)]) = true := by decide +kernel

/-- Operation 3 of engine 9 to itself, of command 5 with TRIG `trig`, and its response. -/
def respIn (a : RemoteArgs) (trig : Nat) (off : Nat) (d : List Byte) (last : Bool) (kind : Nat) : State :=
  let h := { hdr0 with dest := 9, src := 9, cls := 1, kind := kind, last := last, ptag := 3, offset := off, window := if last then 0 else 256, pbytes := d.length }
  { (chan4 [0x10 + trig * 2 ^ 160 + 2 ^ 172] fun e => { selfId e with
    link := { (selfId e).link with inbox := [inPkt .loopback h d] }
    remote := { e.remote with ops := [⟨3, .cmd 4 5, a, .loopback, Result.ofStatus 0 0, false, false, []⟩] } }) with mem := memOf [(0x3000, 2, 0xABCD)] }

theorem wit_resp_inv : let s := respIn ⟨0x11, 9, 0, 0, 0x3000, 64, 32, 0⟩ 6 64 (List.replicate 32 7) false 0
    s.Inv ∧ s.e.lost = false :=
  ⟨⟨by decide +kernel, by decide +kernel, rfl, rfl⟩, rfl⟩

theorem wit_resp_data : let s := respIn ⟨0x11, 9, 0, 0, 0x3000, 64, 32, 0⟩ 6 64 (List.replicate 32 7) false 0
    (s.e.runs = true ∧ ∀ y ∈ s.e.remote.ops, y.answered = false) ∧ after (exec (.respArrival .loopback) s) (fun t =>
      (List.range 33).map (fun i => Memory.get t.mem (0x3000 + i)) == List.replicate 32 7 ++ [0] && t.e.remote == s.e.remote && t.e.link.inbox == []) = true := by
  decide +kernel

theorem wit_resp_fadd : let s := respIn ⟨0x13, 9, 0, 0, 0x3000, 64, 8, 0⟩ 6 64 (leBytes 8 0x77) false 0
    s.e.runs = true ∧ after (exec (.respArrival .loopback) s) (fun t => rdNat (Memory.get t.mem) 0x3000 8 == 0x77) = true := by decide +kernel

theorem wit_resp_words : let s0 := respIn ⟨0x11, 9, 1, 0, 0x3000, 0, 32, 0⟩ 6 0 (packWord 16 (zi 5) ++ packWord 16 (zi (-3))) false 2
    let s : State := { s0 with e := { s0.e with link := { s0.e.link with inbox := s0.e.link.inbox.map fun x =>
      { x with pkt := { x.pkt with hdr := { x.pkt.hdr with window := 512 } } } } } }
    ((s.e.inFirst .loopback fun q => q.hdr.cls == 1).any (fun p => p.hdr.window / 256 == 2 &&
      unpack 16 p.data.length p.data == ([zi 5, zi (-3)], true)) = true ∧ (zi (-3)).residueFault = false) ∧
    after (exec (.respArrival .loopback) s) (fun t => rdZ (Memory.get t.mem) 128 0x3000 0x3020 == zi 5 &&
      rdZ (Memory.get t.mem) 128 0x3010 0x3022 == zi (-3)) = true := by decide +kernel

theorem wit_resp_unasked : let s0 := respIn ⟨0x10, 9, 0, 0, 0x3000, 64, 32, 0⟩ 6 0 [] true 2
    let s : State := { s0 with e := { s0.e with remote := { s0.e.remote with ops := [] } } }
    s.e.remote.ops = [] ∧ after (exec (.respArrival .loopback) s) (fun t => t.e.link.inbox == [] && t.e.remote == s.e.remote &&
      t.e.chan == s.e.chan) = true := by decide +kernel

theorem wit_resp_none : (target9 id).e.inFirst .loopback (fun q => q.hdr.cls == 1) = none ∧
    after (exec (.respArrival .loopback) (target9 id)) (fun t => t == target9 id) = true := by decide +kernel

theorem wit_resp_fails : let s := respIn ⟨0x10, 9, 0, 0, 0x3000, 64, 32, 0⟩ 6 0 [] true 0x21
    (0x10 ≤ statusMax 0 0x21 ∧ s.e.owes (.cmd 4 5) = false) ∧ after (exec (.respArrival .loopback) s) (fun t =>
      (theCmd t 5).phase == .final && (theCmd t 5).res.status == 0x21 && (t.e.trig 6).status == 0x21 && (t.e.trig 6).count == 0) = true := by
  decide +kernel

/-- The response of an operation that trigger entry 7 issued, whose next entry is 8. -/
def actionResp (st : Nat) : State :=
  let s := respIn ⟨0x10, 9, 0, 0, 0x3000, 64, 32, 0⟩ 6 0 [] true st
  { s with e := { s.e with remote := { s.e.remote with
    ops := s.e.remote.ops.map fun o => { o with by_ := .trig 7 }, trigs := [(7, { Trig.zero with nextEn := true, next := 8 })] } } }

theorem wit_resp_action : (actionResp 0).e.owes (.remote 65536 3) = false ∧
    after (exec (.respArrival .loopback) (actionResp 0)) (fun t => (t.e.trig 8).count == 1 && t.e.remote.ops == []) = true ∧
    after (exec (.respArrival .loopback) (actionResp 0x21)) (fun t => (t.e.trig 7).status == 0x21 && (t.e.trig 8).status == 0x21) = true := by
  decide +kernel

theorem wit_resp_final : let s := respIn ⟨0x10, 9, 0, 0, 0x3000, 64, 32, 0⟩ 6 0 [] true 2
    (s.e.owes (.cmd 4 5) = false ∧ (theCmd s 5).trigOf = some 6 ∧ statusMax 0 2 < 0x10) ∧ after (exec (.respArrival .loopback) s) (fun t =>
      t.e.remote.ops == [] && (theCmd t 5).phase == .final && (theCmd t 5).res.status == 2 && (t.e.trig 6).count == 1) = true := by decide +kernel

/-- Trigger entry 7 with count 5, threshold `n`, period and action. -/
def trig7 (n period aop : Nat) (f : Eng → Eng) : State := st fun e => f ({ selfId e with remote := { e.remote with
  trigs := [(7, { Trig.zero with count := 5, thresh := BitVec.ofNat 64 n, period := period, aop := aop, armed := true, target := 9, window := 6, operand := 1 })] } })

theorem wit_fires : let s := trig7 5 0 0x14 id
    ((s.e.trig 7).fires = true ∧ s.e.coll.tableCount.toNat ≤ 7) ∧ after (exec (.triggerFire 7) s) (fun t => t.e.trig 7 == { s.e.trig 7 with armed := false } &&
      t.e.remote.fired == [(7, ⟨0x14, 9, 6, 0, 0, 0, 0, 1⟩)] && t.e.count 30 == 1) = true := by decide +kernel

/-- Entry 7 as a launch entry whose record, at 0x6380, names a version that R385 refuses. -/
def launch7 : State := { (trig7 5 0 0 fun e => { e with coll := { e.coll with tableBase := 0x6000, tableCount := 8 } }) with
  mem := memOf [(0x6380, 1, 9)] }

theorem wit_fires_refused : let r := CollRec.ofNat (rdRec launch7.rd 0x6380 128)
    (r.version ≠ 0 ∧ (launch7.e.refusal launch7.rd r).isSome = true ∧ 7 < launch7.e.coll.tableCount.toNat) ∧
    after (exec (.triggerFire 7) launch7) (fun t => t.e.coll.waiting == [] && t.e.count 31 == 1 && t.e.count 33 == 1 &&
      (launch7.e.refusal launch7.rd r).any fun x => t.e.coll.lastRefusal == BitVec.ofNat 32 (7 * 65536 + x.1)) = true := by decide +kernel

theorem wit_fires_period : let s := trig7 5 3 0 id
    after (exec (.triggerFire 7) s) (fun t => t.e.trig 7 == { s.e.trig 7 with thresh := 8 } && t.e.remote.fired == []) = true := by decide +kernel

theorem wit_fires_not : let s := trig7 6 0 0x14 id
    (s.e.trig 7).fires = false ∧ after (exec (.triggerFire 7) s) (fun t => t == s) = true ∧ after (exec (.triggerFire 4096) s) (fun t => t == s) = true ∧
    after (exec (.triggerActionIssue []) s) (fun t => t == s) = true := by decide +kernel

/-- Entry 7 with a fired action. -/
def fired7 (a : RemoteArgs) : State := trig7 5 0 0 fun e => { e with remote := { e.remote with fired := [(7, a)] } }

theorem wit_issue : let s := fired7 ⟨0x14, 9, 6, 0, 0, 0, 0, 1⟩
    (s.e.originCheck ⟨0x14, 9, 6, 0, 0, 0, 0, 1⟩ true = none ∧ s.e.remote.ops.length < 256) ∧ after (exec (.triggerActionIssue []) s) (fun t =>
      t.e.remote == { s.e.remote with
        fired := []
        ops := [⟨0, .trig 7, ⟨0x14, 9, 6, 0, 0, 0, 0, 1⟩, .loopback, Result.ofStatus 0 0, false, false, []⟩]
        tag := 1 } && t.e.count 26 == 1) = true := by decide +kernel

theorem wit_issue_behind : let s0 := fired7 ⟨0x14, 9, 6, 0, 0, 0, 0, 1⟩
    let s : State := { s0 with e := { behind.e with remote := { s0.e.remote with
      ops := behind.e.remote.ops.map fun o => { o with by_ := .trig 7 } } } }
    ((s.e.remote.ops.any fun o => o.by_.same (.trig 7) && s.e.unsentOp o) = true ∧ ∀ o ∈ s.e.remote.ops, o.held ≠ [] → s.e.opWaits o = true) ∧
    after (exec (.triggerActionIssue []) s) (fun t => t.e.link == s.e.link && t.e.remote.ops.map (fun o => o.held.length) == [0, 1]) = true := by
  decide +kernel

theorem wit_issue_refused : let s := fired7 ⟨0x14, 9, 6, 0, 0, 0, 8, 1⟩
    s.e.originCheck ⟨0x14, 9, 6, 0, 0, 0, 8, 1⟩ true = some 0xC1 ∧ after (exec (.triggerActionIssue []) s) (fun t => t.e.remote.fired == [] &&
      (t.e.trig 7).status == 0x10 && (t.e.trig 7).detail == 0xC1 && t.e.remote.ops == []) = true := by decide +kernel

theorem wit_issue_waits : let s : State := { fired7 ⟨0x14, 9, 6, 0, 0, 0, 0, 1⟩ with e := { (fired7 ⟨0x14, 9, 6, 0, 0, 0, 0, 1⟩).e with remote :=
      { (fired7 ⟨0x14, 9, 6, 0, 0, 0, 0, 1⟩).e.remote with
        ops := List.replicate 256 ⟨0, .trig 7, ⟨0x14, 9, 6, 0, 0, 0, 0, 1⟩, .loopback, Result.ofStatus 0 0, false, false, []⟩ } } }
    256 ≤ s.e.remote.ops.length ∧ after (exec (.triggerActionIssue []) s) (fun t => t == s) = true := by decide +kernel

/-- `target9` with 64 MiB of staging. -/
def staging9 (f : Eng → Eng) : State := target9 fun e => f { e with stage := { e.stage with stagingBytes := 0x4000000 } }

theorem wit_open : let s := staging9 id
    ((s.e.openWindow s.rd 1).isSome = true ∧ (s.e.openWindow s.rd 0).isNone = true) ∧
    after (exec (.accWindowOpen .ring 1) s) (fun t => t.e.result .ring == 0 && t.e.remote.wins == [win1 false false []] &&
      t.e.remote.winBusy == some (true, 1) && t.e.stagingUsed == 32) = true ∧
    after (exec (.accWindowOpen .ring 0) s) (fun t => refusedWith s .ring 5 t) = true := by decide +kernel

/-- `staging9` with window 1 and an open or a close in progress. -/
def window1 (a : AccWin) (busy : Option (Bool × Nat)) (tg : List TgtOp) : State := staging9 fun e => { e with remote := { e.remote with
  wins := [a], winBusy := busy, uses := [⟨.window 1, [(some 0, 1)]⟩], tgts := tg } }

theorem wit_opened : let s := window1 (win1 false false []) (some (true, 1)) []
    after (exec (.accWindowOpened []) s) (fun t => t.e.win? 1 == some (win1 true false [zi 5, ZWord.zero]) && t.e.remote.winBusy == none) = true ∧
    (rdZ s.rd 128 0x4000 0x4100).residueFault = false ∧ (rdZ s.rd 128 0x4010 0x4102).residueFault = false := by decide +kernel

theorem wit_not_busy : let s := window1 (win1 true false [zi 5, zi 6]) none []
    s.e.remote.winBusy = none ∧ after (exec (.accWindowOpened []) s) (fun t => t == s) = true ∧ after (exec (.accWindowClosed []) s) (fun t => t == s) = true ∧
    after (exec (.accWindowClose .ring 1) s) (fun t => t.e.result .ring == 0 && t.e.win? 1 == some (win1 true true [zi 5, zi 6]) &&
      t.e.remote.winBusy == some (false, 1)) = true ∧
    after (exec (.accWindowClose .ring 2) s) (fun t => refusedWith s .ring 5 t) = true := by decide +kernel

theorem wit_closed : let s := window1 (win1 true true [zi 7, zi 6]) (some (false, 1)) []
    after (exec (.accWindowClosed []) s) (fun t => t.e.win? 1 == none && t.e.remote.winBusy == none && t.e.remote.uses == [] &&
      Memory.get t.mem 0x4000 == 7 && Memory.get t.mem 0x4010 == 6 && Memory.get t.mem 0x4100 == 7 && Memory.get t.mem 0x4102 == 6) = true := by
  decide +kernel

theorem wit_close_waits : let s := window1 (win1 true true [zi 7, zi 6]) (some (false, 1)) [{ early with opcode := 0x12, window := 1 }]
    (∃ y ∈ s.e.remote.tgts, y.rejected = false ∧ y.window = 1 ∧ (y.opcode = 0x11 ∨ y.opcode = 0x12)) ∧
    after (exec (.accWindowClosed []) s) (fun t => t == s) = true := by decide +kernel

theorem wit_remote_ports_free : ∀ s ∈ [addxIn id, launch7, fired7 ⟨0x14, 9, 6, 0, 0, 0, 0, 1⟩, staging9 id,
    window1 (win1 false false []) (some (true, 1)) []], s.e.portsFree := by unfold Eng.portsFree; decide +kernel

theorem wit_open_refused :
    (let s := staging9 id
     s.e.remote.winCount.toNat ≤ 2 ∧ after (exec (.accWindowOpen .ring 2) s) (fun t => refusedWith s .ring 5 t) = true) ∧
    (let s := window1 (win1 true false [zi 5, zi 6]) none []
     (s.e.win? 1).isSome = true ∧ after (exec (.accWindowOpen .ring 1) s) (fun t => refusedWith s .ring 5 t) = true) ∧
    (let s := target9 fun e => { e with remote := { e.remote with uses := [⟨.window 5, [(some 0, 2 ^ 21)]⟩] } }
     s.e.stage.stagingAvailable < s.e.stagingUsed + 32 ∧
        after (exec (.accWindowOpen .ring 1) s) (fun t => refusedWith s .ring 5 t) = true) ∧
    (let s := staging9 fun e => { e with remote := { e.remote with winBusy := some (true, 9) } }
     s.e.remote.winBusy.isSome = true ∧ after (exec (.accWindowOpen .ring 1) s) (fun t => refusedWith s .ring 5 t) = true) := by
  decide +kernel

/-! ### Collectives -/

/-- A record of version 4 on group 2 with DONE 20: operation, TYPE, COUNT. -/
def rec2 (op type count : Nat) : CollRec :=
  { CollRec.ofNat 0 with version := 4, op := op, type := type, count := count, group := 2, seq := 1, done := 20, src := 0x5000, srcSide := 0x5100, dst := 0x6000, dstSide := 0x6100, result := 0x6200 }

/-- Group 2 with members `ms`. -/
def grp (ms : List Nat) : Group := ⟨2, false, ms⟩

/-- The collective of collective-table entry 7 on group 2, changed by `f`. -/
def coll2 (r : CollRec) (ms : List Nat) (f : Coll → Coll) : Coll := f (Coll.launch (fun _ => 0) 7 r (grp ms) 0 0)

/-- Engine 9 with the collectives `cs`, group 2 cached, and the packets `ps`. -/
def collState (ms : List Nat) (cs : List Coll) (ps : List InPkt) (f : Eng → Eng) : State := { st (fun e => f { selfId e with
  stage := { e.stage with stagingBytes := 0x4000000 }
  link := { (selfId e).link with inbox := ps }
  coll := { e.coll with cache := [grp ms], groupCount := 3, colls := cs } }) with mem := memOf [(0x5000, 1, 3)] }

/-- A message of `kind` of collective `c` from member `from_` through fabric port 0. -/
def msg (c : Coll) (kind from_ : Nat) (f : CollHdr → CollHdr) (d : List Byte) : InPkt :=
  let b := leBytes 32 (f (c.header from_ kind 0 0)).toNat ++ d
  inPkt (.fabric 0) { hdr0 with cls := 2, vc := 2, src := from_, dest := 9, first := true, last := true, pbytes := b.length } b

/-- `Eng.hears` as a check. -/
def hearsB (s : State) (kind : Nat) (c : Coll) : Bool :=
  (s.e.inFirst (.fabric 0) fun q => q.hdr.cls == 2 && !q.bad.contains 0 && q.coll.kind == kind && s.e.collKnows q.coll).any fun p =>
    (s.e.coll.colls.find? fun x => x.group.num == p.coll.group && x.rcd.seq == p.coll.seq) == some c && p.coll.signature == c.sig && p.bad == []

/-- A barrier of members 9 and 10, in which this engine is the leaf. -/
def leaf : Coll := coll2 (rec2 1 0 0) [9, 10] id

/-- An ALL_REDUCE of four words in which this engine is the root over member 8, with the words of chunk 0 in its up slot. -/
def root4 : Coll := coll2 (rec2 5 1 4) [8, 9] fun c => { c with
  loaded := [2, 3], ups := [⟨0, 0, 0, [zi 1, zi 2, zi 3, zi 4], [(65536, 4)], 0, [8], []⟩], joined := [8] }

theorem wit_join_in : let s := collState [9, 10] [leaf] [msg leaf 0 10 id []] id
    hearsB s 0 leaf = true ∧ after (exec (.join (.fabric 0)) s) (fun t => t.e.link.inbox == [] && t.e.coll.colls.any (fun c => c.joined == [10] && c.shortSent)) =
      true := by decide +kernel

theorem wit_credit_in : let s := collState [8, 9] [root4] [msg root4 1 8 (fun h => { h with index := 0 }) []] id
    hearsB s 1 root4 = true ∧ after (exec (.credit (.fabric 0)) s) (fun t => t.e.coll.colls.map (·.credits) == [[(8, 0, 0, 0)]]) = true := by decide +kernel

/-- An ALL_REDUCE of one word in which this engine is the leaf under member 10, its chunk sent and a credit granted. -/
def leaf1 : Coll := coll2 (rec2 5 1 1) [9, 10] fun c => { c with loaded := [2, 3], granted := [2, 3], open_ := [0], joined := [10] }

theorem wit_chunk_down : let s := collState [9, 10] [leaf1] [msg leaf1 3 10 id (packWord 16 (zi 10))] id
    (hearsB s 3 leaf1 = true ∧ leaf1.aborted = false) ∧ after (exec (.chunkDown (.fabric 0)) s) (fun t => Memory.get t.mem 0x6000 == 10 &&
      t.e.coll.colls.map (·.finished) == [1]) = true := by decide +kernel

/-- `root4` with its up slots placed in staging and a word for chunk 0 arriving, in a state changed by `f`. -/
def chunkIn (f : Eng → Eng) : State := collState [8, 9] [root4] [msg root4 2 8 id (packWord 16 (zi 10))] fun e =>
  f { e with remote := { e.remote with uses := [⟨.coll 2, [(some 0, 1024)]⟩] } }

/-- The update that `chunkIn` makes. -/
def chunkUpd : StageUpd := ⟨.up 2 0 0 8, (0, 0, 512), [(0, zi 10)]⟩

theorem wit_chunk_up : let s := chunkIn id
    (hearsB s 2 root4 = true ∧ root4.aborted = false ∧ s.e.coll? 2 = some root4 ∧ s.e.upUpds root4 0 0 0 8 0 [zi 10] = [chunkUpd] ∧
      unpack (root4.rcd.W / 8) (packWord 16 (zi 10)).length (packWord 16 (zi 10)) = ([zi 10], true) ∧ (zi 10).residueFault = false) ∧
    after (exec (.chunkUp (.fabric 0) ⟨[], false⟩) s) (fun t => t.e.coll.colls.any fun c => (c.ups.map (·.words)) == [[zi 11, zi 2, zi 3, zi 4]] &&
      (c.ups.map (·.sent)) == [1]) = true := by decide +kernel

theorem wit_chunk_fault : ((chunkIn id).e.sendUpdates (.xbar (.fabric 0)) [chunkUpd]).1 = [chunkUpd] ∧
    after (exec (.chunkUp (.fabric 0) ⟨[], true⟩) (chunkIn id)) (fun t => t.e.coll.colls == [] && t.e.count 45 == 1 &&
      t.e.health.logCount == 1 && (t.e.trig 20).status == 0x22) = true := by decide +kernel

theorem wit_chunk_waits : let s := chunkIn (bank0 fun q => { q with xbar := 0 })
    (hearsB s 2 root4 = true ∧ (s.e.sendUpdates (.xbar (.fabric 0)) [chunkUpd]).1 = []) ∧
    after (exec (.chunkUp (.fabric 0) ⟨[], true⟩) s) (fun t => t.e.stage.xlink (.xbar (.fabric 0)) == [chunkUpd] &&
      t.e.coll.colls.any fun c => (c.ups.map (·.words)) == [[zi 1, zi 2, zi 3, zi 4]]) = true := by decide +kernel

theorem wit_chunk_aborted : let c := { root4 with aborted := true }
    let s := collState [8, 9] [c] [msg c 2 8 id (packWord 16 (zi 10)), msg c 3 8 id (packWord 16 (zi 10))] id
    (hearsB s 2 c = true ∧ hearsB s 3 c = true) ∧
    after (exec (.chunkUp (.fabric 0) ⟨[], false⟩) s) (fun t => t.e.coll.colls.map (·.ups) == [c.ups] && t.e.link.inbox.length == 1) = true ∧
    after (exec (.chunkDown (.fabric 0)) s) (fun t => t.e.coll.colls.map (·.downs) == [[]] && t.e.link.inbox.length == 1) = true := by decide +kernel

theorem wit_short_up : let c := coll2 (rec2 1 0 0) [8, 9] id
    let s := collState [8, 9] [c] [msg c 4 8 id (padPayload [])] id
    (hearsB s 4 c = true ∧ c.rcd.shortBad c.expo (padPayload []) = 0) ∧ after (exec (.shortUp ⟨(.fabric 0), false⟩) s) (fun t => t.e.coll.colls == [] &&
      (t.e.trig 20).count == 1) = true := by decide +kernel

theorem wit_report : let s := collState [8, 9] [root4] [msg root4 6 8 id (Report.bytes ⟨8, 1, 2, 3, 8⟩)] id
    hearsB s 6 root4 = true ∧ after (exec (.report (.fabric 0)) s) (fun t => t.e.coll.colls.map (·.reports) == [[⟨8, 1, 2, 3, 8⟩]]) = true := by decide +kernel

theorem wit_commit_msg : let s := collState [9, 10] [leaf1] [msg leaf1 7 10 id []] id
    (hearsB s 7 leaf1 = true ∧ leaf1.group.children 9 0 = []) ∧ after (exec (.commitMessage (.fabric 0)) s) (fun t => t.e.coll.colls.map (·.committed) == [true]) =
      true := by decide +kernel

theorem wit_commit_ack : let s := collState [8, 9] [root4] [msg root4 8 8 id []] id
    hearsB s 8 root4 = true ∧ after (exec (.commitAck (.fabric 0)) s) (fun t => t.e.coll.colls.map (·.acks) == [[8]]) = true := by decide +kernel

/-- REDUCE variants in which this engine is not the member of rank ROOT and writes no DST. -/
def root4r : Coll := coll2 { rec2 4 1 4 with root := 0 } [8, 9] fun c => { c with loaded := [2, 3], ups := root4.ups, joined := [8] }

/-- See `root4r`. -/
def leaf1r : Coll := coll2 { rec2 4 1 1 with root := 1 } [9, 10] fun c => { c with loaded := [2, 3], granted := [2, 3], joined := [10] }

theorem wit_no_message : let s := collState [8, 9] [root4] [] id
    (s.e.inFirst (.fabric 0) fun q => q.hdr.cls == 2 && !q.bad.contains 0 && q.coll.kind == 5) = none ∧
    after (exec (.shortDown (.fabric 0)) s) (fun t => t == s) = true ∧ after (exec (.heartbeat (.fabric 0)) s) (fun t => t == s) = true ∧
    after (exec (.echo (.fabric 0)) s) (fun t => t == s) = true := by decide +kernel

/-- Engine 9 with groups 1 and 2, of which the table at 0x9000 holds group 1, and a REPORT for group 1, which has no collective. -/
def earlyIn : State :=
  let c := { coll2 (rec2 5 1 4) [8, 9] id with group := { grp [8, 9] with num := 1 } }
  collState [8, 9] [] [msg c 6 8 id []] fun e => { e with coll := { e.coll with groupBase := 0x9000 } }

theorem wit_early_message :
    ((earlyIn.e.inFirst (.fabric 0) fun q => q.coll.kind == 6 && earlyIn.e.collKnows q.coll) = none ∧
      (earlyIn.e.inFirst (.fabric 0) fun q => q.hdr.cls == 2 && !q.bad.contains 0 && q.coll.kind == 6).isSome = true) ∧
    after (exec (.report (.fabric 0)) earlyIn) (fun t => t.e.link.inbox == earlyIn.e.link.inbox && t.e.coll.colls == []) = true := by decide +kernel

theorem wit_late_request : let s := collState [8, 9] [] [msg root4 9 8 id []] fun e => { e with coll := { e.coll with ended := [⟨2, 1, false, [8]⟩] } }
    (s.e.inFirst (.fabric 0) fun q => q.coll.kind == 9 && s.e.collKnows q.coll).isSome = true ∧
    after (exec (.abortReq (.fabric 0)) s) (fun t => t.e.link.inbox == [] && t.e.count 37 == 1) = true := by decide +kernel

theorem wit_other_signature : let s := collState [8, 9] [root4] [msg root4 6 8 (fun h => { h with signature := 5 }) []] id
    ((s.e.inFirst (.fabric 0) fun q => q.coll.kind == 6 && s.e.collKnows q.coll).any (fun p => p.coll.signature != root4.sig) = true ∧
      s.e.coll.colls = [root4]) ∧
    after (exec (.report (.fabric 0)) s) (fun t => t.e.coll.colls == [] && (t.e.trig 20).status == 0x30) = true := by decide +kernel

theorem wit_late_message : let s := collState [8, 9] [] [msg root4 6 8 id []] fun e => { e with coll := { e.coll with ended := [⟨2, 1, false, [8]⟩] } }
    (s.e.coll.colls = [] ∧ (s.e.inFirst (.fabric 0) fun q => q.coll.kind == 6 && s.e.collKnows q.coll).isSome = true) ∧
    after (exec (.report (.fabric 0)) s) (fun t => t == { s with e := { s.e with link := { s.e.link with inbox := [] } } }) = true := by decide +kernel

theorem wit_late_join : let s := collState [8, 9] [] [msg root4 0 8 id []] fun e => { e with coll := { e.coll with ended := [⟨2, 1, false, []⟩] } }
    (s.e.inFirst (.fabric 0) fun q => q.coll.kind == 0 && s.e.collKnows q.coll).isSome = true ∧
    after (exec (.join (.fabric 0)) s) (fun t => t.e.link.inbox == [] && t.e.coll.ended == [⟨2, 1, false, [8]⟩]) = true := by decide +kernel

/-- The only collective has ended with DONE risen (`st` 0) or with `st` in DONE's entry. -/
def endedB (s t : State) (st : Nat) : Bool := t.e.coll == { s.e.coll with colls := [], ended := [⟨2, 1, false, (s.e.coll.colls.flatMap (·.joined))⟩] } &&
  (if st = 0 then (t.e.trig 20).count == 1 else (t.e.trig 20).status == st) && rdNat (Memory.get t.mem) 0x6200 1 == st &&
  t.e.count (if st = 0 then 32 else 33) == 1

theorem wit_end_inv : let s := collState [9, 10] [leaf1] [msg leaf1 10 10 id (Report.bytes ⟨0, 1, 2, 3, 10⟩)] id
    s.Inv ∧ s.e.lost = false := ⟨⟨by decide +kernel, by decide +kernel, rfl, rfl⟩, rfl⟩

theorem wit_outcome : let s := collState [9, 10] [leaf1] [msg leaf1 10 10 id (Report.bytes ⟨0, 1, 2, 3, 10⟩)] id
    (hearsB s 10 leaf1 = true ∧ leaf1.rcd.result + 32 ≤ 2 ^ 64) ∧ after (exec (.outcome (.fabric 0)) s) (endedB s · 0) = true := by decide +kernel

theorem wit_loss : let s := collState [9, 10] [leaf1r] [msg leaf1r 11 10 (fun h => { h with named := 10 }) []] id
    hearsB s 11 leaf1r = true ∧ after (exec (.loss (.fabric 0)) s) (endedB s · 0x33) = true := by decide +kernel

theorem wit_short_down : let s := collState [9, 10] [leaf] [msg leaf 5 10 id (padPayload [])] id
    (hearsB s 5 leaf = true ∧ leaf.expo = false) ∧ after (exec (.shortDown (.fabric 0)) s) (endedB s · 0) = true := by decide +kernel

/-- A short ALL_REDUCE of one wide word, in which this engine is the leaf; and an ALL_REDUCE of BF16 values in its exponent phase. -/
def leafZ : Coll := coll2 (rec2 2 1 1) [9, 10] id

/-- See `leafZ`. -/
def leafE : Coll := coll2 (rec2 5 3 1) [9, 10] id

theorem wit_short_down_bad : let d := leBytes 16 1 ++ List.replicate 48 0 ++ leBytes 2 0x3F00 ++ List.replicate 6 0
    let s := collState [9, 10] [leafZ] [msg leafZ 5 10 id d] id
    (hearsB s 5 leafZ = true ∧ leafZ.expo = false ∧ leafZ.rcd.shortBad false d ≠ 0) ∧
    after (exec (.shortDown (.fabric 0)) s) (fun t => t.e.coll.colls == [] && (t.e.trig 20).status == 0x22 && t.e.count 45 == 1) = true := by decide +kernel

theorem wit_short_down_expo : let s := collState [9, 10] [leafE] [msg leafE 5 10 id (padPayload (leBytes 8 3))] id
    (hearsB s 5 leafE = true ∧ leafE.expo = true) ∧
    after (exec (.shortDown (.fabric 0)) s) (fun t => t.e.coll.colls.map (·.expo) == [false]) = true := by decide +kernel

theorem wit_abort_root : let s := collState [8, 9] [root4r] [msg root4r 9 8 (fun h => { h with status := 0x31 }) []] id
    (hearsB s 9 root4r = true ∧ root4r.rcd.bulk = true ∧ root4r.group.parent 9 0 = none ∧ root4r.committed = false) ∧
    after (exec (.abortReq (.fabric 0)) s) (endedB s · 0x31) = true := by decide +kernel

theorem wit_abort_on : let s := collState [9, 10] [leaf1] [msg leaf1 9 10 (fun h => { h with status := 0x31 }) []] id
    (hearsB s 9 leaf1 = true ∧ leaf1.group.parent 9 0 = some (0, 10) ∧ leaf1.aborted = false) ∧
    after (exec (.abortReq (.fabric 0)) s) (fun t => t.e.coll.colls.map (·.aborted) == [true] && t.e.coll.colls.length == 1) = true := by decide +kernel

theorem wit_coll_abort : let s := collState [8, 9] [root4r] [] id
    (root4r.num = 7 ∧ s.e.runs = true) ∧ after (exec (.collAbort .ring 7) s) (fun t => endedB s t 0x31 && t.e.result .ring == 0) = true ∧
    after (exec (.collAbort .ring 6) s) (refusedWith s .ring 5) = true ∧ after (exec (.collEndLocal .ring 6) s) (refusedWith s .ring 5) = true := by
  decide +kernel

theorem wit_coll_abort_leaf : let s := collState [9, 10] [leaf1] [] id
    leaf1.group.parent 9 0 = some (0, 10) ∧ after (exec (.collAbort .ring 7) s) (fun t => t.e.coll.colls.map (·.aborted) == [true] && t.e.result .ring == 0) =
      true := by decide +kernel

theorem wit_end_local : let s := collState [9, 10] [leaf1r] [] id
    after (exec (.collEndLocal .ring 7) s) (fun t => endedB s t 0x31 && t.e.link == s.e.link) = true := by decide +kernel

/-- A launch that waits. -/
def launching (r : CollRec) (cs : List Coll) (f : Eng → Eng) : State := collState [9, 10] cs [] fun e => f { e with coll := { e.coll with waiting := [(7, r)] } }

theorem wit_start : let s := launching (rec2 1 0 0) [] id
    (s.e.refusal s.rd (rec2 1 0 0) = none ∧ s.e.group? s.rd 2 = some (grp [9, 10]) ∧ (rec2 1 0 0).bulk = false ∧
      (rec2 1 0 0).shortBad false (leaf.own.getD []) = 0) ∧
    after (exec (.collStart []) s) (fun t => t.e.coll.waiting == [] && (t.e.coll.colls.map fun c => (c.num, c.shortSent)) == [(7, true)]) = true := by
  decide +kernel

theorem wit_start_bulk : let s := launching (rec2 5 1 4) [] id
    ((s.e.allot (.coll 2) ((rec2 5 1 4).staging false 0)).isSome = true ∧ (rec2 5 1 4).bulk = true) ∧
    after (exec (.collStart []) s) (fun t => (t.e.coll.colls.map fun (c : Coll) => c.num) == [7]) = true := by decide +kernel

theorem wit_start_busy : let s := launching (rec2 1 0 0) [leaf] id
    (∃ c ∈ s.e.coll.colls, c.group.num = 2) ∧ after (exec (.collStart []) s) (fun t => t == s) = true := by decide +kernel

theorem wit_start_staging : let s := launching (rec2 5 1 4) [] fun e => { e with remote := { e.remote with uses := [⟨.window 1, [(some 0, 2 ^ 21)]⟩] } }
    s.e.stage.stagingAvailable < s.e.stagingUsed + (rec2 5 1 4).staging false 0 ∧ after (exec (.collStart []) s) (fun t => t == s) = true := by decide +kernel

theorem wit_start_refused : let s := launching { rec2 1 0 0 with root := 2 } [] id
    s.e.refusal s.rd { rec2 1 0 0 with root := 2 } = some (5, true) ∧ after (exec (.collStart []) s) (fun t => t.e.coll.lastRefusal == 0x70005 &&
      (t.e.trig 20).status == 0x31 && t.e.count 33 == 1) = true := by decide +kernel

theorem wit_start_unknown : let s := launching { rec2 1 0 0 with group := 3 } [] id
    s.e.refusal s.rd { rec2 1 0 0 with group := 3 } = some (4, false) ∧ after (exec (.collStart []) s) (fun t => t.e.coll.lastRefusal == 0x70004 &&
      t.e.link == s.e.link && (t.e.trig 20).status == 0x31) = true := by decide +kernel

theorem wit_heartbeat : let s := collState [9, 10] [] [msg leaf 12 10 id []] id
    (s.e.route 10).isSome = true ∧ after (exec (.heartbeat (.fabric 0)) s) (fun t => t.e.link.inbox == [] && t.e.link.fports != s.e.link.fports) = true := by
  decide +kernel

theorem wit_heartbeat_lost : let s := collState [9, 10] [] [msg leaf 12 10 id []] fun e => { e with link := { e.link with fabricMask := 0 } }
    s.e.route 10 = none ∧ after (exec (.heartbeat (.fabric 0)) s) (fun t => t == { s with e := { s.e with link := { s.e.link with inbox := [] } } }) = true := by
  decide +kernel

theorem wit_echo : let s := collState [9, 10] [] [msg leaf 13 10 id []] fun e => { e with coll := { e.coll with peers := [(10, 2), (11, 1)] } }
    after (exec (.echo (.fabric 0)) s) (fun t => t.e.coll.peers == [(10, 0), (11, 1)] && t.e.link.inbox == []) = true := by decide +kernel

theorem wit_timer : let s := collState [9, 10] [leaf1] [] fun e => { e with coll := { e.coll with peers := [(10, 2)] } }
    s.e.watched = [10] ∧ after (exec .heartbeatTimer s) (fun t => t.e.coll.peers == [(10, 3)] && t.e.coll.colls == s.e.coll.colls && t.mem == s.mem) = true := by
  decide +kernel

theorem wit_timer_loses : let s := collState [9, 10] [leaf1r] [] fun e => { e with coll := { e.coll with peers := [(10, 3)] } }
    after (exec .heartbeatTimer s) (fun t => t.e.coll.peers == [] && t.e.coll.colls == [] && t.e.count 36 == 1 && (t.e.trig 20).status == 0x33) = true := by
  decide +kernel

theorem wit_stall : let s := collState [9, 10] [leaf1] [] fun e => { e with cue := 100, coll := { e.coll with stallLimit := 100 } }
    (s.e.coll.stallLimit ≠ 0 ∧ leaf1.since + s.e.coll.stallLimit.toNat ≤ s.e.cue) ∧ after (exec (.collStallWatchdog 7) s) (fun t => t.e.count 34 == 1 &&
      t.e.coll.colls.map (·.since) == [100] && t.e.health.logCount == 1) = true := by decide +kernel

theorem wit_stall_not : let s := collState [9, 10] [leaf1] [] fun e => { e with cue := 99, coll := { e.coll with stallLimit := 100 } }
    s.e.cue < leaf1.since + s.e.coll.stallLimit.toNat ∧ after (exec (.collStallWatchdog 7) s) (fun t => t == s) = true ∧
    after (exec (.collStallWatchdog 6) s) (fun t => t == s) = true := by decide +kernel

/-- Operation 3 of engine 9 at member 10, which has left three heartbeats unanswered. -/
def lostOp : State := st fun e => { selfId e with
  coll := { e.coll with peers := [(10, 3)] }
  remote := { e.remote with
    ops := [⟨3, .trig 6, ⟨0x10, 10, 0, 0, 0x3000, 0, 32, 0⟩, .fabric 0, Result.ofStatus 0 0, false, false, []⟩] } }

theorem wit_timer_loses_op : lostOp.e.watched = [10] ∧ after (exec .heartbeatTimer lostOp) (fun t => t.e.remote.ops == [] && t.e.coll.peers == [] &&
    t.e.count 36 == 1 && (t.e.trig 6).status == 0x33) = true := by decide +kernel

theorem wit_coll_premises : let s := collState [9, 10] [leaf1] [] id
    s.e.coll.progs = [] ∧ s.e.coll.cache.any (fun g => g.num == leaf1.group.num) = true ∧ (launching (rec2 5 1 4) [] id).e.portsFree := by
  unfold Eng.portsFree; decide +kernel

/-! ### Exact sums and codes -/

theorem wit_sum : ((zi 5).residueFault = false ∧ (zi (-7)).residueFault = false ∧ (zi 5).val.toNat < 2 ^ 128) ∧
    zAdd 128 (zi 5) (zi (-7)) = zi (-2) ∧ zAdd 128 (zAdd 128 (zi 5) (zi (-7))) (zi 9) = zAdd 128 (zi 5) (zAdd 128 (zi (-7)) (zi 9)) := by decide +kernel

theorem wit_sum_fault : let z : ZWord := { zi 9 with res := 8 }
    (z.residueFault = true ∧ z.res ≠ 63) ∧ (zAdd 128 (zi 5) z).residueFault = true := by decide +kernel

theorem wit_sum_products : let l := [Prd.fin 3 0, Prd.fin (-5) 1]
    (sumProducts 128 0 l).1 = zi (-7) ∧ sumProducts 128 0 l = sumProducts 128 0 l.reverse ∧ (sumProducts 128 0 (l ++ l)).1 = zi (-14) := by decide +kernel

/-- The table of sector code vectors (R420). -/
theorem test_sector_code : rsCheck (List.replicate 32 0) = [0, 0, 0, 0] ∧ rsCheck (List.replicate 31 0 ++ [1]) = [0x0F, 0x36, 0x78, 0x40] ∧
    rsCheck (List.replicate 31 0 ++ [2]) = [0x1E, 0x6C, 0xF0, 0x80] := by decide +kernel

theorem wit_sector : let d : List Byte := List.replicate 31 7 ++ [1]
    d.length = 32 ∧ rsDecode (lset (d ++ rsCheck d) 4 (· ^^^ 0x80)) = .corrected d ∧
    rsDecode (lset (lset (d ++ rsCheck d) 4 (· ^^^ 0x80)) 33 (· ^^^ 1)) = .bad := by decide +kernel

theorem wit_side : 0x12345678 < 2 ^ 32 ∧ sideDecode (0x12345678 ^^^ 2 ^ 31) (sideCheck 0x12345678) = some (0x12345678, true) ∧
    sideDecode (0x12345678 ^^^ 2 ^ 31) (sideCheck 0x12345678 ^^^ 1) = none := by decide +kernel

/-- The check values that the spec gives over the nine ASCII bytes "123456789" (R424 and the ring's frames). -/
theorem test_crcs : crc32c [0x31, 0x32, 0x33, 0x34, 0x35, 0x36, 0x37, 0x38, 0x39] = 0xE3069283 ∧
    crc16 [0x31, 0x32, 0x33, 0x34, 0x35, 0x36, 0x37, 0x38, 0x39] = 0x29B1 := by decide +kernel

/-! ### Ill-formed commands, refused by the check -/

theorem test_wf_channel : (Instr.doorbell 255 []).wf = true ∧ (Instr.doorbell 256 []).wf = false ∧ (Instr.nop 4 ⟨2 ^ 32, []⟩).wf = false ∧
    (Instr.doorbell 4 [⟨2 ^ 59, true, []⟩]).wf = false ∧ (Instr.doorbell 4 [⟨1, false, [(36, 1)]⟩]).wf = false ∧
    (Instr.doorbell 4 [⟨1, false, [(35, 1)]⟩]).wf = true := by decide

theorem test_wf_pod : (Instr.serviceTransition 33).wf = true ∧ (Instr.serviceTransition 34).wf = false ∧ (Instr.bLoadRow 0 0 0 128).wf = false ∧
    (Instr.columnSwap 0 128).wf = false ∧ (Instr.podFault 0 .residue 132).wf = false := by decide

theorem test_wf_position : (Instr.operandFill 32 0 .a 0 [] ⟨[], []⟩).wf = false ∧ (Instr.runDraw (.pos 32)).wf = false ∧ (Instr.runDraw (.quad 8)).wf = false ∧
    (Instr.gangHold 0 4).wf = false ∧ (Instr.gangCombine 0 256 ⟨false, []⟩).wf = false ∧ (Instr.gangCombine 0 0 ⟨false, [(41, 1)]⟩).wf = false ∧
    (Instr.operandFill 0 0 .a 0 [8] ⟨[[]], []⟩).wf = false ∧ (Instr.operandFill 0 0 .a 0 [1] ⟨[], []⟩).wf = false ∧
    (Instr.operandFill 0 0 .a 0 [] ⟨[], [((32, 0, 0), [])]⟩).wf = false ∧ (Instr.drainRow 0 ⟨[], [128], []⟩).wf = false := by decide

theorem test_wf_bank : (Instr.creditReturn 31 135 true).wf = true ∧ (Instr.creditReturn 32 0 true).wf = false ∧ (Instr.creditReturn 0 136 true).wf = false ∧
    (Instr.slotReadBack 0 0 2048 ⟨[], []⟩).wf = false ∧ (Instr.readModifyWrite 0 0 ⟨[(41, 1)], []⟩ false).wf = false ∧
    (Instr.readModifyWrite 0 0 ⟨[(0, 0)], []⟩ false).wf = false ∧ (Instr.readModifyWrite 0 0 ⟨[(0, 1), (0, 2)], []⟩ false).wf = false := by decide

theorem test_wf_port : (Instr.join (.fabric 3)).wf = true ∧ (Instr.join (.fabric 4)).wf = false ∧ (Instr.join (.splice 4)).wf = false ∧
    (Instr.updateArrival ⟨.pod 34, []⟩).wf = false ∧ (Instr.updateArrival ⟨.xbar (.fabric 4), []⟩).wf = false ∧
    (Instr.shortUp ⟨.fabric 4, false⟩).wf = false ∧ (Instr.outputWrite ⟨32, []⟩).wf = false ∧ (Instr.fabricFlitReceive 0 ⟨4, true, true, []⟩).wf = false ∧
    (Instr.fabricFlitReceive 0 ⟨0, true, true, [[]]⟩).wf = false ∧ (Instr.spliceFlitReceive 0 []).wf = false := by decide

theorem test_wf_rest : (Instr.memoryWriteAck 32 0 false).wf = false ∧ (Instr.memoryWriteAck 0 256 false).wf = false ∧ (Instr.vpCredit 8).wf = false ∧
    (Instr.triggerFire 4096).wf = false ∧ (Instr.drainStart 32).wf = false ∧ (Instr.actTableWrite .ring 8 0 []).wf = false ∧
    (Instr.irqPendingWrite .ring 256 0).wf = false ∧ (Instr.collStallWatchdog 65536).wf = false ∧
    (Instr.memoryReadBeat 0 1024 false 0 []).wf = false ∧ (Instr.bankCopyComplete 0 0 [2048]).wf = false ∧
    (Instr.testAccessPort (.fuse 96)).wf = false ∧ (Instr.testAccessPort (.scan 34 none)).wf = false ∧
    (Instr.testAccessPort (.sector 0 0 2048)).wf = false ∧ (Instr.testAccessPort (.bistSlice 32)).wf = false := by decide

/-- No row of the table gives its command bits. -/
theorem test_decode : decodeTableWord 32 0x12345678 = none ∧ State.reset.withFetchWord 32 0x12345678 = State.reset := ⟨rfl, rfl⟩

end Sys2Proof.Machine.Tests
end

section
/-!
Exact sums (R44 to R46). A word without a residue fault is settled by its bits, its tag and its high miss; the residue that an adder
predicts is that of the result's bits exactly when the words' own residues are in step with theirs. So sums of such words are sums of
integers modulo 2^W.
-/

namespace Sys2Proof.Machine

/-! ### Two's complement fields -/

/-- A field keeps its integer modulo 2^W. -/
theorem sext_emod (W n : Nat) : sext W n % (2 ^ W : Nat) = (n : Int) % (2 ^ W : Nat) := by
  unfold sext
  split
  · rw [Int.natCast_emod, Int.emod_emod]
  · rw [Int.sub_emod_right, Int.natCast_emod, Int.emod_emod]

theorem unsext_cast (W : Nat) (i : Int) : (unsext W i : Int) = i % (2 ^ W : Nat) :=
  Int.toNat_of_nonneg (Int.emod_nonneg i (Int.ne_of_gt (Int.natCast_pos.2 (Nat.two_pow_pos W))))

theorem unsext_lt (W : Nat) (i : Int) : unsext W i < 2 ^ W := by
  have h : i % (2 ^ W : Nat) < (2 ^ W : Nat) := Int.emod_lt_of_pos i (Int.natCast_pos.2 (Nat.two_pow_pos W))
  rw [← unsext_cast] at h
  exact Int.ofNat_lt.1 h

theorem unsext_add (W : Nat) (i j : Int) : unsext W (i + j) = (unsext W i + unsext W j) % 2 ^ W := by
  refine Int.ofNat_inj.1 ?_
  rw [unsext_cast, Int.natCast_emod, Int.natCast_add, unsext_cast, unsext_cast]
  exact Int.add_emod i j _

/-- Two fields added and read as two's complement give the sum of what each reads as, modulo 2^W. -/
theorem sext_add_mod (W x y : Nat) : sext W ((x + y) % 2 ^ W) = sext W ((sext W x + sext W y) % (2 ^ W : Nat)).toNat := by
  have h : (sext W x + sext W y) % (2 ^ W : Nat) = (((x + y) % 2 ^ W : Nat) : Int) := by
    rw [Int.add_emod, sext_emod, sext_emod, ← Int.add_emod, Int.natCast_emod, Int.natCast_add]
  rw [h, Int.toNat_natCast]

/-! ### Residues -/

/-- 2^128 is 4 and 2^256 is 16 modulo 63 (R46). -/
theorem two_pow_mod_63 {W : Nat} (hW : W = 128 ∨ W = 256) : 2 ^ W % 63 = rhoOf W % 63 := by
  rcases hW with rfl | rfl <;> decide

/-- A word has no residue fault exactly when its residue is that of its bits. -/
theorem ZWord.residueFault_eq_false {z : ZWord} : z.residueFault = false ↔ z.res.toNat = z.val.toNat % 63 := by
  simp only [ZWord.residueFault, res63, Bool.or_eq_false_iff, beq_eq_false_iff_ne, bne_eq_false_iff_eq]
  omega

/-- Words without a residue fault that have the same bits, tag and high miss are the same word. -/
theorem ZWord.eq_of_faultless {x y : ZWord} (hx : x.residueFault = false) (hy : y.residueFault = false)
    (hv : x.val.toNat = y.val.toNat) (ht : x.tag = y.tag) (hh : x.hm = y.hm) : x = y := by
  rw [residueFault_eq_false] at hx hy
  have hr : x.res = y.res := BitVec.eq_of_toNat_eq (by rw [hx, hy, hv])
  change ZWord.mk x.val x.tag x.res x.hm = ZWord.mk y.val y.tag y.res y.hm
  rw [BitVec.eq_of_toNat_eq hv, ht, hr, hh]

/-! ### The combination of two words -/

theorem zPredict_lt (W : Nat) (x y : ZWord) : zPredict W x y < 63 := Nat.mod_lt _ (by decide)

theorem zAdd_res (W : Nat) (x y : ZWord) : (zAdd W x y).res.toNat = zPredict W x y := by
  have := zPredict_lt W x y
  simp only [zAdd, BitVec.toNat_ofNat]
  omega

theorem zAdd_comm (W : Nat) (x y : ZWord) : zAdd W x y = zAdd W y x := by
  rw [zAdd, zAdd, zPredict, zPredict, Nat.add_comm x.val.toNat, Nat.add_comm x.res.toNat, BitVec.or_comm x.tag, Bool.or_comm x.hm]

/-- The carry out of bit W - 1. -/
theorem carry_eq {W x y : Nat} (hx : x < 2 ^ W) (hy : y < 2 ^ W) : (if x + y < 2 ^ W then 0 else 1) = (x + y) / 2 ^ W := by
  symm
  split
  · next h => exact Nat.div_eq_of_lt h
  · exact Nat.div_eq_of_lt_le (by omega) (by omega)

/-- R46 in integers: the residues added, less ρ for each carry. -/
theorem zPredict_cast {W : Nat} {x y : ZWord} (hx : x.val.toNat < 2 ^ W) (hy : y.val.toNat < 2 ^ W) :
    (zPredict W x y : Int) =
      ((x.res.toNat : Int) + y.res.toNat - ((x.val.toNat + y.val.toNat) / 2 ^ W : Nat) * (rhoOf W : Nat)) % 63 := by
  have hρ : rhoOf W ≤ 16 := by unfold rhoOf; split <;> decide
  simp only [zPredict, ← carry_eq hx hy]
  split <;> omega

section
variable {W : Nat} (hW : W = 128 ∨ W = 256)
include hW

/-- A field of either width stands in a word's 256 bits. -/
theorem toNat_ofNat_of_lt_two_pow {n : Nat} (h : n < 2 ^ W) : (BitVec.ofNat 256 n).toNat = n := by
  rw [BitVec.toNat_ofNat, Nat.mod_eq_of_lt]
  exact Nat.lt_of_lt_of_le h (Nat.pow_le_pow_right (by decide) (by omega))

theorem zAdd_val (x y : ZWord) : (zAdd W x y).val.toNat = (x.val.toNat + y.val.toNat) % 2 ^ W :=
  toNat_ofNat_of_lt_two_pow hW (Nat.mod_lt _ (Nat.two_pow_pos W))

/-- Modulo 63 the bits of a sum, with ρ for each carry, are those of the words added. -/
theorem sum_bits_mod_63 (x y : Nat) : ((x + y) % 2 ^ W + (x + y) / 2 ^ W * rhoOf W) % 63 = (x + y) % 63 := by
  have hcarry : 2 ^ W * ((x + y) / 2 ^ W) % 63 = (x + y) / 2 ^ W * rhoOf W % 63 := by
    rw [Nat.mul_comm, Nat.mul_mod, two_pow_mod_63 hW, ← Nat.mul_mod]
  have hsplit := Nat.mod_add_div (x + y) (2 ^ W)
  omega

/-- The prediction is in step with the result's bits exactly when the words' residues added are in step with their bits. -/
theorem zAdd_faultless_iff {x y : ZWord} (hx : x.val.toNat < 2 ^ W) (hy : y.val.toNat < 2 ^ W) :
    (zAdd W x y).residueFault = false ↔ (x.res.toNat + y.res.toNat) % 63 = (x.val.toNat + y.val.toNat) % 63 := by
  have hp := zPredict_cast hx hy
  have hb := sum_bits_mod_63 hW x.val.toNat y.val.toNat
  rw [ZWord.residueFault_eq_false, zAdd_res, zAdd_val hW]
  rw [← Int.natCast_mul] at hp
  omega

theorem zAdd_faultless {x y : ZWord} (hx : x.val.toNat < 2 ^ W) (hy : y.val.toNat < 2 ^ W) (fx : x.residueFault = false)
    (fy : y.residueFault = false) : (zAdd W x y).residueFault = false := by
  rw [ZWord.residueFault_eq_false] at fx fy
  rw [zAdd_faultless_iff hW hx hy]
  omega

/-- A residue out of step with its bits shows in the sum with a word in step. -/
theorem zAdd_faulty {x z : ZWord} (hx : x.val.toNat < 2 ^ W) (hz : z.val.toNat < 2 ^ W) (fx : x.residueFault = false)
    (fz : z.residueFault = true) (h63 : z.res ≠ 63) : (zAdd W x z).residueFault = true := by
  have hlt : z.res.toNat ≠ 63 := fun h => h63 (BitVec.eq_of_toNat_eq h)
  rw [ZWord.residueFault_eq_false] at fx
  rw [← Bool.not_eq_false, ZWord.residueFault_eq_false] at fz
  rw [← Bool.not_eq_false, zAdd_faultless_iff hW hx hz]
  omega

theorem zAdd_val_lt (x y : ZWord) : (zAdd W x y).val.toNat < 2 ^ W := by
  rw [zAdd_val hW]
  exact Nat.mod_lt _ (Nat.two_pow_pos W)

theorem zAdd_assoc {x y z : ZWord} (hx : x.val.toNat < 2 ^ W) (hy : y.val.toNat < 2 ^ W) (hz : z.val.toNat < 2 ^ W)
    (fx : x.residueFault = false) (fy : y.residueFault = false) (fz : z.residueFault = false) :
    zAdd W (zAdd W x y) z = zAdd W x (zAdd W y z) := by
  have fxy := zAdd_faultless hW hx hy fx fy
  have fyz := zAdd_faultless hW hy hz fy fz
  refine ZWord.eq_of_faultless (zAdd_faultless hW (zAdd_val_lt hW x y) hz fxy fz)
    (zAdd_faultless hW hx (zAdd_val_lt hW y z) fx fyz) ?_ (BitVec.or_assoc ..) (Bool.or_assoc ..)
  simp only [zAdd_val hW, Nat.mod_add_mod, Nat.add_mod_mod, Nat.add_assoc]

theorem zAdd_toInt (x y : ZWord) : (zAdd W x y).toInt W = sext W ((x.toInt W + y.toInt W) % (2 ^ W : Nat)).toNat := by
  rw [ZWord.toInt, zAdd_val hW, sext_add_mod]
  rfl

/-! ### Words of integers -/

theorem ofInt_val (i : Int) (t : BitVec 2) (h : Bool) : (ZWord.ofInt W i t h).val.toNat = unsext W i :=
  toNat_ofNat_of_lt_two_pow hW (unsext_lt W i)

theorem ofInt_faultless (i : Int) (t : BitVec 2) (h : Bool) : (ZWord.ofInt W i t h).residueFault = false := by
  rw [ZWord.residueFault_eq_false, ofInt_val hW]
  simp only [ZWord.ofInt, res63, BitVec.toNat_ofNat]
  omega

theorem ofInt_toInt_emod (i : Int) (t : BitVec 2) (h : Bool) :
    (ZWord.ofInt W i t h).toInt W % (2 ^ W : Nat) = i % (2 ^ W : Nat) := by
  rw [ZWord.toInt, ofInt_val hW, sext_emod, unsext_cast, Int.emod_emod]

/-- The words of two integers combine to the word of their sum. -/
theorem zAdd_ofInt (i j : Int) (t u : BitVec 2) (h g : Bool) :
    zAdd W (ZWord.ofInt W i t h) (ZWord.ofInt W j u g) = ZWord.ofInt W (i + j) (t ||| u) (h || g) := by
  have hlt : ∀ (k : Int) (v : BitVec 2) (b : Bool), (ZWord.ofInt W k v b).val.toNat < 2 ^ W := fun k v b => by
    rw [ofInt_val hW]
    exact unsext_lt W k
  refine ZWord.eq_of_faultless
    (zAdd_faultless hW (hlt ..) (hlt ..) (ofInt_faultless hW ..) (ofInt_faultless hW ..)) (ofInt_faultless hW ..) ?_ rfl rfl
  simp only [zAdd_val hW, ofInt_val hW, unsext_add]

end

/-! ### Products -/

/-- The word that one product forms. -/
theorem sumProducts_singleton (W : Nat) (a : Int) (p : Prd) : (sumProducts W a [p]).1 =
    ZWord.ofInt W (placeProduct W a p).p (placeProduct W a p).tag (placeProduct W a p).high := by
  simp [sumProducts]

/-- A fold from a unit over two lists joined. -/
theorem foldl_append_of_unit {α : Type} (op : α → α → α) [Std.Associative op] {e : α} (he : ∀ a, op a e = a) (l m : List α) :
    (l ++ m).foldl op e = op (l.foldl op e) (m.foldl op e) := by
  rw [List.foldl_append, ← List.foldl_assoc (op := op), he]

/-- The products of two lists: their words combined, their low misses added. -/
theorem sumProducts_append {W : Nat} (hW : W = 128 ∨ W = 256) (a : Int) (l m : List Prd) :
    (sumProducts W a (l ++ m)).1 = zAdd W (sumProducts W a l).1 (sumProducts W a m).1 ∧
      (sumProducts W a (l ++ m)).2 = (sumProducts W a l).2 + (sumProducts W a m).2 := by
  constructor
  · simp only [sumProducts, zAdd_ofInt hW, List.map_append, List.any_append]
    rw [foldl_append_of_unit (· + ·) Int.add_zero, foldl_append_of_unit (e := 0) (· ||| ·) fun _ => BitVec.or_zero]
  · simp [sumProducts]

/-- Products in another order. -/
theorem sumProducts_perm (W : Nat) (a : Int) {l m : List Prd} (h : l.Perm m) : sumProducts W a l = sumProducts W a m := by
  have hq := h.map (placeProduct W a)
  have hsum := (hq.map (·.p)).foldl_eq' (f := (· + ·)) (fun x _ y _ z => Int.add_right_comm z x y) 0
  have htag := (hq.map (·.tag)).foldl_eq' (f := (· ||| ·)) (fun x _ y _ z => by rw [BitVec.or_assoc, BitVec.or_comm x, BitVec.or_assoc]) 0
  simp only [sumProducts]
  rw [hsum, htag, hq.any_eq, (hq.filter _).length_eq]

/-- Settles O59: words without residue faults are integers modulo 2^W with their tags and misses, and a list of products is the
word of its sum. -/
theorem sumsDoNotDependOnOrder : Obligations.SumsDoNotDependOnOrder := by
  intro W hW
  have hN : (2 : Int) ^ W = (2 ^ W : Nat) := (Int.natCast_pow 2 W).symm
  rw [hN]
  refine ⟨fun x y => ?_, fun x y hx hy => ?_, fun x y z hx hy hz fx fy => ?_, fun a l m => ?_⟩
  · exact ⟨zAdd_toInt hW x y, rfl, rfl, zAdd_comm W x y⟩
  · have hρ : (rhoOf W : Int) = if W = 128 then 4 else 16 := by rcases hW with rfl | rfl <;> rfl
    refine ⟨by rw [zAdd_res, zPredict_cast hx hy, hρ], ?_⟩
    rw [← Bool.not_eq_false, ZWord.residueFault_eq_false]
  · exact ⟨zAdd_faultless hW hx hy fx fy, zAdd_assoc hW hx hy hz fx fy, zAdd_faulty hW hx hz fx⟩
  · obtain ⟨hword, hlow⟩ := sumProducts_append hW a l m
    refine ⟨fun p => ?_, hword, hlow, ofInt_faultless hW .., sumProducts_perm W a⟩
    rw [(sumProducts_append hW a l [p]).1, sumProducts_singleton, zAdd_toInt hW, Int.add_emod, ofInt_toInt_emod hW, ← Int.add_emod]
    exact ⟨rfl, rfl, rfl⟩

end Sys2Proof.Machine
end

section
/-!
A drained row whose sectors cannot be corrected, with a channel in FAULT_IRQ_CHANNEL. R437 has the health unit set that channel's bit
of IRQ_PENDING at every entry of the fault log, so a row that asks for a replay does not leave the channels as they were.
-/

namespace Sys2Proof.Machine

/-- Three bytes of a sector struck at once: beyond what its code corrects (R421). -/
def threeBytes : Upset := [(0, 1), (1, 2), (2, 3)]

/-- Part 0 of the tile: 32 rows of 128 columns in slice 0. -/
def lostPart : Part := ⟨0, 0, 32, 0, 128, 0, false⟩

/-- A tile of one part whose accumulator is complete and whose drain has started. -/
def lostTile : TileCtx where
  id := 7
  ch := 4
  seq := 5
  run := 0
  item := 0
  org := ⟨0, 0, 0⟩
  acc := 0
  shape := 0
  pos := 0
  half := 0
  rows := 32
  inRows := 32
  path := .dense
  segs := []
  parts := [lostPart]
  gen := 0
  count := 1
  expect := some 1
  steps := 1
  low := 0
  dropped := 0
  marks := [(0, 0)]
  progress := []
  freezes := []
  floors := 1
  streamed := [(0, 0)]
  dLoaded := false
  readyAt := some 1
  started := true
  sweeping := false
  wrote := false
  needReplay := none
  tally := ⟨0, 0, 0, 0, 0, 0⟩
  drained64 := []

/-- The call sheet of the tile, its records all zero. -/
def lostProblem : Problem := readProblem (fun _ => 0) 0

/-- The GEMM of the tile, on channel 4. -/
def lostCmd : Cmd :=
  { Cmd.fetched 4 5 1 (ChanEntry.ofNat 0) with phase := .running, kind := some .gemm, prob := some lostProblem, opened := true }

/-- The work of drain 0 before the part's first row. -/
def lostJob : DrainJob := ⟨7, 0, 0, [], [], false, false, false⟩

/-- In service, with drain 0 at work on the tile, and with channel 4 in FAULT_IRQ_CHANNEL (object 0x7000.04). -/
def lostRow : State := { State.reset with e := { Eng.reset.updDrain 0 fun u => { u with job := some lostJob } with
  ready := true
  place := { Place.reset with ctxs := [lostTile] }
  chan := { ChanSt.reset with cmds := [lostCmd] }
  health := { HealthSt.reset with irqChannel := 4 } } }

/-- The bank of the row's first accumulator is read with the upset. -/
def lostRead : Instr := .drainRow 0 ⟨[(0, threeBytes)], [], []⟩

/-- What the drain reads of a sector of the row under the upset. -/
def lostGot (x : Nat × Nat) : Option SectorRead :=
  lostRow.e.stage.readSector x.2 ((([(0, threeBytes)].find? fun u => u.1 == x.1).map (·.2)).getD [])

/-- No sector of the row is read with a correction. -/
theorem lostGot_not_fixed : ∀ x ∈ lostTile.rowSectors 0 0 lostPart, ∀ r, lostGot x = some r → r.dataFixed = false := by
  have hall : ∀ x ∈ lostTile.rowSectors 0 0 lostPart, ((lostGot x).all fun r => !r.dataFixed) = true := by decide +kernel
  intro x hx r hr
  simpa [hr] using hall x hx

/-- The sector in bank 0 cannot be read. -/
theorem lostGot_none : (lostTile.rowSectors 0 0 lostPart).filter (fun x => (lostGot x).isNone) ≠ [] := by decide +kernel

/-- DRAIN_ROW is an event of the ACLK domain. -/
theorem exec_drainRow (d : Nat) (r : RowReads) (s : State) :
    exec (.drainRow d r) s = s.runAclk fun rd e => e.drainRow rd d r.upsets r.faults r.moved := rfl

/-- The lost row sets bit 4 of IRQ_PENDING (R437, R335). -/
theorem lostRow_raises_irq {t : State} (h : exec lostRead lostRow = .next t) : t.e.chan.irq = [0x10, 0, 0, 0] := by
  rw [lostRead, exec_drainRow, State.runAclk_eq rfl] at h
  cases h
  decide +kernel

/-- Refutes O50: where FAULT_IRQ_CHANNEL holds a channel whose bit is clear, the log entry of a lost row sets it (R437), so the clause
by which a row that asks for a replay leaves the channels as they were fails. -/
theorem not_rowsAreEmittedOnce : ¬ Obligations.RowsAreEmittedOnce := by
  intro h
  obtain ⟨-, -, hlost, -⟩ := h lostRow 0 lostJob lostTile lostCmd lostProblem .gemm lostPart ⟨rfl, rfl, rfl⟩ rfl rfl rfl rfl rfl
  obtain ⟨t, hexec, -, -, -, -, -, -, hreplay, -⟩ :=
    hlost [(0, threeBytes)] [] rfl (by decide) rfl rfl (by decide) lostGot_not_fixed lostGot_none
  obtain ⟨-, -, hchan⟩ := hreplay (by decide +kernel)
  have hirq : lostRow.e.chan.irq = [0x10, 0, 0, 0] := hchan ▸ lostRow_raises_irq hexec
  exact absurd hirq (by decide)

end Sys2Proof.Machine
end
